-- ==== Sys2Proof/Word.lean ====
section
/-! DEFINITION. The machine's words and the one shape of keyed storage. -/

namespace Sys2Proof

/-- A general register's width (R28), and the width of an address (R99). -/
abbrev Word := BitVec 64

/-- The smallest addressable unit (R4). -/
abbrev Byte := BitVec 8

/-- The bits of an FP32 value (R62). -/
abbrev F32 := BitVec 32

/-- The bits of one vector register (R28). -/
abbrev VWord := BitVec 2048

/-- The bits of one mask register (R28). -/
abbrev MWord := BitVec 256

/-- Keyed storage as plain data: entries with strictly rising keys; a key that is not listed holds the
default of its reader. -/
abbrev SMap (α : Type) := List (Nat × α)

end Sys2Proof
end

