-- ==== Sys2Proof/Syntax.lean ====
section
/-! DEFINITION. The instructions: one constructor for each row of the opcode table. -/

namespace Sys2Proof

/-- The fields every general-layout lane word carries (R50). -/
structure LaneHdr where
  idle : BitVec 6
  rep  : BitVec 12
  step : BitVec 12
  deriving DecidableEq, Repr

/-- The fields every address-carrying lane word carries (R50). -/
structure LaneAddr where
  idle  : BitVec 6
  layer : BitVec 4
  bank  : BitVec 2
  row   : BitVec 14
  deriving DecidableEq, Repr

/-- The common header of an engine record, less its type (R241). -/
structure RecHdr where
  scope : BitVec 3
  cen   : Bool
  ctr   : BitVec 13
  nid   : BitVec 8
  deriving DecidableEq, Repr

/-- A bind record of the slot table, less its OP (R294). -/
structure NextRec where
  pre  : Bool
  lctr : BitVec 13
  unit : BitVec 11
  prio : BitVec 8
  job  : BitVec 8
  save : Word
  load : Word
  deriving DecidableEq, Repr

/-- The classes of core that a launch places units on (R278 CTL.CLASS 0 and 1). -/
inductive UnitClass where
  | stack | tile
  deriving DecidableEq, Repr

/-- The UCIe links of a stack: to the hub, and to the ring neighbours (R416). -/
inductive UcieLink where
  | hub | next | prev
  deriving DecidableEq, Repr

/-- Why a fabric port sheds lanes (R425). -/
inductive ShedCause where
  | errors | lostLock | governor
  deriving DecidableEq, Repr

/-- Why a member declares a path failed (R437). -/
inductive PathCause where
  | portDown | unacknowledged
  deriving DecidableEq, Repr

/-- Who accesses a BAR0 register (R284, R294, R349): the host's functions, or the headwater core. -/
inductive Writer where
  | host | headwater | vf (f : Nat)
  deriving DecidableEq, Repr

/-- The bytes of BAR0 that a read covers: the offset of the first, and how many (R5). -/
structure BarSpan where
  off : Nat
  n   : Nat
  deriving DecidableEq, Repr

/-- Inlet conditions as sensed: supply in millivolts, coolant in tenths of a degree Celsius and its flow in millilitres
per minute (R16). -/
structure Inlet where
  millivolt : Nat
  coolant   : Nat
  flow      : Nat
  deriving DecidableEq, Repr

/-- A request that reaches a cache slice port (R385, R386). -/
structure SliceReq where
  pa    : Nat
  write : Bool
  len   : Nat
  data  : List Byte
  key   : Nat
  /-- An AMO, CAS or RED on `len` bytes with operand `data`, by the OP that R422 gives it, or, 0x30, an arrival at a barrier
  record. -/
  op    : Option Nat
  /-- The value that a CAS expects. -/
  expected : Nat
  /-- The unit whose access it is, by its serial number. -/
  owner : Option Nat
  deriving DecidableEq, Repr

/-- A raft frame as a receiver holds it after decryption (R419, R421, R422): its EtherType, its version and its reserved bits
(those of GROUP in bits 1:0, those of FLAGS in bits 5:2), the header's fields, the payload, and `tagOk`, the outcome of the
SM4-GCM tag check. Three things come beside the header, which has no bytes for them: `rbar`, the barrier at the receiver that
a QPW or QPWR names (R269, log 49), `nack`, the check and address that an acknowledgement tells of (R269, log 26), and
`paths`, the path states that a NOTE tells of (R429, log 25). -/
structure Frame where
  etype   : Nat := 0x88B5
  ver     : Nat := 1
  rsv     : Nat := 0
  kind    : Nat
  op      : Nat
  jtag    : Nat
  key     : Nat
  group   : Nat
  tsv     : Bool
  red     : Bool
  sw      : Bool
  ep      : Bool
  hr      : Nat
  srcm    : Nat
  dstm    : Nat
  nmemb   : Nat
  x       : Nat
  nelem   : Nat
  seq     : Nat
  acked   : Nat
  chunk   : Nat
  round   : Nat
  mbmap   : Nat
  ts      : Nat
  addr    : Nat
  payload : List Byte
  rbar    : Nat
  nack    : Option (Nat × Nat) := none
  paths   : List Nat := []
  tagOk   : Bool
  port    : Nat
  deriving DecidableEq, Repr

/-- What the host sends to the device as SPDM responder (R426): a message by its request code, the offer of algorithm sets, by
whether it holds all of R426, and, inside its session, the key of a second-tier key slot or of a session key slot (R393,
R423; log 130). -/
inductive HostSpdm where
  | message (code : BitVec 8)
  | negotiate (offered : Bool)
  | memoryKey (slot : BitVec 8) (key : BitVec 256)
  | sessionKey (slot : BitVec 8) (key : BitVec 128)
  deriving DecidableEq, Repr

/-- One constructor for each row of the opcode table: core instructions (R35), lane words (R50), engine records
(R53), and the steps that the device and its surroundings take. -/
inductive Instr where
  /-- R101. Writes (g(a) + g(b)) mod 2^64 to g(d). -/
  | add (d : BitVec 5) (a : BitVec 5) (b : BitVec 5)
  /-- R101. Writes (g(a) - g(b)) mod 2^64 to g(d). -/
  | sub (d : BitVec 5) (a : BitVec 5) (b : BitVec 5)
  /-- R101. Writes the bitwise AND of g(a) and g(b) to g(d). -/
  | and (d : BitVec 5) (a : BitVec 5) (b : BitVec 5)
  /-- R101. Writes the bitwise OR of g(a) and g(b) to g(d). -/
  | or (d : BitVec 5) (a : BitVec 5) (b : BitVec 5)
  /-- R101. Writes the bitwise XOR of g(a) and g(b) to g(d). -/
  | xor (d : BitVec 5) (a : BitVec 5) (b : BitVec 5)
  /-- R101. Writes g(a) AND NOT g(b) to g(d). -/
  | andn (d : BitVec 5) (a : BitVec 5) (b : BitVec 5)
  /-- R101. Shifts g(a) left by g(b)[5:0]. -/
  | shl (d : BitVec 5) (a : BitVec 5) (b : BitVec 5)
  /-- R101. Shifts g(a) right by g(b)[5:0], zero filled. -/
  | shr (d : BitVec 5) (a : BitVec 5) (b : BitVec 5)
  /-- R101. Shifts g(a) right by g(b)[5:0], sign filled. -/
  | sra (d : BitVec 5) (a : BitVec 5) (b : BitVec 5)
  /-- R101. Rotates g(a) right by g(b)[5:0] places. -/
  | rotr (d : BitVec 5) (a : BitVec 5) (b : BitVec 5)
  /-- R101. Writes the low 64 bits of g(a) times g(b). -/
  | mul (d : BitVec 5) (a : BitVec 5) (b : BitVec 5)
  /-- R101. Writes the high 64 bits of the signed 128-bit product. -/
  | mulhi (d : BitVec 5) (a : BitVec 5) (b : BitVec 5)
  /-- R101. Writes the high 64 bits of the unsigned 128-bit product. -/
  | mulhn (d : BitVec 5) (a : BitVec 5) (b : BitVec 5)
  /-- R102. Writes the signed quotient, with the non-trapping cases for a zero divisor and for overflow. -/
  | div (d : BitVec 5) (a : BitVec 5) (b : BitVec 5)
  /-- R102. Writes the unsigned quotient; a zero divisor gives all ones. -/
  | divn (d : BitVec 5) (a : BitVec 5) (b : BitVec 5)
  /-- R102. Writes the signed remainder. -/
  | rem (d : BitVec 5) (a : BitVec 5) (b : BitVec 5)
  /-- R102. Writes the unsigned remainder. -/
  | remn (d : BitVec 5) (a : BitVec 5) (b : BitVec 5)
  /-- R101. Writes the signed minimum of g(a) and g(b). -/
  | min (d : BitVec 5) (a : BitVec 5) (b : BitVec 5)
  /-- R101. Writes the signed maximum of g(a) and g(b). -/
  | max (d : BitVec 5) (a : BitVec 5) (b : BitVec 5)
  /-- R101. Writes the unsigned minimum of g(a) and g(b). -/
  | minn (d : BitVec 5) (a : BitVec 5) (b : BitVec 5)
  /-- R101. Writes the unsigned maximum of g(a) and g(b). -/
  | maxn (d : BitVec 5) (a : BitVec 5) (b : BitVec 5)
  /-- R101. Writes 1 if g(a) < g(b) as signed values, else 0. -/
  | slt (d : BitVec 5) (a : BitVec 5) (b : BitVec 5)
  /-- R101. Writes 1 if g(a) < g(b) as unsigned values, else 0. -/
  | sltn (d : BitVec 5) (a : BitVec 5) (b : BitVec 5)
  /-- R101. Counts the leading zero bits of g(a). -/
  | clz (d : BitVec 5) (a : BitVec 5)
  /-- R101. Counts the trailing zero bits of g(a). -/
  | ctz (d : BitVec 5) (a : BitVec 5)
  /-- R101. Counts the one bits of g(a). -/
  | popc (d : BitVec 5) (a : BitVec 5)
  /-- R103. Adds the sign-extended immediate to g(a). -/
  | addi (d : BitVec 5) (a : BitVec 5) (imm : BitVec 16)
  /-- R103. ANDs g(a) with the zero-extended immediate. -/
  | andi (d : BitVec 5) (a : BitVec 5) (imm : BitVec 16)
  /-- R103. ORs g(a) with the zero-extended immediate. -/
  | ori (d : BitVec 5) (a : BitVec 5) (imm : BitVec 16)
  /-- R103. XORs g(a) with the zero-extended immediate. -/
  | xori (d : BitVec 5) (a : BitVec 5) (imm : BitVec 16)
  /-- R103. Compares g(a) with the sign-extended immediate as signed values. -/
  | slti (d : BitVec 5) (a : BitVec 5) (imm : BitVec 16)
  /-- R103. Compares g(a) with the zero-extended immediate as unsigned values. -/
  | sltni (d : BitVec 5) (a : BitVec 5) (imm : BitVec 16)
  /-- R104. Shifts g(a) left by the immediate count. -/
  | shli (d : BitVec 5) (a : BitVec 5) (n : BitVec 6)
  /-- R104. Shifts g(a) right by the immediate count, zero filled. -/
  | shri (d : BitVec 5) (a : BitVec 5) (n : BitVec 6)
  /-- R104. Shifts g(a) right by the immediate count, sign filled. -/
  | srai (d : BitVec 5) (a : BitVec 5) (n : BitVec 6)
  /-- R105. Loads the immediate into the upper bits of g(d). -/
  | lui (d : BitVec 5) (imm : BitVec 16)
  /-- R106. Writes PC plus a byte offset to g(d). -/
  | addpc (d : BitVec 5) (imm : BitVec 16)
  /-- R107. Branches when g(a) equals g(b). -/
  | bEq (a : BitVec 5) (b : BitVec 5) (off : BitVec 13)
  /-- R107. Branches when g(a) differs from g(b). -/
  | bNe (a : BitVec 5) (b : BitVec 5) (off : BitVec 13)
  /-- R107. Branches when g(a) < g(b), signed. -/
  | bLt (a : BitVec 5) (b : BitVec 5) (off : BitVec 13)
  /-- R107. Branches when g(a) >= g(b), signed. -/
  | bGe (a : BitVec 5) (b : BitVec 5) (off : BitVec 13)
  /-- R107. Branches when g(a) < g(b), unsigned. -/
  | bLtn (a : BitVec 5) (b : BitVec 5) (off : BitVec 13)
  /-- R107. Branches when g(a) >= g(b), unsigned. -/
  | bGen (a : BitVec 5) (b : BitVec 5) (off : BitVec 13)
  /-- R108. Jumps by a signed 26-bit word count. -/
  | j (off : BitVec 26)
  /-- R108. Writes PC + 4 to g31, then jumps. -/
  | jal (off : BitVec 26)
  /-- R109. Jumps to g(a) plus an offset with bits 1:0 cleared, and links into g(d). -/
  | jalr (d : BitVec 5) (a : BitVec 5) (imm : BitVec 16)
  /-- R112. Activates a counted-loop entry, or skips the body when the count is zero. -/
  | loop (a : BitVec 5) (imm : BitVec 16)
  /-- R119. Loads 1 to 16 bytes, zero-extended, after the access checks of R122. -/
  | ld (d : BitVec 5) (a : BitVec 5) (sz : BitVec 3) (off : BitVec 13)
  /-- R119. Stores 1 to 16 bytes, or retires the store into the side log. -/
  | st (s : BitVec 5) (a : BitVec 5) (sz : BitVec 3) (off : BitVec 13)
  /-- R129. Prefetches a sector with read intent, with no architectural effect. -/
  | prefLd (a : BitVec 5) (sz : BitVec 3) (off : BitVec 13)
  /-- R129. Prefetches a sector with write intent. -/
  | prefSt (a : BitVec 5) (sz : BitVec 3) (off : BitVec 13)
  /-- R162. Atomically adds at the home and returns the old value. -/
  | amoAdd (d : BitVec 5) (a : BitVec 5) (b : BitVec 5) (ord : BitVec 2) (sc : BitVec 3) (wd : BitVec 1)
  /-- R162. Atomic signed minimum that returns the old value. -/
  | amoMin (d : BitVec 5) (a : BitVec 5) (b : BitVec 5) (ord : BitVec 2) (sc : BitVec 3) (wd : BitVec 1)
  /-- R162. Atomic signed maximum that returns the old value. -/
  | amoMax (d : BitVec 5) (a : BitVec 5) (b : BitVec 5) (ord : BitVec 2) (sc : BitVec 3) (wd : BitVec 1)
  /-- R162. Atomic unsigned minimum that returns the old value. -/
  | amoMinn (d : BitVec 5) (a : BitVec 5) (b : BitVec 5) (ord : BitVec 2) (sc : BitVec 3) (wd : BitVec 1)
  /-- R162. Atomic unsigned maximum that returns the old value. -/
  | amoMaxn (d : BitVec 5) (a : BitVec 5) (b : BitVec 5) (ord : BitVec 2) (sc : BitVec 3) (wd : BitVec 1)
  /-- R162. Atomic AND that returns the old value. -/
  | amoAnd (d : BitVec 5) (a : BitVec 5) (b : BitVec 5) (ord : BitVec 2) (sc : BitVec 3) (wd : BitVec 1)
  /-- R162. Atomic OR that returns the old value. -/
  | amoOr (d : BitVec 5) (a : BitVec 5) (b : BitVec 5) (ord : BitVec 2) (sc : BitVec 3) (wd : BitVec 1)
  /-- R162. Atomic XOR that returns the old value. -/
  | amoXor (d : BitVec 5) (a : BitVec 5) (b : BitVec 5) (ord : BitVec 2) (sc : BitVec 3) (wd : BitVec 1)
  /-- R162. Atomic swap that returns the old value. -/
  | amoSwap (d : BitVec 5) (a : BitVec 5) (b : BitVec 5) (ord : BitVec 2) (sc : BitVec 3) (wd : BitVec 1)
  /-- R162. Compares the value at the home with g(d) and, if equal, stores g(b); returns the old value. -/
  | cas (d : BitVec 5) (a : BitVec 5) (b : BitVec 5) (ord : BitVec 2) (sc : BitVec 3) (wd : BitVec 1)
  /-- R162. Reduction add at the home, returning nothing. -/
  | redAdd (a : BitVec 5) (b : BitVec 5) (ord : BitVec 1) (sc : BitVec 3) (wd : BitVec 1)
  /-- R162. Reduction signed minimum. -/
  | redMin (a : BitVec 5) (b : BitVec 5) (ord : BitVec 1) (sc : BitVec 3) (wd : BitVec 1)
  /-- R162. Reduction signed maximum. -/
  | redMax (a : BitVec 5) (b : BitVec 5) (ord : BitVec 1) (sc : BitVec 3) (wd : BitVec 1)
  /-- R162. Reduction unsigned minimum. -/
  | redMinn (a : BitVec 5) (b : BitVec 5) (ord : BitVec 1) (sc : BitVec 3) (wd : BitVec 1)
  /-- R162. Reduction unsigned maximum. -/
  | redMaxn (a : BitVec 5) (b : BitVec 5) (ord : BitVec 1) (sc : BitVec 3) (wd : BitVec 1)
  /-- R162. Reduction AND. -/
  | redAnd (a : BitVec 5) (b : BitVec 5) (ord : BitVec 1) (sc : BitVec 3) (wd : BitVec 1)
  /-- R162. Reduction OR. -/
  | redOr (a : BitVec 5) (b : BitVec 5) (ord : BitVec 1) (sc : BitVec 3) (wd : BitVec 1)
  /-- R162. Reduction XOR. -/
  | redXor (a : BitVec 5) (b : BitVec 5) (ord : BitVec 1) (sc : BitVec 3) (wd : BitVec 1)
  /-- R135. Adds active elements, rounded once. -/
  | vadd (d : BitVec 5) (a : BitVec 5) (b : BitVec 5) (mk : BitVec 3) (ty : BitVec 3)
  /-- R135. Subtracts active elements. -/
  | vsub (d : BitVec 5) (a : BitVec 5) (b : BitVec 5) (mk : BitVec 3) (ty : BitVec 3)
  /-- R135. Multiplies active elements. -/
  | vmul (d : BitVec 5) (a : BitVec 5) (b : BitVec 5) (mk : BitVec 3) (ty : BitVec 3)
  /-- R135. Computes va*vb + vd, fused and rounded once. -/
  | vfma (d : BitVec 5) (a : BitVec 5) (b : BitVec 5) (mk : BitVec 3) (ty : BitVec 3)
  /-- R135. Computes va*vb - vd, fused and rounded once. -/
  | vfms (d : BitVec 5) (a : BitVec 5) (b : BitVec 5) (mk : BitVec 3) (ty : BitVec 3)
  /-- R135. Takes the element-wise minimum. -/
  | vmin (d : BitVec 5) (a : BitVec 5) (b : BitVec 5) (mk : BitVec 3) (ty : BitVec 3)
  /-- R135. Takes the element-wise maximum. -/
  | vmax (d : BitVec 5) (a : BitVec 5) (b : BitVec 5) (mk : BitVec 3) (ty : BitVec 3)
  /-- R135. Takes the element-wise absolute value. -/
  | vabs (d : BitVec 5) (a : BitVec 5) (mk : BitVec 3) (ty : BitVec 3)
  /-- R135. Negates each element. -/
  | vneg (d : BitVec 5) (a : BitVec 5) (mk : BitVec 3) (ty : BitVec 3)
  /-- R136. Writes a mask of element equality. -/
  | vcmpEq (d : BitVec 3) (a : BitVec 5) (b : BitVec 5) (mk : BitVec 3) (ty : BitVec 3)
  /-- R136. Writes a mask of element inequality. -/
  | vcmpNe (d : BitVec 3) (a : BitVec 5) (b : BitVec 5) (mk : BitVec 3) (ty : BitVec 3)
  /-- R136. Writes a mask of va < vb. -/
  | vcmpLt (d : BitVec 3) (a : BitVec 5) (b : BitVec 5) (mk : BitVec 3) (ty : BitVec 3)
  /-- R136. Writes a mask of va <= vb. -/
  | vcmpLe (d : BitVec 3) (a : BitVec 5) (b : BitVec 5) (mk : BitVec 3) (ty : BitVec 3)
  /-- R137. Selects each element from va or vb by a selector mask. -/
  | vsel (d : BitVec 5) (a : BitVec 5) (b : BitVec 5) (mk : BitVec 3) (ty : BitVec 3)
  /-- R138. Element-wise bitwise AND. -/
  | vand (d : BitVec 5) (a : BitVec 5) (b : BitVec 5) (mk : BitVec 3) (ty : BitVec 3)
  /-- R138. Element-wise bitwise OR. -/
  | vor (d : BitVec 5) (a : BitVec 5) (b : BitVec 5) (mk : BitVec 3) (ty : BitVec 3)
  /-- R138. Element-wise bitwise XOR. -/
  | vxor (d : BitVec 5) (a : BitVec 5) (b : BitVec 5) (mk : BitVec 3) (ty : BitVec 3)
  /-- R138. Element-wise left shift. -/
  | vshl (d : BitVec 5) (a : BitVec 5) (b : BitVec 5) (mk : BitVec 3) (ty : BitVec 3)
  /-- R138. Element-wise logical right shift. -/
  | vshr (d : BitVec 5) (a : BitVec 5) (b : BitVec 5) (mk : BitVec 3) (ty : BitVec 3)
  /-- R138. Element-wise arithmetic right shift. -/
  | vsra (d : BitVec 5) (a : BitVec 5) (b : BitVec 5) (mk : BitVec 3) (ty : BitVec 3)
  /-- R139. Converts elements between types, with the rounding mode in vb[14]. -/
  | vcvt (d : BitVec 5) (a : BitVec 5) (rz : BitVec 1) (sty : BitVec 3) (mk : BitVec 3) (ty : BitVec 3)
  /-- R140. Correctly rounded 2^x per element. -/
  | vexp2 (d : BitVec 5) (a : BitVec 5) (mk : BitVec 3) (ty : BitVec 3)
  /-- R140. Correctly rounded log2 x per element. -/
  | vlog2 (d : BitVec 5) (a : BitVec 5) (mk : BitVec 3) (ty : BitVec 3)
  /-- R140. Correctly rounded 1/x per element. -/
  | vrcp (d : BitVec 5) (a : BitVec 5) (mk : BitVec 3) (ty : BitVec 3)
  /-- R140. Correctly rounded 1/sqrt(x) per element. -/
  | vrsq (d : BitVec 5) (a : BitVec 5) (mk : BitVec 3) (ty : BitVec 3)
  /-- R141. ANDs two whole mask registers. -/
  | mopAnd (d : BitVec 3) (a : BitVec 3) (b : BitVec 3)
  /-- R141. ORs two mask registers. -/
  | mopOr (d : BitVec 3) (a : BitVec 3) (b : BitVec 3)
  /-- R141. XORs two mask registers. -/
  | mopXor (d : BitVec 3) (a : BitVec 3) (b : BitVec 3)
  /-- R141. Computes ma AND NOT mb. -/
  | mopAndn (d : BitVec 3) (a : BitVec 3) (b : BitVec 3)
  /-- R141. Inverts a mask register. -/
  | mopNot (d : BitVec 3) (a : BitVec 3)
  /-- R142. Loads contiguous vector elements from memory. -/
  | vld (d : BitVec 5) (a : BitVec 5) (mk : BitVec 3) (ty : BitVec 3)
  /-- R142. Stores contiguous vector elements. -/
  | vst (d : BitVec 5) (a : BitVec 5) (mk : BitVec 3) (ty : BitVec 3)
  /-- R142. Strided vector load. -/
  | vlds (d : BitVec 5) (a : BitVec 5) (b : BitVec 5) (mk : BitVec 3) (ty : BitVec 3)
  /-- R142. Strided vector store. -/
  | vsts (d : BitVec 5) (a : BitVec 5) (b : BitVec 5) (mk : BitVec 3) (ty : BitVec 3)
  /-- R142. Gathers elements at indexed addresses. -/
  | vgath (d : BitVec 5) (a : BitVec 5) (b : BitVec 5) (mk : BitVec 3) (ty : BitVec 3)
  /-- R142. Scatters elements to indexed addresses; the higher index wins on overlap. -/
  | vscat (d : BitVec 5) (a : BitVec 5) (b : BitVec 5) (mk : BitVec 3) (ty : BitVec 3)
  /-- R148. Broadcasts a general register to the active elements. -/
  | vbcast (d : BitVec 5) (a : BitVec 5) (mk : BitVec 3) (ty : BitVec 3)
  /-- R148. Extracts one element into a general register. -/
  | vext (d : BitVec 5) (a : BitVec 5) (b : BitVec 5) (ty : BitVec 3)
  /-- R148. Inserts a general register into one element. -/
  | vins (d : BitVec 5) (a : BitVec 5) (b : BitVec 5) (ty : BitVec 3)
  /-- R149. Sums the active elements in a fixed balanced tree into element 0. -/
  | vredAdd (d : BitVec 5) (a : BitVec 5) (mk : BitVec 3) (ty : BitVec 3)
  /-- R149. Tree maximum of the active elements. -/
  | vredMax (d : BitVec 5) (a : BitVec 5) (mk : BitVec 3) (ty : BitVec 3)
  /-- R149. Tree minimum of the active elements. -/
  | vredMin (d : BitVec 5) (a : BitVec 5) (mk : BitVec 3) (ty : BitVec 3)
  /-- R150. Serial inclusive prefix sum over the active elements. -/
  | vscan (d : BitVec 5) (a : BitVec 5) (mk : BitVec 3) (ty : BitVec 3)
  /-- R151. Permutes elements by an index vector. -/
  | vperm (d : BitVec 5) (a : BitVec 5) (b : BitVec 5) (mk : BitVec 3) (ty : BitVec 3)
  /-- R152. Writes to each active element the count of active elements below it. -/
  | viota (d : BitVec 5) (mk : BitVec 3) (ty : BitVec 3)
  /-- R156. Noise-shaping quantising store to I8 with eddy carry. -/
  | vqstI8 (d : BitVec 5) (a : BitVec 5) (b : BitVec 5) (mk : BitVec 3) (ty : BitVec 1)
  /-- R156. Quantising store to N8. -/
  | vqstN8 (d : BitVec 5) (a : BitVec 5) (b : BitVec 5) (mk : BitVec 3) (ty : BitVec 1)
  /-- R156. Quantising store to I16. -/
  | vqstI16 (d : BitVec 5) (a : BitVec 5) (b : BitVec 5) (mk : BitVec 3) (ty : BitVec 1)
  /-- R156. Quantising store to BF16. -/
  | vqstBf (d : BitVec 5) (a : BitVec 5) (b : BitVec 5) (mk : BitVec 3) (ty : BitVec 1)
  /-- R156. Quantising store to MXI8 with per-block scales. -/
  | vqstMxi8 (d : BitVec 5) (a : BitVec 5) (b : BitVec 5) (mk : BitVec 3) (ty : BitVec 1)
  /-- R156. Quantising store to MXF4. -/
  | vqstMxf4 (d : BitVec 5) (a : BitVec 5) (b : BitVec 5) (mk : BitVec 3) (ty : BitVec 1)
  /-- R156. Quantising store to MXF8. -/
  | vqstMxf8 (d : BitVec 5) (a : BitVec 5) (b : BitVec 5) (mk : BitVec 3) (ty : BitVec 1)
  /-- R156. Quantising store of one RI32 chunk with its flag plane. -/
  | vqstRi32 (d : BitVec 5) (a : BitVec 5) (b : BitVec 5) (mk : BitVec 3) (ty : BitVec 1)
  /-- R165. Acquire fence at a scope. -/
  | fenceAcq (sc : BitVec 3)
  /-- R165. Release fence that waits for earlier accesses and for the side log to drain. -/
  | fenceRel (sc : BitVec 3)
  /-- R165. Acquire and release fence in one total order per scope. -/
  | fenceSc (sc : BitVec 3)
  /-- R166. Waits until earlier bank-fill stores to a layer have reached the bank write buffer. -/
  | lfence (a : BitVec 5) (all : BitVec 1) (layer : BitVec 4)
  /-- R168. Marks a range sealed and waits for earlier stores to it to perform. -/
  | seal (d : BitVec 5) (a : BitVec 5)
  /-- R169. Clears seals in a range once no replica remains. -/
  | unseal (d : BitVec 5) (a : BitVec 5)
  /-- R172. Initialises a barrier record with an expected count and registers it. -/
  | barinit (d : BitVec 5) (a : BitVec 5) (sc : BitVec 3)
  /-- R173. Release arrival at a barrier that tests for completion. -/
  | bararrive (d : BitVec 5) (a : BitVec 5) (trapf : BitVec 1) (sc : BitVec 3)
  /-- R176. Waits for the generation to move on, raising INHERIT at each attempt. -/
  | barwait (d : BitVec 5) (a : BitVec 5) (trapf : BitVec 1) (sc : BitVec 3)
  /-- R174. Adds pending bytes to PEND, saturating with OVF. -/
  | barpend (d : BitVec 5) (a : BitVec 5)
  /-- R179. Waits until a completion counter reaches a threshold or its work is cancelled. -/
  | cwait (d : BitVec 5) (a : BitVec 5)
  /-- R197. Writes back the dirty sectors of a range. -/
  | cwb (d : BitVec 5) (a : BitVec 5)
  /-- R197. Writes back and invalidates a range, keeping pinned lines. -/
  | cwbInv (d : BitVec 5) (a : BitVec 5)
  /-- R198. Sets a common aligned start tick for the next streams of the named lanes. -/
  | ralign (a : BitVec 5)
  /-- R180. Waits until TIME reaches g(a). -/
  | waitt (a : BitVec 5)
  /-- R184. Pushes a 128-bit record to an engine queue. -/
  | push (d : BitVec 5) (q : BitVec 3)
  /-- R185. Pushes a format word to the format queue. -/
  | pushf (d : BitVec 5)
  /-- R186. Sends one lane word to the named lanes. -/
  | lpush (d : BitVec 5) (a : BitVec 5)
  /-- R186. Sends a lane-word image up to its HALTL to the named lanes. -/
  | lpushImg (d : BitVec 5) (a : BitVec 5)
  /-- R187. Multicasts a vector register through the VFIFO into a buffer slot of the named lanes. -/
  | vsend (d : BitVec 5) (a : BitVec 5) (slot : BitVec 6) (buf : BitVec 2)
  /-- R188. Returns the status of a queue. -/
  | qstat (d : BitVec 5) (q : BitVec 3)
  /-- R189. Submits a launch packet to a submission queue. -/
  | launch (d : BitVec 5) (a : BitVec 5) (q : BitVec 6)
  /-- R190. Cancels the launch named by a counter. -/
  | cancelLaunch (d : BitVec 5) (a : BitVec 5)
  /-- R190. Cancels the graph named by a counter. -/
  | cancelGraph (d : BitVec 5) (a : BitVec 5)
  /-- R190. Cancels the phase named by a counter. -/
  | cancelPhase (d : BitVec 5) (a : BitVec 5)
  /-- R190. Cancels the unit's own job. -/
  | cancelJob (d : BitVec 5) (a : BitVec 5)
  /-- R192. Reads a system register into g(d). -/
  | rdsr (d : BitVec 5) (num : BitVec 11)
  /-- R192. Writes g(a) to a system register under its access codes. -/
  | wrsr (a : BitVec 5) (num : BitVec 11)
  /-- R193. Retires and takes a software trap to the next higher level. -/
  | trap (code : BitVec 11)
  /-- R372. Restores the trap frame and applies its disposition. -/
  | rtrap
  /-- R194. Restores the frame and re-issues its replay entries in order. -/
  | reinj
  /-- R195. When pre-emption is requested, drains, saves the context and gives up the slot. -/
  | yield
  /-- R196. Ends the unit once every issued instruction has finished. -/
  | halt
  /-- R39. Supplies high immediate bits to the following word. -/
  | xPrefix (xhi : BitVec 26) (next : BitVec 32)
  /-- R238. Lane word that occupies issue for rep + 1 ticks. -/
  | idle (h : LaneHdr)
  /-- R218. Lane word that opens a bank row into a row port. -/
  | act (h : LaneAddr) (port : BitVec 2)
  /-- R219. Lane word that closes one bank. -/
  | pre (h : LaneAddr)
  /-- R219. Lane word that closes every bank of the named ports and empties them. -/
  | prea (h : LaneHdr) (ports : BitVec 4)
  /-- R220. Lane word that refreshes a closed bank and resets its deadline. -/
  | ref (h : LaneAddr)
  /-- R221. Lane word that writes a 2 KiB row from lane scratch into the bank write buffer. -/
  | wrrow (h : LaneAddr) (src : BitVec 12)
  /-- R223. Lane word that sets the weight format, Kc and activation offset. -/
  | setfmt (h : LaneHdr) (xb : BitVec 9) (code : BitVec 4) (kcn : BitVec 8)
  /-- R224. Lane word that selects a port or lane scratch as the source of scales. -/
  | setsc (h : LaneHdr) (par : BitVec 12) (port : BitVec 2) (src : Bool)
  /-- R225. Lane word that sets LIM and clears KPOS. -/
  | maskk (h : LaneHdr) (lim : BitVec 24)
  /-- R227. Array lane word that accumulates dot products of streamed weights into an accumulator bank. -/
  | gemv (h : LaneHdr) (port buf : BitVec 2) (a : BitVec 3) (y8 : BitVec 5)
  /-- R227. Array lane word that applies each weight to nv activation vectors. -/
  | gemvb (h : LaneHdr) (port buf : BitVec 2) (a nv : BitVec 3) (y64 : BitVec 2)
  /-- R227. Array lane word that writes attention scores from +0, masking keys at or beyond LIM. -/
  | dotk (h : LaneHdr) (port buf : BitVec 2) (a : BitVec 3) (y8 : BitVec 5)
  /-- R228. Array lane word that adds score-weighted value rows into an output bank. -/
  | axpv (h : LaneHdr) (port : BitVec 2) (score out : BitVec 3) (y16 : BitVec 4)
  /-- R229. Lane word that updates the running max and sum of an attention slot and rescales its output. -/
  | stats (h : LaneHdr) (score out stat slot : BitVec 3)
  /-- R230. Lane word that writes +0 or -inf into accumulator elements. -/
  | accz (h : LaneHdr) (bank : BitVec 3) (ninf : Bool) (first : BitVec 8)
  /-- R231. Lane word that copies accumulator elements to another bank. -/
  | accmvBank (h : LaneHdr) (src dst : BitVec 3)
  /-- R231. Lane word that copies accumulator elements to lane scratch. -/
  | accmvScratch (h : LaneHdr) (src : BitVec 3) (off : BitVec 8)
  /-- R232. Lane word that moves buffer slots into accumulator elements. -/
  | popa (h : LaneHdr) (buf : BitVec 2) (first : BitVec 6) (bank : BitVec 3)
  /-- R233. Lane word that runs the quantising store under a scratch descriptor. -/
  | qst (h : LaneHdr) (strict : Bool) (desc : BitVec 12)
  /-- R236. Lane word that sends accumulator elements as a SUM contribution to the confluence tree. -/
  | rsendSum (h : LaneHdr) (bank : BitVec 3)
  /-- R236. Lane word that sends an attention triple as a MERGE contribution. -/
  | rsendMerge (h : LaneHdr) (bank stat slot : BitVec 3)
  /-- R237. Lane word that records a checkpoint, optionally aligned to a multiple of 64 ticks. -/
  | syncpt (h : LaneHdr) (align : Bool) (id : BitVec 11)
  /-- R222. Lane word that holds the next word until earlier WRROWs to a layer have arrived. -/
  | laneLfence (h : LaneHdr) (all : Bool) (layer : BitVec 4)
  /-- R238. Lane word that ends the stream. -/
  | haltl (h : LaneHdr)
  /-- R203. A lane starts a stream when a word reaches its queue head or at a pending RALIGN tick. -/
  | laneStreamStart (lane : Nat)
  /-- R209. A lane word retires once its results have reached their offsets and its writes have performed. -/
  | laneWordRetire (lane : Nat)
  /-- R212. The discard of a faulted stream ends at its HALTL and the lane becomes ready. -/
  | streamDiscardEnd (lane : Nat)
  /-- R210. An accepted VSEND entry lands in the buffer slot of its named lanes. -/
  | vfifoLand (quad : Nat)
  /-- R347. The confluence tree writes a completed sum into the lowest lane's scratch. -/
  | treeResultWrite (sum : Nat)
  /-- R417. A ring partial reaches the next stack, which adds its stack sum or forwards it. -/
  | ringSumArrive (sum : Nat)
  /-- R344. A quadrant named by PMASK becomes absent from sum k once no k-th sum can come from it. -/
  | quadrantAbsent (sum quad : Nat)
  /-- R220. A bank's refresh deadline expires on REFCLK. -/
  | refreshDeadlineReached (lane bank : Nat)
  /-- R340. The refresh guard refreshes a due bank at the lane's next boundary, stalling the lane. -/
  | guardRefresh (lane bank : Nat)
  /-- R239. A lane assigned to another job is reset. -/
  | laneReset (lane : Nat) (job : Option Nat)
  /-- R331. Bank memory of a column is scrubbed to zero at bring-up or on reassignment. -/
  | columnScrub (lane : Nat)
  /-- R338. A stack sensor reads 85 C or more; the stack enters the hot class and its deadlines are shortened. -/
  | tempHotEnter (stack celsius : Nat)
  /-- R338. After 1 ms at 82 C or less, the stack returns to the cool class. -/
  | tempCoolEnter (stack celsius : Nat)
  /-- R338. A stack passes 105 C; its jobs are cancelled and its lanes stop until a reset. -/
  | overtemp (stack celsius : Nat)
  /-- R331. A stack is reset; every bank is refreshed and its clocks start from zero. -/
  | stackReset (stack : Nat)
  /-- R416. A UCIe module fails training and is disabled; its traffic moves to other modules or the hub. -/
  | ucieModuleFail (stack : Nat) (link : UcieLink) (unit : Nat)
  /-- R255. Record that copies a two-dimensional block, with optional pinning and chaining. -/
  | copy (h : RecHdr) (chain : Bool) (pin : BitVec 2) (desc : Word)
  /-- R255. COPY that adds FP32 source elements into the destination. -/
  | copyFadd (h : RecHdr) (chain : Bool) (pin : BitVec 2) (desc : Word)
  /-- R255. COPY that adds I32 elements modulo 2^32. -/
  | copyIadd (h : RecHdr) (chain : Bool) (pin : BitVec 2) (desc : Word)
  /-- R255. COPY that adds RI32 chunks and ORs their flag planes. -/
  | copyRi32 (h : RecHdr) (chain : Bool) (pin : BitVec 2) (desc : Word)
  /-- R255. COPY that keeps the signed maximum of I32 elements. -/
  | copyImax (h : RecHdr) (chain : Bool) (pin : BitVec 2) (desc : Word)
  /-- R255. COPY that ORs 32-bit elements. -/
  | copyOr (h : RecHdr) (chain : Bool) (pin : BitVec 2) (desc : Word)
  /-- R259. Record that appends a format word to the format queue at pop. -/
  | fmt (h : RecHdr) (word : Word)
  /-- R261. Record that multiplies A by B into an accumulator tile, taking one format word. -/
  | mtile (h : RecHdr) (acc : BitVec 2) (zero tri : Bool) (rows cols : BitVec 8) (part : Bool) (desc : Word)
  /-- R264. Record that stores an accumulator tile through the quantiser or as FP32. -/
  | epi (h : RecHdr) (acc : BitVec 2) (axis : Bool) (tgt : BitVec 3) (strict : Bool) (eio : BitVec 2) (tri : Bool) (rows cols : BitVec 8) (desc : Word)
  /-- R266. Record that declares a graph node with a predecessor count. -/
  | node (h : RecHdr) (target : BitVec 3) (pcnt : BitVec 12) (blk : Word)
  /-- R266. A node whose count reaches zero reads its block and enters its record or launch into the target queue. -/
  | nodeFire (owner : Nat) (nid : Nat)
  /-- R269. Record that writes local bytes to a job address at a member. -/
  | qpw (h : RecHdr) (slot : BitVec 6) (desc : Word)
  /-- R269. Record that writes bytes which the destination reduces into DST by ROP. -/
  | qpwr (h : RecHdr) (slot : BitVec 6) (rop : BitVec 3) (desc : Word)
  /-- R268. Record that sets a counter trigger on a collective slot. -/
  | arm (h : RecHdr) (slot : BitVec 6) (ctr : BitVec 13) (threshold : BitVec 48)
  /-- R268. Record that sets a time trigger on a collective slot. -/
  | tsend (h : RecHdr) (slot : BitVec 6) (width : BitVec 16) (time : Word)
  /-- R268. A counter reaches an ARM threshold and the slot's entry runs. -/
  | slotCounterTrigger (core slot : Nat)
  /-- R268. TIME reaches a TSEND time and the slot's entry runs. -/
  | slotTimeTrigger (core slot : Nat)
  /-- R270. Record that contributes RI32 chunks to a group add-reduction and receives the result. -/
  | raftxRi32 (h : RecHdr) (slot : BitVec 6) (desc : Word)
  /-- R270. Record for a group I32 max-reduction. -/
  | raftxMax (h : RecHdr) (slot : BitVec 6) (desc : Word)
  /-- R270. Record for a group OR-reduction. -/
  | raftxOr (h : RecHdr) (slot : BitVec 6) (desc : Word)
  /-- R271. Record that converts reduced RI32 chunks back to FP32. -/
  | rafta (h : RecHdr) (slot : BitVec 6) (desc : Word)
  /-- R246. A record completes once its writes, acknowledgements and subtractions are done; it ORs its flags, advances its counter and retires its node. -/
  | recordComplete (queue pos : Nat)
  /-- R174. An engine subtraction of performed bytes from PEND arrives at the barrier home and is tested for completion. -/
  | barrierSubtract (queue pos bytes : Nat)
  /-- R367. A save marker at the epilogue queue head writes the slot's 256 eddy images. -/
  | epiSaveMarker (core : Nat)
  /-- R367. A load marker at the epilogue queue head loads the slot's eddy bank. -/
  | epiLoadMarker (core : Nat)
  /-- R409. The head side-log entry performs once its pages are present, or a refused page cancels the job. -/
  | sideLogReplay (slot : Nat)
  /-- R277. A halted unit's contribution advances its launch counter once all its work has performed. -/
  | unitContribution (unit : Nat)
  /-- R370. A pending asynchronous trap is taken at an instruction boundary and writes the frame. -/
  | asyncTrap (slot : Nat)
  /-- R376. After a fatal fault, the scratchpad freezes once the pending writes have performed. -/
  | scratchpadFreeze (core : Nat)
  /-- R295. The pre-emption deadline runs out and a forced save falls at the next boundary. -/
  | pdlExpire (slot : Nat)
  /-- R295. A NEXT record with OP 000 withdraws a pending request. -/
  | nextWithdraw (slot : Nat)
  /-- R295. A NEXT record with OP 001 binds a new unit, pre-empting the resident unit if PRE is set. -/
  | nextBind (slot : Nat) (r : NextRec)
  /-- R350. A NEXT record with OP 010 restores a saved unit and re-issues its replay entries. -/
  | nextResume (slot : Nat) (r : NextRec)
  /-- R294. A NEXT record with an OP of 011 to 111 is rejected and sets BERR. -/
  | nextReject (slot : Nat) (op : BitVec 3) (r : NextRec)
  /-- R296. The firmware chooses the next launch by deadline or lottery and places its units. -/
  | dispatchDecision (cls : UnitClass)
  /-- R296. TIME passes a waiting launch's deadline and OVERDUE counts it once. -/
  | launchOverdue (ctr : Nat)
  /-- R290. A phase packet at the head of its queue picks a variant by JBUDGET and sets its counter target. -/
  | phaseEntry (ctr : Nat)
  /-- R290. The next graph of a phase starts once the previous graph's counter completes. -/
  | graphStart (ctr : Nat)
  /-- R293. The counter becomes CANCELLED once every affected context has stopped and every home operation has settled. -/
  | cancelComplete (ctr : Nat)
  /-- R282. A host write that covers window bytes 112 to 127 commits the packet to its queue. -/
  | submissionCommit (fn q off : Nat) (data : List Byte)
  /-- R292. Setting VALID in a job table entry activates the job and its counter. -/
  | jobActivate (job : Nat) (ctl : Word)
  /-- R293. The host writes 1 to CANCEL and the job is cancelled. -/
  | jobCancelWrite (job : Nat)
  /-- R293. Clearing VALID cancels the job's accepted work and then invalidates the entry. -/
  | jobInvalidate (job : Nat)
  /-- R281. The host writes a service request for the firmware. -/
  | svcreq (value : Word)
  /-- R281. The firmware starts the next held service task on the headwater core's second context. -/
  | serviceTaskStart
  /-- R281. A trap in a service task ends it as by a fatal fault. -/
  | serviceTaskTrap
  /-- R405. Drops the runs overlapping a page range. -/
  | xlcmdInval (job : BitVec 8) (va : BitVec 32) (npage : BitVec 16)
  /-- R406. Rebuilds runs and retries held accesses and side logs of the job. -/
  | xlcmdMapped (job : BitVec 8) (va : BitVec 32) (npage : BitVec 16)
  /-- R406. A command with an invalid OP, or written while 16 are pending, is dropped and sets ERR. -/
  | xlcmdBad (value : Word)
  /-- R405. A translator command completes once the accesses through dropped runs have performed. -/
  | xlcmdComplete
  /-- R406. A page request is posted to the ring when there is room, and the host is signalled. -/
  | pageRequestPost
  /-- R404. Held accesses retry at least every 100 us. -/
  | heldAccessRetry (slot : Nat)
  /-- R385. Setting FREEZE holds requests to the range at requester and slice ports. -/
  | freezeSet
  /-- R387. Clearing FREEZE clears or moves lines, replays held slice requests and releases requester ports. -/
  | freezeClear
  /-- R386. A slice port accepts a request or replays it to its recomputed home. -/
  | sliceRequestAccept (slice : Nat) (req : SliceReq)
  /-- R442. A write that moves PICTL.TGT away from 00 starts the gate steps. -/
  | islandGate (island : Nat) (tgt : BitVec 2)
  /-- R442. Step 1 ends when INFLT and QWORDS reach zero. -/
  | islandDrainComplete (island : Nat)
  /-- R442. A timed gate or wake step ends and the next one begins. -/
  | islandStepComplete (island : Nat)
  /-- R445. A write of 1 to PIWAKE, or of TGT 00, ends or reverses a gate. -/
  | islandWake (island : Nat)
  /-- R446. A new non-00 target is recorded or moves the island deeper or shallower. -/
  | islandRetarget (island : Nat) (tgt : BitVec 2)
  /-- R452. Once per microsecond, the power predicate moves between states on PAVG and inlet conditions. -/
  | pwrsUpdate (watts : Nat) (inlet : Inlet)
  /-- R454. Once per microsecond, the governor may shed a port and paces the matrix engines. -/
  | governorStep (traffic : List Nat)
  /-- R455. A current fall of more than a quarter within 100 ns engages the spillway loads, which are released within the slew limit. -/
  | spillwayEngage (island milliamps : Nat)
  /-- R460. BOOTCMD CMD 01 verifies the loaded image and runs it. -/
  | bootVerifyRun (len : BitVec 32)
  /-- R460. Verification ends with the image running or with a bad-signature or bad-length code. -/
  | bootVerifyComplete
  /-- R460. BOOTCMD CMD 10 resets the device. -/
  | deviceResetCmd
  /-- R460. The firmware faults: CODE 5, vector 2 raised and every job cancelled. -/
  | firmwareFault
  /-- R461. A function completes bring-up and its READY bit is set. -/
  | functionReady (bit : Nat)
  /-- R461. A READY bit clears because its function failed, raising vector 3. -/
  | functionFail (bit : Nat)
  /-- R457. A host BAR4 read of second-tier memory within the function's aperture. -/
  | hostBar4Read (fn off n : Nat)
  /-- R457. A host BAR4 write to second-tier memory under the function's key. -/
  | hostBar4Write (fn off : Nat) (data : List Byte)
  /-- R458. A host write in the bank-fill aperture takes the bank-fill path to the column that BFSEL selects. -/
  | bankFillApertureWrite (off : Nat) (data : List Byte)
  /-- R458. A host read of the bank-fill aperture returns all ones and is counted. -/
  | bankFillApertureRead (off n : Nat)
  /-- R426. The host sends an SPDM request through DOE, and the device answers as responder. -/
  | hostSpdmRequest (code : HostSpdm)
  /-- R425. A write to FPCFG sets the port's width, enable and MAC address, and widens a shed port again. -/
  | fpcfgWrite (port : Nat) (value : Word)
  /-- R425. A port sheds lanes on errors, loss of lock or a governor command, and retrains narrower. -/
  | portShed (port : Nat) (cause : ShedCause)
  /-- R425. A port finishes retraining and resumes in queue order. -/
  | portRetrainComplete (port : Nat) (trained : Bool)
  /-- R424. A received DATA frame of a QPW or QPWR part is applied once at its home. -/
  | dataFrame (f : Frame)
  /-- R433. A received RAFT contribution or result is added by the owner or written to DST. -/
  | raftFrame (f : Frame)
  /-- R320. A received remote atomic passes the reply cache and performs at most once. -/
  | areq (f : Frame)
  /-- R320. A received atomic reply completes the remote atomic, or BUSY schedules a retry. -/
  | arep (f : Frame)
  /-- R424. A received ACK frame advances the acknowledged sequence number of a stream. -/
  | ack (f : Frame)
  /-- R434. A NOTE OP 0 sets the group's MODE to 1 and ends any hold. -/
  | noteMode1 (f : Frame)
  /-- R434. A NOTE OP 1 sets MODE to 0 and ends the hold. -/
  | noteMode0 (f : Frame)
  /-- R434. A NOTE OP 2 holds new RAFTX records of the group and is answered once none runs. -/
  | noteHold (f : Frame)
  /-- R424. After 8 us without acknowledgement, the sender retransmits its unacknowledged frames. -/
  | retransmitTimeout (stream : Nat)
  /-- R320. One microsecond after a BUSY reply, the sender retries the AREQ with the same sequence number. -/
  | areqBusyRetry (stream seq : Nat)
  /-- R424. When ACKED changed and no reverse frame left within 2 us, an ACK frame is sent. -/
  | ackTimer (stream : Nat)
  /-- R437. A port down for 10 ms or 50 ms of unacknowledged retransmission fails the path and cancels its jobs. -/
  | pathFail (stream : Nat) (cause : PathCause)
  /-- R427. The crypto engine runs the SPDM attestation and key exchange with a switch on a PENDING path. -/
  | switchAttest (group sw : Nat)
  /-- R427. A switch's SPDM response advances the exchange. -/
  | spdmResponse (group sw : Nat) (verified : Bool) (body : List Byte)
  /-- R427. A switch that does not answer within 200 ms is not accepted. -/
  | spdmTimeout (group sw : Nat)
  /-- R428. A switch's vendor-defined response accepts or refuses the session key. -/
  | keyDeliveryResponse (group sw : Nat) (accepted : Bool)
  /-- R5. A read of an RC field returns its value and clears it. -/
  | registerReadClear (who : Writer) (span : BarSpan)
  /-- R5. A write to a register with no row of its own sets its fields under their access codes. -/
  | registerWrite (who : Writer) (off : Nat) (data : List Byte)
  /-- R462. Every 10 s and at each orderly reset, the firmware writes the growth record to flash. -/
  | growthRecordWrite
  /-- R460. The device resets and the boot ROM waits for an image. -/
  | deviceReset
  /-- R180. TIME reaches the value a waiting WAITT names, and the instruction completes. -/
  | waittTimeReached (slot : Nat)
  /-- R295. A context save in progress (CTXSTAT.ST 3) finishes writing the context image, and the incoming unit starts. -/
  | contextSaveComplete (slot : Nat)
  /-- R294. Loading a bound or resumed unit (CTXSTAT.ST 4) finishes, and the context becomes running. -/
  | contextLoadComplete (slot : Nat)
  /-- R356. A scratchpad spill or restore at a change of owner job finishes a frame or the whole transfer, releasing waiting accesses and clearing TCSTAT.SPILL. -/
  | scratchpadSpillComplete (core frame : Nat)
  /-- R429. A switch's SPDM secure session ends, for example when the switch restarts, and the member's ATTESTED path becomes PENDING. -/
  | sessionEnded (group sw : Nat)
  /-- R282. A host BAR2 write that does not cover window bytes 112 to 127 updates the held window bytes, or is dropped and counted for a queue not granted to the virtual function. -/
  | submissionWindowWrite (fn q off : Nat) (data : List Byte)
  deriving DecidableEq, Repr

end Sys2Proof
end

