-- ==== Sys2Proof/Decode.lean ====
section
/-! DEFINITION. The decoder of control-core words, lane words and engine records, and after it the encoder. -/

namespace Sys2Proof

/-- Why a control-core word has the fate of an illegal instruction at decode (R59). -/
inductive Reject where
  /-- Fewer bytes than the instruction has. -/
  | truncated
  /-- Major 0x00. -/
  | illegalMajor
  /-- A reserved major opcode. -/
  | reservedMajor
  /-- An unassigned fn, sub, aop, cond, order, type or width code. -/
  | unassignedCode
  /-- A nonzero reserved field or reserved bit. -/
  | reservedField
  deriving DecidableEq, Repr

/-- Why a lane word stops its stream at decode (R52). -/
inductive LaneReject where
  | unassignedOp | reservedField | row
  deriving DecidableEq, Repr

/-- FCODE of a lane word refused at decode (R211). -/
def LaneReject.fcode : LaneReject → Nat
  | .unassignedOp => 0x01
  | .reservedField => 0x02
  | .row => 0x03

/-- Why a record faults at pop before its descriptor is read (R249, steps 1 to 4). -/
inductive RecReject where
  | unassignedType | notAccepted | reservedField | limits
  deriving DecidableEq, Repr

/-- FCODE of a record refused at pop (R249). -/
def RecReject.fcode : RecReject → Nat
  | .unassignedType => 0x21
  | .notAccepted => 0x22
  | .reservedField => 0x23
  | .limits => 0x24

/-- Field d of a core word, bits 25:21 (R35). -/
def fD (w : BitVec 32) : BitVec 5 := w.extractLsb' 21 5

/-- Field a of a core word, bits 20:16 (R35). -/
def fA (w : BitVec 32) : BitVec 5 := w.extractLsb' 16 5

/-- Field b of a core word, bits 15:11 (R35). -/
def fB (w : BitVec 32) : BitVec 5 := w.extractLsb' 11 5

/-- Field imm of format I, bits 15:0 (R35). -/
def fImm (w : BitVec 32) : BitVec 16 := w.extractLsb' 0 16

/-- Field size of formats L and S, bits 15:13 (R35). -/
def fSize (w : BitVec 32) : BitVec 3 := w.extractLsb' 13 3

/-- Field off of formats L, S and B, bits 12:0 (R35). -/
def fOff (w : BitVec 32) : BitVec 13 := w.extractLsb' 0 13

/-- Field mk of format V, bits 10:8 (R35). -/
def fMk (w : BitVec 32) : BitVec 3 := w.extractLsb' 8 3

/-- Field ty of format V, bits 2:0 (R35). -/
def fTy (w : BitVec 32) : BitVec 3 := w.extractLsb' 0 3

/-- Field order of format A, bits 6:5 (R35). -/
def fOrd (w : BitVec 32) : BitVec 2 := w.extractLsb' 5 2

/-- Field scope, bits 4:2 (R35, R160). -/
def fScope (w : BitVec 32) : BitVec 3 := w.extractLsb' 2 3

/-- Bit 0: the low width bit of format A, the low type bit of VQST (R43, R153). -/
def fLow (w : BitVec 32) : BitVec 1 := w.extractLsb' 0 1

/-- The words of major 0x01 (R41). -/
def decodeAluR (w : BitVec 32) : Except Reject Instr :=
  match w.extractLsb' 0 11 with
  | 0#11 => .ok (.add (fD w) (fA w) (fB w))
  | 1#11 => .ok (.sub (fD w) (fA w) (fB w))
  | 2#11 => .ok (.and (fD w) (fA w) (fB w))
  | 3#11 => .ok (.or (fD w) (fA w) (fB w))
  | 4#11 => .ok (.xor (fD w) (fA w) (fB w))
  | 5#11 => .ok (.andn (fD w) (fA w) (fB w))
  | 6#11 => .ok (.shl (fD w) (fA w) (fB w))
  | 7#11 => .ok (.shr (fD w) (fA w) (fB w))
  | 8#11 => .ok (.sra (fD w) (fA w) (fB w))
  | 9#11 => .ok (.rotr (fD w) (fA w) (fB w))
  | 10#11 => .ok (.mul (fD w) (fA w) (fB w))
  | 11#11 => .ok (.mulhi (fD w) (fA w) (fB w))
  | 12#11 => .ok (.mulhn (fD w) (fA w) (fB w))
  | 13#11 => .ok (.div (fD w) (fA w) (fB w))
  | 14#11 => .ok (.divn (fD w) (fA w) (fB w))
  | 15#11 => .ok (.rem (fD w) (fA w) (fB w))
  | 16#11 => .ok (.remn (fD w) (fA w) (fB w))
  | 17#11 => .ok (.min (fD w) (fA w) (fB w))
  | 18#11 => .ok (.max (fD w) (fA w) (fB w))
  | 19#11 => .ok (.minn (fD w) (fA w) (fB w))
  | 20#11 => .ok (.maxn (fD w) (fA w) (fB w))
  | 21#11 => .ok (.slt (fD w) (fA w) (fB w))
  | 22#11 => .ok (.sltn (fD w) (fA w) (fB w))
  | 23#11 => if w.extractLsb' 11 5 = 0#5 then .ok (.clz (fD w) (fA w)) else .error .reservedField
  | 24#11 => if w.extractLsb' 11 5 = 0#5 then .ok (.ctz (fD w) (fA w)) else .error .reservedField
  | 25#11 => if w.extractLsb' 11 5 = 0#5 then .ok (.popc (fD w) (fA w)) else .error .reservedField
  | _ => .error .unassignedCode

/-- The words of major 0x10 (R42). -/
def decodeBranch (w : BitVec 32) : Except Reject Instr :=
  match w.extractLsb' 13 3 with
  | 0#3 => .ok (.bEq (fD w) (fA w) (fOff w))
  | 1#3 => .ok (.bNe (fD w) (fA w) (fOff w))
  | 2#3 => .ok (.bLt (fD w) (fA w) (fOff w))
  | 3#3 => .ok (.bGe (fD w) (fA w) (fOff w))
  | 4#3 => .ok (.bLtn (fD w) (fA w) (fOff w))
  | 5#3 => .ok (.bGen (fD w) (fA w) (fOff w))
  | _ => .error .unassignedCode

/-- The words of major 0x1A (R119, R129). -/
def decodePref (w : BitVec 32) : Except Reject Instr :=
  match w.extractLsb' 21 5 with
  | 0#5 => .ok (.prefLd (fA w) (fSize w) (fOff w))
  | 1#5 => .ok (.prefSt (fA w) (fSize w) (fOff w))
  | _ => .error .unassignedCode

/-- The words of major 0x1B (R43). -/
def decodeAmo (w : BitVec 32) : Except Reject Instr :=
  match w.extractLsb' 7 4 with
  | 0#4 => if w.extractLsb' 1 1 = 1#1 then .ok (.amoAdd (fD w) (fA w) (fB w) (fOrd w) (fScope w) (fLow w)) else .error .unassignedCode
  | 1#4 => if w.extractLsb' 1 1 = 1#1 then .ok (.amoMin (fD w) (fA w) (fB w) (fOrd w) (fScope w) (fLow w)) else .error .unassignedCode
  | 2#4 => if w.extractLsb' 1 1 = 1#1 then .ok (.amoMax (fD w) (fA w) (fB w) (fOrd w) (fScope w) (fLow w)) else .error .unassignedCode
  | 3#4 => if w.extractLsb' 1 1 = 1#1 then .ok (.amoMinn (fD w) (fA w) (fB w) (fOrd w) (fScope w) (fLow w)) else .error .unassignedCode
  | 4#4 => if w.extractLsb' 1 1 = 1#1 then .ok (.amoMaxn (fD w) (fA w) (fB w) (fOrd w) (fScope w) (fLow w)) else .error .unassignedCode
  | 5#4 => if w.extractLsb' 1 1 = 1#1 then .ok (.amoAnd (fD w) (fA w) (fB w) (fOrd w) (fScope w) (fLow w)) else .error .unassignedCode
  | 6#4 => if w.extractLsb' 1 1 = 1#1 then .ok (.amoOr (fD w) (fA w) (fB w) (fOrd w) (fScope w) (fLow w)) else .error .unassignedCode
  | 7#4 => if w.extractLsb' 1 1 = 1#1 then .ok (.amoXor (fD w) (fA w) (fB w) (fOrd w) (fScope w) (fLow w)) else .error .unassignedCode
  | 8#4 => if w.extractLsb' 1 1 = 1#1 then .ok (.amoSwap (fD w) (fA w) (fB w) (fOrd w) (fScope w) (fLow w)) else .error .unassignedCode
  | _ => .error .unassignedCode

/-- The words of major 0x1C (R43). -/
def decodeCas (w : BitVec 32) : Except Reject Instr :=
  match w.extractLsb' 7 4 with
  | 0#4 => if w.extractLsb' 1 1 = 1#1 then .ok (.cas (fD w) (fA w) (fB w) (fOrd w) (fScope w) (fLow w)) else .error .unassignedCode
  | _ => .error .unassignedCode

/-- The words of major 0x1D (R43). -/
def decodeRed (w : BitVec 32) : Except Reject Instr :=
  match w.extractLsb' 7 4 with
  | 0#4 => if w.extractLsb' 1 1 = 1#1 ∧ w.extractLsb' 5 1 = 0#1 then if w.extractLsb' 21 5 = 0#5 then .ok (.redAdd (fA w) (fB w) (w.extractLsb' 6 1) (fScope w) (fLow w)) else .error .reservedField else .error .unassignedCode
  | 1#4 => if w.extractLsb' 1 1 = 1#1 ∧ w.extractLsb' 5 1 = 0#1 then if w.extractLsb' 21 5 = 0#5 then .ok (.redMin (fA w) (fB w) (w.extractLsb' 6 1) (fScope w) (fLow w)) else .error .reservedField else .error .unassignedCode
  | 2#4 => if w.extractLsb' 1 1 = 1#1 ∧ w.extractLsb' 5 1 = 0#1 then if w.extractLsb' 21 5 = 0#5 then .ok (.redMax (fA w) (fB w) (w.extractLsb' 6 1) (fScope w) (fLow w)) else .error .reservedField else .error .unassignedCode
  | 3#4 => if w.extractLsb' 1 1 = 1#1 ∧ w.extractLsb' 5 1 = 0#1 then if w.extractLsb' 21 5 = 0#5 then .ok (.redMinn (fA w) (fB w) (w.extractLsb' 6 1) (fScope w) (fLow w)) else .error .reservedField else .error .unassignedCode
  | 4#4 => if w.extractLsb' 1 1 = 1#1 ∧ w.extractLsb' 5 1 = 0#1 then if w.extractLsb' 21 5 = 0#5 then .ok (.redMaxn (fA w) (fB w) (w.extractLsb' 6 1) (fScope w) (fLow w)) else .error .reservedField else .error .unassignedCode
  | 5#4 => if w.extractLsb' 1 1 = 1#1 ∧ w.extractLsb' 5 1 = 0#1 then if w.extractLsb' 21 5 = 0#5 then .ok (.redAnd (fA w) (fB w) (w.extractLsb' 6 1) (fScope w) (fLow w)) else .error .reservedField else .error .unassignedCode
  | 6#4 => if w.extractLsb' 1 1 = 1#1 ∧ w.extractLsb' 5 1 = 0#1 then if w.extractLsb' 21 5 = 0#5 then .ok (.redOr (fA w) (fB w) (w.extractLsb' 6 1) (fScope w) (fLow w)) else .error .reservedField else .error .unassignedCode
  | 7#4 => if w.extractLsb' 1 1 = 1#1 ∧ w.extractLsb' 5 1 = 0#1 then if w.extractLsb' 21 5 = 0#5 then .ok (.redXor (fA w) (fB w) (w.extractLsb' 6 1) (fScope w) (fLow w)) else .error .reservedField else .error .unassignedCode
  | _ => .error .unassignedCode

/-- MOP: ty selects the operation (R44). -/
def decodeMop (w : BitVec 32) : Except Reject Instr :=
  match fTy w with
  | 0#3 => if w.extractLsb' 8 3 = 0#3 ∧ w.extractLsb' 14 2 = 0#2 ∧ w.extractLsb' 19 2 = 0#2 ∧ w.extractLsb' 24 2 = 0#2 then .ok (.mopAnd (w.extractLsb' 21 3) (w.extractLsb' 16 3) (w.extractLsb' 11 3)) else .error .reservedField
  | 1#3 => if w.extractLsb' 8 3 = 0#3 ∧ w.extractLsb' 14 2 = 0#2 ∧ w.extractLsb' 19 2 = 0#2 ∧ w.extractLsb' 24 2 = 0#2 then .ok (.mopOr (w.extractLsb' 21 3) (w.extractLsb' 16 3) (w.extractLsb' 11 3)) else .error .reservedField
  | 2#3 => if w.extractLsb' 8 3 = 0#3 ∧ w.extractLsb' 14 2 = 0#2 ∧ w.extractLsb' 19 2 = 0#2 ∧ w.extractLsb' 24 2 = 0#2 then .ok (.mopXor (w.extractLsb' 21 3) (w.extractLsb' 16 3) (w.extractLsb' 11 3)) else .error .reservedField
  | 3#3 => if w.extractLsb' 8 3 = 0#3 ∧ w.extractLsb' 14 2 = 0#2 ∧ w.extractLsb' 19 2 = 0#2 ∧ w.extractLsb' 24 2 = 0#2 then .ok (.mopAndn (w.extractLsb' 21 3) (w.extractLsb' 16 3) (w.extractLsb' 11 3)) else .error .reservedField
  | 4#3 => if w.extractLsb' 8 8 = 0#8 ∧ w.extractLsb' 19 2 = 0#2 ∧ w.extractLsb' 24 2 = 0#2 then .ok (.mopNot (w.extractLsb' 21 3) (w.extractLsb' 16 3)) else .error .reservedField
  | _ => .error .unassignedCode

/-- The words of major 0x20 (R44). -/
def decodeVArith (w : BitVec 32) : Except Reject Instr :=
  match w.extractLsb' 3 5 with
  | 0#5 => .ok (.vadd (fD w) (fA w) (fB w) (fMk w) (fTy w))
  | 1#5 => .ok (.vsub (fD w) (fA w) (fB w) (fMk w) (fTy w))
  | 2#5 => .ok (.vmul (fD w) (fA w) (fB w) (fMk w) (fTy w))
  | 3#5 => .ok (.vfma (fD w) (fA w) (fB w) (fMk w) (fTy w))
  | 4#5 => .ok (.vfms (fD w) (fA w) (fB w) (fMk w) (fTy w))
  | 5#5 => .ok (.vmin (fD w) (fA w) (fB w) (fMk w) (fTy w))
  | 6#5 => .ok (.vmax (fD w) (fA w) (fB w) (fMk w) (fTy w))
  | 7#5 => if w.extractLsb' 11 5 = 0#5 then .ok (.vabs (fD w) (fA w) (fMk w) (fTy w)) else .error .reservedField
  | 8#5 => if w.extractLsb' 11 5 = 0#5 then .ok (.vneg (fD w) (fA w) (fMk w) (fTy w)) else .error .reservedField
  | 9#5 => if w.extractLsb' 24 2 = 0#2 then .ok (.vcmpEq (w.extractLsb' 21 3) (fA w) (fB w) (fMk w) (fTy w)) else .error .reservedField
  | 10#5 => if w.extractLsb' 24 2 = 0#2 then .ok (.vcmpNe (w.extractLsb' 21 3) (fA w) (fB w) (fMk w) (fTy w)) else .error .reservedField
  | 11#5 => if w.extractLsb' 24 2 = 0#2 then .ok (.vcmpLt (w.extractLsb' 21 3) (fA w) (fB w) (fMk w) (fTy w)) else .error .reservedField
  | 12#5 => if w.extractLsb' 24 2 = 0#2 then .ok (.vcmpLe (w.extractLsb' 21 3) (fA w) (fB w) (fMk w) (fTy w)) else .error .reservedField
  | 13#5 => .ok (.vsel (fD w) (fA w) (fB w) (fMk w) (fTy w))
  | 14#5 => .ok (.vand (fD w) (fA w) (fB w) (fMk w) (fTy w))
  | 15#5 => .ok (.vor (fD w) (fA w) (fB w) (fMk w) (fTy w))
  | 16#5 => .ok (.vxor (fD w) (fA w) (fB w) (fMk w) (fTy w))
  | 17#5 => .ok (.vshl (fD w) (fA w) (fB w) (fMk w) (fTy w))
  | 18#5 => .ok (.vshr (fD w) (fA w) (fB w) (fMk w) (fTy w))
  | 19#5 => .ok (.vsra (fD w) (fA w) (fB w) (fMk w) (fTy w))
  | 20#5 => if w.extractLsb' 15 1 = 0#1 then .ok (.vcvt (fD w) (fA w) (w.extractLsb' 14 1) (w.extractLsb' 11 3) (fMk w) (fTy w)) else .error .reservedField
  | 21#5 => if w.extractLsb' 11 5 = 0#5 then .ok (.vexp2 (fD w) (fA w) (fMk w) (fTy w)) else .error .reservedField
  | 22#5 => if w.extractLsb' 11 5 = 0#5 then .ok (.vlog2 (fD w) (fA w) (fMk w) (fTy w)) else .error .reservedField
  | 23#5 => if w.extractLsb' 11 5 = 0#5 then .ok (.vrcp (fD w) (fA w) (fMk w) (fTy w)) else .error .reservedField
  | 24#5 => if w.extractLsb' 11 5 = 0#5 then .ok (.vrsq (fD w) (fA w) (fMk w) (fTy w)) else .error .reservedField
  | 25#5 => decodeMop w
  | _ => .error .unassignedCode

/-- The words of major 0x21 (R45). -/
def decodeVMem (w : BitVec 32) : Except Reject Instr :=
  match w.extractLsb' 3 5 with
  | 0#5 => if w.extractLsb' 11 5 = 0#5 then .ok (.vld (fD w) (fA w) (fMk w) (fTy w)) else .error .reservedField
  | 1#5 => if w.extractLsb' 11 5 = 0#5 then .ok (.vst (fD w) (fA w) (fMk w) (fTy w)) else .error .reservedField
  | 2#5 => .ok (.vlds (fD w) (fA w) (fB w) (fMk w) (fTy w))
  | 3#5 => .ok (.vsts (fD w) (fA w) (fB w) (fMk w) (fTy w))
  | 4#5 => .ok (.vgath (fD w) (fA w) (fB w) (fMk w) (fTy w))
  | 5#5 => .ok (.vscat (fD w) (fA w) (fB w) (fMk w) (fTy w))
  | _ => .error .unassignedCode

/-- The words of major 0x22 (R46). -/
def decodeVCross (w : BitVec 32) : Except Reject Instr :=
  match w.extractLsb' 3 5 with
  | 0#5 => if w.extractLsb' 11 5 = 0#5 then .ok (.vbcast (fD w) (fA w) (fMk w) (fTy w)) else .error .reservedField
  | 1#5 => if w.extractLsb' 8 3 = 0#3 then .ok (.vext (fD w) (fA w) (fB w) (fTy w)) else .error .reservedField
  | 2#5 => if w.extractLsb' 8 3 = 0#3 then .ok (.vins (fD w) (fA w) (fB w) (fTy w)) else .error .reservedField
  | 3#5 => if w.extractLsb' 11 5 = 0#5 then .ok (.vredAdd (fD w) (fA w) (fMk w) (fTy w)) else .error .reservedField
  | 4#5 => if w.extractLsb' 11 5 = 0#5 then .ok (.vredMax (fD w) (fA w) (fMk w) (fTy w)) else .error .reservedField
  | 5#5 => if w.extractLsb' 11 5 = 0#5 then .ok (.vredMin (fD w) (fA w) (fMk w) (fTy w)) else .error .reservedField
  | 6#5 => if w.extractLsb' 11 5 = 0#5 then .ok (.vscan (fD w) (fA w) (fMk w) (fTy w)) else .error .reservedField
  | 7#5 => .ok (.vperm (fD w) (fA w) (fB w) (fMk w) (fTy w))
  | 8#5 => if w.extractLsb' 11 10 = 0#10 then .ok (.viota (fD w) (fMk w) (fTy w)) else .error .reservedField
  | _ => .error .unassignedCode

/-- The words of major 0x23 (R47, R154). -/
def decodeVqst (w : BitVec 32) : Except Reject Instr :=
  match w.extractLsb' 3 5 with
  | 0#5 => if w.extractLsb' 1 2 = 0#2 then .ok (.vqstI8 (fD w) (fA w) (fB w) (fMk w) (fLow w)) else .error .reservedField
  | 1#5 => if w.extractLsb' 1 2 = 0#2 then .ok (.vqstN8 (fD w) (fA w) (fB w) (fMk w) (fLow w)) else .error .reservedField
  | 2#5 => if w.extractLsb' 1 2 = 0#2 then .ok (.vqstI16 (fD w) (fA w) (fB w) (fMk w) (fLow w)) else .error .reservedField
  | 3#5 => if w.extractLsb' 1 2 = 0#2 then .ok (.vqstBf (fD w) (fA w) (fB w) (fMk w) (fLow w)) else .error .reservedField
  | 4#5 => if w.extractLsb' 1 2 = 0#2 then .ok (.vqstMxi8 (fD w) (fA w) (fB w) (fMk w) (fLow w)) else .error .reservedField
  | 5#5 => if w.extractLsb' 1 2 = 0#2 then .ok (.vqstMxf4 (fD w) (fA w) (fB w) (fMk w) (fLow w)) else .error .reservedField
  | 6#5 => if w.extractLsb' 1 2 = 0#2 then .ok (.vqstMxf8 (fD w) (fA w) (fB w) (fMk w) (fLow w)) else .error .reservedField
  | 7#5 => if w.extractLsb' 1 2 = 0#2 then .ok (.vqstRi32 (fD w) (fA w) (fB w) (fMk w) (fLow w)) else .error .reservedField
  | _ => .error .unassignedCode

/-- The words of major 0x28 (R48). -/
def decodeSync (w : BitVec 32) : Except Reject Instr :=
  match w.extractLsb' 11 5 with
  | 0#5 =>
    match w.extractLsb' 0 2 with
    | 1#2 => if w.extractLsb' 5 6 = 0#6 ∧ w.extractLsb' 16 10 = 0#10 then .ok (.fenceAcq (fScope w)) else .error .reservedField
    | 2#2 => if w.extractLsb' 5 6 = 0#6 ∧ w.extractLsb' 16 10 = 0#10 then .ok (.fenceRel (fScope w)) else .error .reservedField
    | 3#2 => if w.extractLsb' 5 6 = 0#6 ∧ w.extractLsb' 16 10 = 0#10 then .ok (.fenceSc (fScope w)) else .error .reservedField
    | _ => .error .unassignedCode
  | 1#5 => if w.extractLsb' 5 6 = 0#6 ∧ w.extractLsb' 21 5 = 0#5 then .ok (.lfence (fA w) (w.extractLsb' 4 1) (w.extractLsb' 0 4)) else .error .reservedField
  | 2#5 => if w.extractLsb' 0 11 = 0#11 then .ok (.seal (fD w) (fA w)) else .error .reservedField
  | 3#5 => if w.extractLsb' 0 11 = 0#11 then .ok (.unseal (fD w) (fA w)) else .error .reservedField
  | 4#5 => if w.extractLsb' 0 2 = 0#2 ∧ w.extractLsb' 5 6 = 0#6 then .ok (.barinit (fD w) (fA w) (fScope w)) else .error .reservedField
  | 5#5 => if w.extractLsb' 0 2 = 0#2 ∧ w.extractLsb' 6 5 = 0#5 then .ok (.bararrive (fD w) (fA w) (w.extractLsb' 5 1) (fScope w)) else .error .reservedField
  | 6#5 => if w.extractLsb' 0 2 = 0#2 ∧ w.extractLsb' 6 5 = 0#5 then .ok (.barwait (fD w) (fA w) (w.extractLsb' 5 1) (fScope w)) else .error .reservedField
  | 7#5 => if w.extractLsb' 0 11 = 0#11 then .ok (.barpend (fD w) (fA w)) else .error .reservedField
  | 8#5 => if w.extractLsb' 0 11 = 0#11 then .ok (.cwait (fD w) (fA w)) else .error .reservedField
  | 9#5 =>
    match w.extractLsb' 0 11 with
    | 0#11 => .ok (.cwb (fD w) (fA w))
    | 1#11 => .ok (.cwbInv (fD w) (fA w))
    | _ => .error .unassignedCode
  | 10#5 => if w.extractLsb' 0 11 = 0#11 ∧ w.extractLsb' 21 5 = 0#5 then .ok (.ralign (fA w)) else .error .reservedField
  | 11#5 => if w.extractLsb' 0 11 = 0#11 ∧ w.extractLsb' 21 5 = 0#5 then .ok (.waitt (fA w)) else .error .reservedField
  | _ => .error .unassignedCode

/-- The words of major 0x29 (R48). -/
def decodeQueue (w : BitVec 32) : Except Reject Instr :=
  match w.extractLsb' 11 5 with
  | 0#5 => if w.extractLsb' 3 8 = 0#8 ∧ w.extractLsb' 16 5 = 0#5 then .ok (.push (fD w) (fTy w)) else .error .reservedField
  | 1#5 => if w.extractLsb' 0 11 = 0#11 ∧ w.extractLsb' 16 5 = 0#5 then .ok (.pushf (fD w)) else .error .reservedField
  | 2#5 =>
    match w.extractLsb' 0 11 with
    | 0#11 => .ok (.lpush (fD w) (fA w))
    | 1#11 => .ok (.lpushImg (fD w) (fA w))
    | _ => .error .unassignedCode
  | 3#5 => if w.extractLsb' 8 3 = 0#3 then .ok (.vsend (fD w) (fA w) (w.extractLsb' 2 6) (w.extractLsb' 0 2)) else .error .reservedField
  | 4#5 => if w.extractLsb' 3 8 = 0#8 ∧ w.extractLsb' 16 5 = 0#5 then .ok (.qstat (fD w) (fTy w)) else .error .reservedField
  | 5#5 => if w.extractLsb' 6 5 = 0#5 then .ok (.launch (fD w) (fA w) (w.extractLsb' 0 6)) else .error .reservedField
  | 6#5 =>
    match w.extractLsb' 0 11 with
    | 0#11 => .ok (.cancelLaunch (fD w) (fA w))
    | 1#11 => .ok (.cancelGraph (fD w) (fA w))
    | 2#11 => .ok (.cancelPhase (fD w) (fA w))
    | 3#11 => .ok (.cancelJob (fD w) (fA w))
    | _ => .error .unassignedCode
  | _ => .error .unassignedCode

/-- The words of major 0x2A (R48). -/
def decodeSys (w : BitVec 32) : Except Reject Instr :=
  match w.extractLsb' 11 5 with
  | 0#5 => if w.extractLsb' 16 5 = 0#5 then .ok (.rdsr (fD w) (w.extractLsb' 0 11)) else .error .reservedField
  | 1#5 => if w.extractLsb' 21 5 = 0#5 then .ok (.wrsr (fA w) (w.extractLsb' 0 11)) else .error .reservedField
  | 2#5 => if w.extractLsb' 16 10 = 0#10 then .ok (.trap (w.extractLsb' 0 11)) else .error .reservedField
  | 3#5 => if w.extractLsb' 0 11 = 0#11 ∧ w.extractLsb' 16 10 = 0#10 then .ok (.rtrap) else .error .reservedField
  | 4#5 => if w.extractLsb' 0 11 = 0#11 ∧ w.extractLsb' 16 10 = 0#10 then .ok (.reinj) else .error .reservedField
  | 5#5 => if w.extractLsb' 0 11 = 0#11 ∧ w.extractLsb' 16 10 = 0#10 then .ok (.yield) else .error .reservedField
  | 6#5 => if w.extractLsb' 0 11 = 0#11 ∧ w.extractLsb' 16 10 = 0#10 then .ok (.halt) else .error .reservedField
  | _ => .error .unassignedCode

/-- One control-core word, by its major opcode (R40). `next` is the word after it, which an X prefix takes up (R39). -/
def decodeWord (w next : BitVec 32) : Except Reject Instr :=
  match w.extractLsb' 26 6 with
  | 0#6 => .error .illegalMajor
  | 1#6 => decodeAluR w
  | 2#6 => .ok (.addi (fD w) (fA w) (fImm w))
  | 3#6 => .ok (.andi (fD w) (fA w) (fImm w))
  | 4#6 => .ok (.ori (fD w) (fA w) (fImm w))
  | 5#6 => .ok (.xori (fD w) (fA w) (fImm w))
  | 6#6 => .ok (.slti (fD w) (fA w) (fImm w))
  | 7#6 => .ok (.sltni (fD w) (fA w) (fImm w))
  | 8#6 => if w.extractLsb' 6 10 = 0#10 then .ok (.shli (fD w) (fA w) (w.extractLsb' 0 6)) else .error .reservedField
  | 9#6 => if w.extractLsb' 6 10 = 0#10 then .ok (.shri (fD w) (fA w) (w.extractLsb' 0 6)) else .error .reservedField
  | 10#6 => if w.extractLsb' 6 10 = 0#10 then .ok (.srai (fD w) (fA w) (w.extractLsb' 0 6)) else .error .reservedField
  | 11#6 => if w.extractLsb' 16 5 = 0#5 then .ok (.lui (fD w) (fImm w)) else .error .reservedField
  | 12#6 => if w.extractLsb' 16 5 = 0#5 then .ok (.addpc (fD w) (fImm w)) else .error .reservedField
  | 16#6 => decodeBranch w
  | 17#6 => .ok (.j (w.extractLsb' 0 26))
  | 18#6 => .ok (.jal (w.extractLsb' 0 26))
  | 19#6 => .ok (.jalr (fD w) (fA w) (fImm w))
  | 20#6 => if w.extractLsb' 21 5 = 0#5 then .ok (.loop (fA w) (fImm w)) else .error .reservedField
  | 24#6 => .ok (.ld (fD w) (fA w) (fSize w) (fOff w))
  | 25#6 => .ok (.st (fD w) (fA w) (fSize w) (fOff w))
  | 26#6 => decodePref w
  | 27#6 => decodeAmo w
  | 28#6 => decodeCas w
  | 29#6 => decodeRed w
  | 32#6 => decodeVArith w
  | 33#6 => decodeVMem w
  | 34#6 => decodeVCross w
  | 35#6 => decodeVqst w
  | 40#6 => decodeSync w
  | 41#6 => decodeQueue w
  | 42#6 => decodeSys w
  | 63#6 => .ok (.xPrefix (w.extractLsb' 0 26) next)
  | _ => .error .reservedMajor

/-- Bits [lo + n − 1 : lo] of a lane word, and the header of a general-layout word (R50). -/
def laneHdr (w : BitVec 48) : LaneHdr :=
  ⟨w.extractLsb' 36 6, w.extractLsb' 24 12, w.extractLsb' 12 12⟩

/-- The header of an address-carrying word (R50). -/
def laneAddr (w : BitVec 48) : LaneAddr :=
  ⟨w.extractLsb' 36 6, w.extractLsb' 32 4, w.extractLsb' 30 2, w.extractLsb' 16 14⟩

/-- A decoded lane word, or the reserved-field fault where `c` fails (R52, R215). -/
def laneIf (c : Prop) [Decidable c] (i : Instr) : Except LaneReject Instr :=
  if c then .ok i else .error .reservedField

/-- An address-carrying word: its reserved fields, then its row (R52). -/
def laneRowIf (c : Prop) [Decidable c] (row : BitVec 14) (i : Instr) : Except LaneReject Instr :=
  if c then (if row.toNat < 12288 then .ok i else .error .row) else .error .reservedField

/-- One lane word, by its op and the fields of R215 (R51, R52). -/
def decodeLane (w : BitVec 48) : Except LaneReject Instr :=
  let h := laneHdr w
  let ha := laneAddr w
  let opx := w.extractLsb' 12 4
  let opd := w.extractLsb' 0 12
  match w.extractLsb' 42 6 with
  | 0x01#6 => laneIf (h.step = 0 ∧ opd = 0) (.idle h)
  | 0x02#6 => laneRowIf (opx = 0 ∧ w.extractLsb' 2 10 = 0) ha.row (.act ha (w.extractLsb' 0 2))
  | 0x03#6 => laneIf (ha.row = 0 ∧ opx = 0 ∧ opd = 0) (.pre ha)
  | 0x04#6 => laneIf (h.rep = 0 ∧ h.step = 0 ∧ w.extractLsb' 4 8 = 0) (.prea h (w.extractLsb' 0 4))
  | 0x05#6 => laneIf (ha.row = 0 ∧ opx = 0 ∧ opd = 0) (.ref ha)
  | 0x06#6 => laneRowIf (opx = 0) ha.row (.wrrow ha opd)
  | 0x08#6 => laneIf (h.rep = 0 ∧ w.extractLsb' 21 3 = 0)
      (.setfmt ⟨h.idle, h.rep, 0⟩ (w.extractLsb' 12 9) (w.extractLsb' 8 4) (w.extractLsb' 0 8))
  | 0x09#6 =>
    laneIf (h.rep = 0 ∧ w.extractLsb' 0 9 = 0 ∧
        (if w.extractLsb' 9 1 = 1#1 then w.extractLsb' 10 2 = 0 else h.step = 0))
      (.setsc ⟨h.idle, h.rep, 0⟩ h.step (w.extractLsb' 10 2) (w.extractLsb' 9 1 == 1#1))
  | 0x0A#6 => laneIf (h.rep = 0) (.maskk ⟨h.idle, h.rep, 0⟩ (w.extractLsb' 0 24))
  | 0x10#6 => .ok (.gemv h (w.extractLsb' 10 2) (w.extractLsb' 8 2) (w.extractLsb' 5 3) (w.extractLsb' 0 5))
  | 0x11#6 => .ok (.gemvb h (w.extractLsb' 10 2) (w.extractLsb' 8 2) (w.extractLsb' 5 3) (w.extractLsb' 2 3) (w.extractLsb' 0 2))
  | 0x12#6 => .ok (.dotk h (w.extractLsb' 10 2) (w.extractLsb' 8 2) (w.extractLsb' 5 3) (w.extractLsb' 0 5))
  | 0x13#6 => .ok (.axpv h (w.extractLsb' 10 2) (w.extractLsb' 7 3) (w.extractLsb' 4 3) (w.extractLsb' 0 4))
  | 0x14#6 => laneIf (h.step = 0)
      (.stats h (w.extractLsb' 9 3) (w.extractLsb' 6 3) (w.extractLsb' 3 3) (w.extractLsb' 0 3))
  | 0x18#6 => .ok (.accz h (w.extractLsb' 9 3) (w.extractLsb' 8 1 == 1#1) (w.extractLsb' 0 8))
  | 0x19#6 =>
    if w.extractLsb' 11 1 = 1#1 then
      laneIf (h.step = 0) (.accmvScratch h (w.extractLsb' 8 3) (w.extractLsb' 0 8))
    else laneIf (h.step = 0 ∧ w.extractLsb' 0 5 = 0) (.accmvBank h (w.extractLsb' 8 3) (w.extractLsb' 5 3))
  | 0x1A#6 => laneIf (w.extractLsb' 0 1 = 0)
      (.popa h (w.extractLsb' 10 2) (w.extractLsb' 4 6) (w.extractLsb' 1 3))
  | 0x1B#6 => laneIf (h.rep = 0 ∧ w.extractLsb' 13 11 = 0)
      (.qst ⟨h.idle, h.rep, 0⟩ (w.extractLsb' 12 1 == 1#1) opd)
  | 0x20#6 =>
    match w.extractLsb' 10 2 with
    | 0#2 => laneIf (h.step = 0 ∧ w.extractLsb' 0 7 = 0) (.rsendSum h (w.extractLsb' 7 3))
    | 1#2 => laneIf (h.step = 0 ∧ w.extractLsb' 0 1 = 0)
        (.rsendMerge h (w.extractLsb' 7 3) (w.extractLsb' 4 3) (w.extractLsb' 1 3))
    | _ => .error .reservedField
  | 0x28#6 => laneIf (h.rep = 0 ∧ h.step = 0) (.syncpt h (w.extractLsb' 11 1 == 1#1) (w.extractLsb' 0 11))
  | 0x29#6 =>
    laneIf (h.rep = 0 ∧ h.step = 0 ∧ w.extractLsb' 5 7 = 0 ∧
        (w.extractLsb' 4 1 = 1#1 → w.extractLsb' 0 4 = 0#4))
      (.laneLfence h (w.extractLsb' 4 1 == 1#1) (w.extractLsb' 0 4))
  | 0x3F#6 => laneIf (h.rep = 0 ∧ h.step = 0 ∧ opd = 0) (.haltl h)
  | _ => .error .unassignedOp

/-- The common header of a record (R241). -/
def recHdr (r : BitVec 128) : RecHdr :=
  ⟨r.extractLsb' 119 3, r.extractLsb' 118 1 == 1#1, r.extractLsb' 105 13, r.extractLsb' 97 8⟩

/-- The queue that accepts a record type, `none` for an unassigned type (R54). -/
def acceptingQueue (ty : BitVec 6) : Option Nat :=
  match ty with
  | 0x01#6 => some 0
  | 0x02#6 => some 1
  | 0x03#6 => some 2
  | 0x04#6 => some 1
  | 0x08#6 => some 3
  | 0x10#6 => some 4
  | 0x11#6 => some 4
  | 0x12#6 => some 4
  | 0x13#6 => some 4
  | 0x14#6 => some 4
  | 0x15#6 => some 4
  | _ => none

/-- Steps 3 and 4 of R249 over the header and the per-type fields: `resv` says that every reserved field is
zero, `lim` that every value is within its limits. -/
def recIf (h : RecHdr) (resv lim : Prop) [Decidable resv] [Decidable lim] (i : Instr) : Except RecReject Instr :=
  if resv ∧ (h.cen = false → h.ctr = 0) then
    if h.scope.toNat < 6 ∧ lim then .ok i else .error .limits
  else .error .reservedField

/-- COPY by its ROP (R253). -/
def decodeCopy (r : BitVec 128) : Except RecReject Instr :=
  let h := recHdr r
  let chain := r.extractLsb' 93 1 == 1#1
  let pin := r.extractLsb' 91 2
  let desc := r.extractLsb' 0 64
  let mk (i : Instr) := recIf h (r.extractLsb' 64 27 = 0) (pin ≠ 3#2) i
  match r.extractLsb' 94 3 with
  | 0#3 => mk (.copy h chain pin desc)
  | 1#3 => mk (.copyFadd h chain pin desc)
  | 2#3 => mk (.copyIadd h chain pin desc)
  | 3#3 => mk (.copyRi32 h chain pin desc)
  | 4#3 => mk (.copyImax h chain pin desc)
  | 5#3 => mk (.copyOr h chain pin desc)
  | _ => if r.extractLsb' 64 27 = 0 ∧ (h.cen = false → h.ctr = 0) then .error .limits else .error .reservedField

/-- RAFTX by its OP (R270). -/
def decodeRaftx (r : BitVec 128) : Except RecReject Instr :=
  let h := recHdr r
  let slot := r.extractLsb' 91 6
  let desc := r.extractLsb' 0 64
  let mk (i : Instr) := recIf h (r.extractLsb' 64 25 = 0) True i
  match r.extractLsb' 89 2 with
  | 0#2 => mk (.raftxRi32 h slot desc)
  | 1#2 => mk (.raftxMax h slot desc)
  | 2#2 => mk (.raftxOr h slot desc)
  | _ => if r.extractLsb' 64 25 = 0 ∧ (h.cen = false → h.ctr = 0) then .error .limits else .error .reservedField

/-- One record of an assigned type, its header, P and W0 fields checked (R249 steps 3 and 4). -/
def decodeRecordBody (r : BitVec 128) : Except RecReject Instr :=
  let h := recHdr r
  let w0 := r.extractLsb' 0 64
  match r.extractLsb' 122 6 with
  | 0x01#6 => decodeCopy r
  | 0x02#6 => recIf h (r.extractLsb' 64 12 = 0) True
      (.mtile h (r.extractLsb' 95 2) (r.extractLsb' 94 1 == 1#1) (r.extractLsb' 93 1 == 1#1)
        (r.extractLsb' 85 8) (r.extractLsb' 77 8) (r.extractLsb' 76 1 == 1#1) w0)
  | 0x03#6 => recIf h (r.extractLsb' 64 7 = 0) True
      (.epi h (r.extractLsb' 95 2) (r.extractLsb' 94 1 == 1#1) (r.extractLsb' 91 3) (r.extractLsb' 90 1 == 1#1)
        (r.extractLsb' 88 2) (r.extractLsb' 87 1 == 1#1) (r.extractLsb' 79 8) (r.extractLsb' 71 8) w0)
  | 0x04#6 => recIf h (r.extractLsb' 64 33 = 0 ∧ h.scope = 0 ∧ h.cen = false) True (.fmt h w0)
  | 0x08#6 => recIf h (r.extractLsb' 64 18 = 0 ∧ h.scope = 0 ∧ h.cen = false)
      (r.extractLsb' 94 3 ∈ [0#3, 1#3, 2#3, 4#3, 7#3])
      (.node h (r.extractLsb' 94 3) (r.extractLsb' 82 12) w0)
  | 0x10#6 => recIf h (r.extractLsb' 64 27 = 0) True (.qpw h (r.extractLsb' 91 6) w0)
  | 0x11#6 => recIf h (r.extractLsb' 64 24 = 0) (r.extractLsb' 88 3 ∉ [6#3, 7#3])
      (.qpwr h (r.extractLsb' 91 6) (r.extractLsb' 88 3) w0)
  | 0x12#6 => recIf h (r.extractLsb' 64 27 = 0 ∧ r.extractLsb' 61 3 = 0) (r.extractLsb' 91 6 ≠ 0)
      (.arm h (r.extractLsb' 91 6) (r.extractLsb' 48 13) (r.extractLsb' 0 48))
  | 0x13#6 => recIf h (r.extractLsb' 64 11 = 0) (r.extractLsb' 91 6 ≠ 0)
      (.tsend h (r.extractLsb' 91 6) (r.extractLsb' 75 16) w0)
  | 0x14#6 => decodeRaftx r
  | 0x15#6 => recIf h (r.extractLsb' 64 27 = 0) True (.rafta h (r.extractLsb' 91 6) w0)
  | _ => .error .unassignedType

/-- One record popped by queue `q`: its type, whether the queue accepts it, then its fields (R56, R249 steps 1 to 4). -/
def decodeRecord (q : Nat) (r : BitVec 128) : Except RecReject Instr :=
  match acceptingQueue (r.extractLsb' 122 6) with
  | none => .error .unassignedType
  | some q' => if q = q' then decodeRecordBody r else .error .notAccepted

/-- Fields laid side by side, the first in the most significant place: (width, value) pairs (R3). -/
def pack : List (Nat × Nat) → Nat
  | [] => 0
  | (_, v) :: fs => 2 ^ (fs.map (·.1)).sum * v + pack fs

/-- A 32-bit word from its fields (R35). -/
def word32 (fs : List (Nat × Nat)) : Option (BitVec 32) := some (BitVec.ofNat 32 (pack fs))

/-- The first word of a control-core instruction, from the formats of R35 and the codes of R40 to R48. -/
def encodeWord : Instr → Option (BitVec 32)
  | .add d a b => word32 [(6, 1), (5, d.toNat), (5, a.toNat), (5, b.toNat), (11, 0)]
  | .sub d a b => word32 [(6, 1), (5, d.toNat), (5, a.toNat), (5, b.toNat), (11, 1)]
  | .and d a b => word32 [(6, 1), (5, d.toNat), (5, a.toNat), (5, b.toNat), (11, 2)]
  | .or d a b => word32 [(6, 1), (5, d.toNat), (5, a.toNat), (5, b.toNat), (11, 3)]
  | .xor d a b => word32 [(6, 1), (5, d.toNat), (5, a.toNat), (5, b.toNat), (11, 4)]
  | .andn d a b => word32 [(6, 1), (5, d.toNat), (5, a.toNat), (5, b.toNat), (11, 5)]
  | .shl d a b => word32 [(6, 1), (5, d.toNat), (5, a.toNat), (5, b.toNat), (11, 6)]
  | .shr d a b => word32 [(6, 1), (5, d.toNat), (5, a.toNat), (5, b.toNat), (11, 7)]
  | .sra d a b => word32 [(6, 1), (5, d.toNat), (5, a.toNat), (5, b.toNat), (11, 8)]
  | .rotr d a b => word32 [(6, 1), (5, d.toNat), (5, a.toNat), (5, b.toNat), (11, 9)]
  | .mul d a b => word32 [(6, 1), (5, d.toNat), (5, a.toNat), (5, b.toNat), (11, 10)]
  | .mulhi d a b => word32 [(6, 1), (5, d.toNat), (5, a.toNat), (5, b.toNat), (11, 11)]
  | .mulhn d a b => word32 [(6, 1), (5, d.toNat), (5, a.toNat), (5, b.toNat), (11, 12)]
  | .div d a b => word32 [(6, 1), (5, d.toNat), (5, a.toNat), (5, b.toNat), (11, 13)]
  | .divn d a b => word32 [(6, 1), (5, d.toNat), (5, a.toNat), (5, b.toNat), (11, 14)]
  | .rem d a b => word32 [(6, 1), (5, d.toNat), (5, a.toNat), (5, b.toNat), (11, 15)]
  | .remn d a b => word32 [(6, 1), (5, d.toNat), (5, a.toNat), (5, b.toNat), (11, 16)]
  | .min d a b => word32 [(6, 1), (5, d.toNat), (5, a.toNat), (5, b.toNat), (11, 17)]
  | .max d a b => word32 [(6, 1), (5, d.toNat), (5, a.toNat), (5, b.toNat), (11, 18)]
  | .minn d a b => word32 [(6, 1), (5, d.toNat), (5, a.toNat), (5, b.toNat), (11, 19)]
  | .maxn d a b => word32 [(6, 1), (5, d.toNat), (5, a.toNat), (5, b.toNat), (11, 20)]
  | .slt d a b => word32 [(6, 1), (5, d.toNat), (5, a.toNat), (5, b.toNat), (11, 21)]
  | .sltn d a b => word32 [(6, 1), (5, d.toNat), (5, a.toNat), (5, b.toNat), (11, 22)]
  | .clz d a => word32 [(6, 1), (5, d.toNat), (5, a.toNat), (5, 0), (11, 23)]
  | .ctz d a => word32 [(6, 1), (5, d.toNat), (5, a.toNat), (5, 0), (11, 24)]
  | .popc d a => word32 [(6, 1), (5, d.toNat), (5, a.toNat), (5, 0), (11, 25)]
  | .addi d a imm => word32 [(6, 2), (5, d.toNat), (5, a.toNat), (16, imm.toNat)]
  | .andi d a imm => word32 [(6, 3), (5, d.toNat), (5, a.toNat), (16, imm.toNat)]
  | .ori d a imm => word32 [(6, 4), (5, d.toNat), (5, a.toNat), (16, imm.toNat)]
  | .xori d a imm => word32 [(6, 5), (5, d.toNat), (5, a.toNat), (16, imm.toNat)]
  | .slti d a imm => word32 [(6, 6), (5, d.toNat), (5, a.toNat), (16, imm.toNat)]
  | .sltni d a imm => word32 [(6, 7), (5, d.toNat), (5, a.toNat), (16, imm.toNat)]
  | .shli d a n => word32 [(6, 8), (5, d.toNat), (5, a.toNat), (5, 0), (5, 0), (6, n.toNat)]
  | .shri d a n => word32 [(6, 9), (5, d.toNat), (5, a.toNat), (5, 0), (5, 0), (6, n.toNat)]
  | .srai d a n => word32 [(6, 10), (5, d.toNat), (5, a.toNat), (5, 0), (5, 0), (6, n.toNat)]
  | .lui d imm => word32 [(6, 11), (5, d.toNat), (5, 0), (16, imm.toNat)]
  | .addpc d imm => word32 [(6, 12), (5, d.toNat), (5, 0), (16, imm.toNat)]
  | .bEq a b off => word32 [(6, 16), (5, a.toNat), (5, b.toNat), (3, 0), (13, off.toNat)]
  | .bNe a b off => word32 [(6, 16), (5, a.toNat), (5, b.toNat), (3, 1), (13, off.toNat)]
  | .bLt a b off => word32 [(6, 16), (5, a.toNat), (5, b.toNat), (3, 2), (13, off.toNat)]
  | .bGe a b off => word32 [(6, 16), (5, a.toNat), (5, b.toNat), (3, 3), (13, off.toNat)]
  | .bLtn a b off => word32 [(6, 16), (5, a.toNat), (5, b.toNat), (3, 4), (13, off.toNat)]
  | .bGen a b off => word32 [(6, 16), (5, a.toNat), (5, b.toNat), (3, 5), (13, off.toNat)]
  | .j off => word32 [(6, 17), (26, off.toNat)]
  | .jal off => word32 [(6, 18), (26, off.toNat)]
  | .jalr d a imm => word32 [(6, 19), (5, d.toNat), (5, a.toNat), (16, imm.toNat)]
  | .loop a imm => word32 [(6, 20), (5, 0), (5, a.toNat), (16, imm.toNat)]
  | .ld d a sz off => word32 [(6, 24), (5, d.toNat), (5, a.toNat), (3, sz.toNat), (13, off.toNat)]
  | .st s a sz off => word32 [(6, 25), (5, s.toNat), (5, a.toNat), (3, sz.toNat), (13, off.toNat)]
  | .prefLd a sz off => word32 [(6, 26), (5, 0), (5, a.toNat), (3, sz.toNat), (13, off.toNat)]
  | .prefSt a sz off => word32 [(6, 26), (5, 1), (5, a.toNat), (3, sz.toNat), (13, off.toNat)]
  | .amoAdd d a b ord sc wd => word32 [(6, 27), (5, d.toNat), (5, a.toNat), (5, b.toNat), (4, 0), (2, ord.toNat), (3, sc.toNat), (1, 1), (1, wd.toNat)]
  | .amoMin d a b ord sc wd => word32 [(6, 27), (5, d.toNat), (5, a.toNat), (5, b.toNat), (4, 1), (2, ord.toNat), (3, sc.toNat), (1, 1), (1, wd.toNat)]
  | .amoMax d a b ord sc wd => word32 [(6, 27), (5, d.toNat), (5, a.toNat), (5, b.toNat), (4, 2), (2, ord.toNat), (3, sc.toNat), (1, 1), (1, wd.toNat)]
  | .amoMinn d a b ord sc wd => word32 [(6, 27), (5, d.toNat), (5, a.toNat), (5, b.toNat), (4, 3), (2, ord.toNat), (3, sc.toNat), (1, 1), (1, wd.toNat)]
  | .amoMaxn d a b ord sc wd => word32 [(6, 27), (5, d.toNat), (5, a.toNat), (5, b.toNat), (4, 4), (2, ord.toNat), (3, sc.toNat), (1, 1), (1, wd.toNat)]
  | .amoAnd d a b ord sc wd => word32 [(6, 27), (5, d.toNat), (5, a.toNat), (5, b.toNat), (4, 5), (2, ord.toNat), (3, sc.toNat), (1, 1), (1, wd.toNat)]
  | .amoOr d a b ord sc wd => word32 [(6, 27), (5, d.toNat), (5, a.toNat), (5, b.toNat), (4, 6), (2, ord.toNat), (3, sc.toNat), (1, 1), (1, wd.toNat)]
  | .amoXor d a b ord sc wd => word32 [(6, 27), (5, d.toNat), (5, a.toNat), (5, b.toNat), (4, 7), (2, ord.toNat), (3, sc.toNat), (1, 1), (1, wd.toNat)]
  | .amoSwap d a b ord sc wd => word32 [(6, 27), (5, d.toNat), (5, a.toNat), (5, b.toNat), (4, 8), (2, ord.toNat), (3, sc.toNat), (1, 1), (1, wd.toNat)]
  | .cas d a b ord sc wd => word32 [(6, 28), (5, d.toNat), (5, a.toNat), (5, b.toNat), (4, 0), (2, ord.toNat), (3, sc.toNat), (1, 1), (1, wd.toNat)]
  | .redAdd a b ord sc wd => word32 [(6, 29), (5, 0), (5, a.toNat), (5, b.toNat), (4, 0), (1, ord.toNat), (1, 0), (3, sc.toNat), (1, 1), (1, wd.toNat)]
  | .redMin a b ord sc wd => word32 [(6, 29), (5, 0), (5, a.toNat), (5, b.toNat), (4, 1), (1, ord.toNat), (1, 0), (3, sc.toNat), (1, 1), (1, wd.toNat)]
  | .redMax a b ord sc wd => word32 [(6, 29), (5, 0), (5, a.toNat), (5, b.toNat), (4, 2), (1, ord.toNat), (1, 0), (3, sc.toNat), (1, 1), (1, wd.toNat)]
  | .redMinn a b ord sc wd => word32 [(6, 29), (5, 0), (5, a.toNat), (5, b.toNat), (4, 3), (1, ord.toNat), (1, 0), (3, sc.toNat), (1, 1), (1, wd.toNat)]
  | .redMaxn a b ord sc wd => word32 [(6, 29), (5, 0), (5, a.toNat), (5, b.toNat), (4, 4), (1, ord.toNat), (1, 0), (3, sc.toNat), (1, 1), (1, wd.toNat)]
  | .redAnd a b ord sc wd => word32 [(6, 29), (5, 0), (5, a.toNat), (5, b.toNat), (4, 5), (1, ord.toNat), (1, 0), (3, sc.toNat), (1, 1), (1, wd.toNat)]
  | .redOr a b ord sc wd => word32 [(6, 29), (5, 0), (5, a.toNat), (5, b.toNat), (4, 6), (1, ord.toNat), (1, 0), (3, sc.toNat), (1, 1), (1, wd.toNat)]
  | .redXor a b ord sc wd => word32 [(6, 29), (5, 0), (5, a.toNat), (5, b.toNat), (4, 7), (1, ord.toNat), (1, 0), (3, sc.toNat), (1, 1), (1, wd.toNat)]
  | .vadd d a b mk ty => word32 [(6, 32), (5, d.toNat), (5, a.toNat), (5, b.toNat), (3, mk.toNat), (5, 0), (3, ty.toNat)]
  | .vsub d a b mk ty => word32 [(6, 32), (5, d.toNat), (5, a.toNat), (5, b.toNat), (3, mk.toNat), (5, 1), (3, ty.toNat)]
  | .vmul d a b mk ty => word32 [(6, 32), (5, d.toNat), (5, a.toNat), (5, b.toNat), (3, mk.toNat), (5, 2), (3, ty.toNat)]
  | .vfma d a b mk ty => word32 [(6, 32), (5, d.toNat), (5, a.toNat), (5, b.toNat), (3, mk.toNat), (5, 3), (3, ty.toNat)]
  | .vfms d a b mk ty => word32 [(6, 32), (5, d.toNat), (5, a.toNat), (5, b.toNat), (3, mk.toNat), (5, 4), (3, ty.toNat)]
  | .vmin d a b mk ty => word32 [(6, 32), (5, d.toNat), (5, a.toNat), (5, b.toNat), (3, mk.toNat), (5, 5), (3, ty.toNat)]
  | .vmax d a b mk ty => word32 [(6, 32), (5, d.toNat), (5, a.toNat), (5, b.toNat), (3, mk.toNat), (5, 6), (3, ty.toNat)]
  | .vabs d a mk ty => word32 [(6, 32), (5, d.toNat), (5, a.toNat), (5, 0), (3, mk.toNat), (5, 7), (3, ty.toNat)]
  | .vneg d a mk ty => word32 [(6, 32), (5, d.toNat), (5, a.toNat), (5, 0), (3, mk.toNat), (5, 8), (3, ty.toNat)]
  | .vcmpEq d a b mk ty => word32 [(6, 32), (2, 0), (3, d.toNat), (5, a.toNat), (5, b.toNat), (3, mk.toNat), (5, 9), (3, ty.toNat)]
  | .vcmpNe d a b mk ty => word32 [(6, 32), (2, 0), (3, d.toNat), (5, a.toNat), (5, b.toNat), (3, mk.toNat), (5, 10), (3, ty.toNat)]
  | .vcmpLt d a b mk ty => word32 [(6, 32), (2, 0), (3, d.toNat), (5, a.toNat), (5, b.toNat), (3, mk.toNat), (5, 11), (3, ty.toNat)]
  | .vcmpLe d a b mk ty => word32 [(6, 32), (2, 0), (3, d.toNat), (5, a.toNat), (5, b.toNat), (3, mk.toNat), (5, 12), (3, ty.toNat)]
  | .vsel d a b mk ty => word32 [(6, 32), (5, d.toNat), (5, a.toNat), (5, b.toNat), (3, mk.toNat), (5, 13), (3, ty.toNat)]
  | .vand d a b mk ty => word32 [(6, 32), (5, d.toNat), (5, a.toNat), (5, b.toNat), (3, mk.toNat), (5, 14), (3, ty.toNat)]
  | .vor d a b mk ty => word32 [(6, 32), (5, d.toNat), (5, a.toNat), (5, b.toNat), (3, mk.toNat), (5, 15), (3, ty.toNat)]
  | .vxor d a b mk ty => word32 [(6, 32), (5, d.toNat), (5, a.toNat), (5, b.toNat), (3, mk.toNat), (5, 16), (3, ty.toNat)]
  | .vshl d a b mk ty => word32 [(6, 32), (5, d.toNat), (5, a.toNat), (5, b.toNat), (3, mk.toNat), (5, 17), (3, ty.toNat)]
  | .vshr d a b mk ty => word32 [(6, 32), (5, d.toNat), (5, a.toNat), (5, b.toNat), (3, mk.toNat), (5, 18), (3, ty.toNat)]
  | .vsra d a b mk ty => word32 [(6, 32), (5, d.toNat), (5, a.toNat), (5, b.toNat), (3, mk.toNat), (5, 19), (3, ty.toNat)]
  | .vcvt d a rz sty mk ty => word32 [(6, 32), (5, d.toNat), (5, a.toNat), (1, 0), (1, rz.toNat), (3, sty.toNat), (3, mk.toNat), (5, 20), (3, ty.toNat)]
  | .vexp2 d a mk ty => word32 [(6, 32), (5, d.toNat), (5, a.toNat), (5, 0), (3, mk.toNat), (5, 21), (3, ty.toNat)]
  | .vlog2 d a mk ty => word32 [(6, 32), (5, d.toNat), (5, a.toNat), (5, 0), (3, mk.toNat), (5, 22), (3, ty.toNat)]
  | .vrcp d a mk ty => word32 [(6, 32), (5, d.toNat), (5, a.toNat), (5, 0), (3, mk.toNat), (5, 23), (3, ty.toNat)]
  | .vrsq d a mk ty => word32 [(6, 32), (5, d.toNat), (5, a.toNat), (5, 0), (3, mk.toNat), (5, 24), (3, ty.toNat)]
  | .mopAnd d a b => word32 [(6, 32), (2, 0), (3, d.toNat), (2, 0), (3, a.toNat), (2, 0), (3, b.toNat), (3, 0), (5, 25), (3, 0)]
  | .mopOr d a b => word32 [(6, 32), (2, 0), (3, d.toNat), (2, 0), (3, a.toNat), (2, 0), (3, b.toNat), (3, 0), (5, 25), (3, 1)]
  | .mopXor d a b => word32 [(6, 32), (2, 0), (3, d.toNat), (2, 0), (3, a.toNat), (2, 0), (3, b.toNat), (3, 0), (5, 25), (3, 2)]
  | .mopAndn d a b => word32 [(6, 32), (2, 0), (3, d.toNat), (2, 0), (3, a.toNat), (2, 0), (3, b.toNat), (3, 0), (5, 25), (3, 3)]
  | .mopNot d a => word32 [(6, 32), (2, 0), (3, d.toNat), (2, 0), (3, a.toNat), (5, 0), (3, 0), (5, 25), (3, 4)]
  | .vld d a mk ty => word32 [(6, 33), (5, d.toNat), (5, a.toNat), (5, 0), (3, mk.toNat), (5, 0), (3, ty.toNat)]
  | .vst d a mk ty => word32 [(6, 33), (5, d.toNat), (5, a.toNat), (5, 0), (3, mk.toNat), (5, 1), (3, ty.toNat)]
  | .vlds d a b mk ty => word32 [(6, 33), (5, d.toNat), (5, a.toNat), (5, b.toNat), (3, mk.toNat), (5, 2), (3, ty.toNat)]
  | .vsts d a b mk ty => word32 [(6, 33), (5, d.toNat), (5, a.toNat), (5, b.toNat), (3, mk.toNat), (5, 3), (3, ty.toNat)]
  | .vgath d a b mk ty => word32 [(6, 33), (5, d.toNat), (5, a.toNat), (5, b.toNat), (3, mk.toNat), (5, 4), (3, ty.toNat)]
  | .vscat d a b mk ty => word32 [(6, 33), (5, d.toNat), (5, a.toNat), (5, b.toNat), (3, mk.toNat), (5, 5), (3, ty.toNat)]
  | .vbcast d a mk ty => word32 [(6, 34), (5, d.toNat), (5, a.toNat), (5, 0), (3, mk.toNat), (5, 0), (3, ty.toNat)]
  | .vext d a b ty => word32 [(6, 34), (5, d.toNat), (5, a.toNat), (5, b.toNat), (3, 0), (5, 1), (3, ty.toNat)]
  | .vins d a b ty => word32 [(6, 34), (5, d.toNat), (5, a.toNat), (5, b.toNat), (3, 0), (5, 2), (3, ty.toNat)]
  | .vredAdd d a mk ty => word32 [(6, 34), (5, d.toNat), (5, a.toNat), (5, 0), (3, mk.toNat), (5, 3), (3, ty.toNat)]
  | .vredMax d a mk ty => word32 [(6, 34), (5, d.toNat), (5, a.toNat), (5, 0), (3, mk.toNat), (5, 4), (3, ty.toNat)]
  | .vredMin d a mk ty => word32 [(6, 34), (5, d.toNat), (5, a.toNat), (5, 0), (3, mk.toNat), (5, 5), (3, ty.toNat)]
  | .vscan d a mk ty => word32 [(6, 34), (5, d.toNat), (5, a.toNat), (5, 0), (3, mk.toNat), (5, 6), (3, ty.toNat)]
  | .vperm d a b mk ty => word32 [(6, 34), (5, d.toNat), (5, a.toNat), (5, b.toNat), (3, mk.toNat), (5, 7), (3, ty.toNat)]
  | .viota d mk ty => word32 [(6, 34), (5, d.toNat), (5, 0), (5, 0), (3, mk.toNat), (5, 8), (3, ty.toNat)]
  | .vqstI8 d a b mk ty => word32 [(6, 35), (5, d.toNat), (5, a.toNat), (5, b.toNat), (3, mk.toNat), (5, 0), (2, 0), (1, ty.toNat)]
  | .vqstN8 d a b mk ty => word32 [(6, 35), (5, d.toNat), (5, a.toNat), (5, b.toNat), (3, mk.toNat), (5, 1), (2, 0), (1, ty.toNat)]
  | .vqstI16 d a b mk ty => word32 [(6, 35), (5, d.toNat), (5, a.toNat), (5, b.toNat), (3, mk.toNat), (5, 2), (2, 0), (1, ty.toNat)]
  | .vqstBf d a b mk ty => word32 [(6, 35), (5, d.toNat), (5, a.toNat), (5, b.toNat), (3, mk.toNat), (5, 3), (2, 0), (1, ty.toNat)]
  | .vqstMxi8 d a b mk ty => word32 [(6, 35), (5, d.toNat), (5, a.toNat), (5, b.toNat), (3, mk.toNat), (5, 4), (2, 0), (1, ty.toNat)]
  | .vqstMxf4 d a b mk ty => word32 [(6, 35), (5, d.toNat), (5, a.toNat), (5, b.toNat), (3, mk.toNat), (5, 5), (2, 0), (1, ty.toNat)]
  | .vqstMxf8 d a b mk ty => word32 [(6, 35), (5, d.toNat), (5, a.toNat), (5, b.toNat), (3, mk.toNat), (5, 6), (2, 0), (1, ty.toNat)]
  | .vqstRi32 d a b mk ty => word32 [(6, 35), (5, d.toNat), (5, a.toNat), (5, b.toNat), (3, mk.toNat), (5, 7), (2, 0), (1, ty.toNat)]
  | .fenceAcq sc => word32 [(6, 40), (5, 0), (5, 0), (5, 0), (6, 0), (3, sc.toNat), (2, 1)]
  | .fenceRel sc => word32 [(6, 40), (5, 0), (5, 0), (5, 0), (6, 0), (3, sc.toNat), (2, 2)]
  | .fenceSc sc => word32 [(6, 40), (5, 0), (5, 0), (5, 0), (6, 0), (3, sc.toNat), (2, 3)]
  | .lfence a all layer => word32 [(6, 40), (5, 0), (5, a.toNat), (5, 1), (6, 0), (1, all.toNat), (4, layer.toNat)]
  | .seal d a => word32 [(6, 40), (5, d.toNat), (5, a.toNat), (5, 2), (11, 0)]
  | .unseal d a => word32 [(6, 40), (5, d.toNat), (5, a.toNat), (5, 3), (11, 0)]
  | .barinit d a sc => word32 [(6, 40), (5, d.toNat), (5, a.toNat), (5, 4), (6, 0), (3, sc.toNat), (2, 0)]
  | .bararrive d a trapf sc => word32 [(6, 40), (5, d.toNat), (5, a.toNat), (5, 5), (5, 0), (1, trapf.toNat), (3, sc.toNat), (2, 0)]
  | .barwait d a trapf sc => word32 [(6, 40), (5, d.toNat), (5, a.toNat), (5, 6), (5, 0), (1, trapf.toNat), (3, sc.toNat), (2, 0)]
  | .barpend d a => word32 [(6, 40), (5, d.toNat), (5, a.toNat), (5, 7), (11, 0)]
  | .cwait d a => word32 [(6, 40), (5, d.toNat), (5, a.toNat), (5, 8), (11, 0)]
  | .cwb d a => word32 [(6, 40), (5, d.toNat), (5, a.toNat), (5, 9), (11, 0)]
  | .cwbInv d a => word32 [(6, 40), (5, d.toNat), (5, a.toNat), (5, 9), (11, 1)]
  | .ralign a => word32 [(6, 40), (5, 0), (5, a.toNat), (5, 10), (11, 0)]
  | .waitt a => word32 [(6, 40), (5, 0), (5, a.toNat), (5, 11), (11, 0)]
  | .push d q => word32 [(6, 41), (5, d.toNat), (5, 0), (5, 0), (8, 0), (3, q.toNat)]
  | .pushf d => word32 [(6, 41), (5, d.toNat), (5, 0), (5, 1), (11, 0)]
  | .lpush d a => word32 [(6, 41), (5, d.toNat), (5, a.toNat), (5, 2), (11, 0)]
  | .lpushImg d a => word32 [(6, 41), (5, d.toNat), (5, a.toNat), (5, 2), (11, 1)]
  | .vsend d a slot buf => word32 [(6, 41), (5, d.toNat), (5, a.toNat), (5, 3), (3, 0), (6, slot.toNat), (2, buf.toNat)]
  | .qstat d q => word32 [(6, 41), (5, d.toNat), (5, 0), (5, 4), (8, 0), (3, q.toNat)]
  | .launch d a q => word32 [(6, 41), (5, d.toNat), (5, a.toNat), (5, 5), (5, 0), (6, q.toNat)]
  | .cancelLaunch d a => word32 [(6, 41), (5, d.toNat), (5, a.toNat), (5, 6), (11, 0)]
  | .cancelGraph d a => word32 [(6, 41), (5, d.toNat), (5, a.toNat), (5, 6), (11, 1)]
  | .cancelPhase d a => word32 [(6, 41), (5, d.toNat), (5, a.toNat), (5, 6), (11, 2)]
  | .cancelJob d a => word32 [(6, 41), (5, d.toNat), (5, a.toNat), (5, 6), (11, 3)]
  | .rdsr d num => word32 [(6, 42), (5, d.toNat), (5, 0), (5, 0), (11, num.toNat)]
  | .wrsr a num => word32 [(6, 42), (5, 0), (5, a.toNat), (5, 1), (11, num.toNat)]
  | .trap code => word32 [(6, 42), (5, 0), (5, 0), (5, 2), (11, code.toNat)]
  | .rtrap => word32 [(6, 42), (5, 0), (5, 0), (5, 3), (11, 0)]
  | .reinj => word32 [(6, 42), (5, 0), (5, 0), (5, 4), (11, 0)]
  | .yield => word32 [(6, 42), (5, 0), (5, 0), (5, 5), (11, 0)]
  | .halt => word32 [(6, 42), (5, 0), (5, 0), (5, 6), (11, 0)]
  | .xPrefix xhi _ => word32 [(6, 63), (26, xhi.toNat)]
  | _ => none

/-- A general-layout lane word (R50). -/
def laneWord (op : Nat) (h : LaneHdr) (par : Nat) (opd : List (Nat × Nat)) : BitVec 48 :=
  BitVec.ofNat 48 (pack ([(6, op), (6, h.idle.toNat), (12, h.rep.toNat), (12, par)] ++ opd))

/-- An address-carrying lane word with opx zero (R50). -/
def laneAddrWord (op : Nat) (h : LaneAddr) (opd : Nat) : BitVec 48 :=
  BitVec.ofNat 48 (pack [(6, op), (6, h.idle.toNat), (4, h.layer.toNat), (2, h.bank.toNat), (14, h.row.toNat),
    (4, 0), (12, opd)])

/-- The lane word of an instruction, if it is one (R215). -/
def encodeLane : Instr → Option (BitVec 48)
  | .idle h => some (laneWord 0x01 h h.step.toNat [(12, 0)])
  | .act h port => some (laneAddrWord 0x02 h port.toNat)
  | .pre h => some (laneAddrWord 0x03 h 0)
  | .prea h ports => some (laneWord 0x04 h h.step.toNat [(8, 0), (4, ports.toNat)])
  | .ref h => some (laneAddrWord 0x05 h 0)
  | .wrrow h src => some (laneAddrWord 0x06 h src.toNat)
  | .setfmt h xb code kcn => some (laneWord 0x08 h xb.toNat [(4, code.toNat), (8, kcn.toNat)])
  | .setsc h par port src => some (laneWord 0x09 h par.toNat [(2, port.toNat), (1, src.toNat), (9, 0)])
  | .maskk h lim => some (laneWord 0x0A h (lim.toNat / 4096) [(12, lim.toNat % 4096)])
  | .gemv h port buf a y8 => some (laneWord 0x10 h h.step.toNat [(2, port.toNat), (2, buf.toNat), (3, a.toNat), (5, y8.toNat)])
  | .gemvb h port buf a nv y64 =>
    some (laneWord 0x11 h h.step.toNat [(2, port.toNat), (2, buf.toNat), (3, a.toNat), (3, nv.toNat), (2, y64.toNat)])
  | .dotk h port buf a y8 => some (laneWord 0x12 h h.step.toNat [(2, port.toNat), (2, buf.toNat), (3, a.toNat), (5, y8.toNat)])
  | .axpv h port score out y16 =>
    some (laneWord 0x13 h h.step.toNat [(2, port.toNat), (3, score.toNat), (3, out.toNat), (4, y16.toNat)])
  | .stats h score out stat slot =>
    some (laneWord 0x14 h h.step.toNat [(3, score.toNat), (3, out.toNat), (3, stat.toNat), (3, slot.toNat)])
  | .accz h bank ninf first => some (laneWord 0x18 h h.step.toNat [(3, bank.toNat), (1, ninf.toNat), (8, first.toNat)])
  | .accmvBank h src dst => some (laneWord 0x19 h h.step.toNat [(1, 0), (3, src.toNat), (3, dst.toNat), (5, 0)])
  | .accmvScratch h src off => some (laneWord 0x19 h h.step.toNat [(1, 1), (3, src.toNat), (8, off.toNat)])
  | .popa h buf first bank => some (laneWord 0x1A h h.step.toNat [(2, buf.toNat), (6, first.toNat), (3, bank.toNat), (1, 0)])
  | .qst h strict desc => some (laneWord 0x1B h strict.toNat [(12, desc.toNat)])
  | .rsendSum h bank => some (laneWord 0x20 h h.step.toNat [(2, 0), (3, bank.toNat), (7, 0)])
  | .rsendMerge h bank stat slot =>
    some (laneWord 0x20 h h.step.toNat [(2, 1), (3, bank.toNat), (3, stat.toNat), (3, slot.toNat), (1, 0)])
  | .syncpt h align id => some (laneWord 0x28 h h.step.toNat [(1, align.toNat), (11, id.toNat)])
  | .laneLfence h all layer => some (laneWord 0x29 h h.step.toNat [(7, 0), (1, all.toNat), (4, layer.toNat)])
  | .haltl h => some (laneWord 0x3F h h.step.toNat [(12, 0)])
  | _ => none

/-- A record from its type, header, P fields (33 bits) and W0 (R241). -/
def recWord (ty : Nat) (h : RecHdr) (p : List (Nat × Nat)) (w0 : Nat) : BitVec 128 :=
  BitVec.ofNat 128 (pack ([(6, ty), (3, h.scope.toNat), (1, h.cen.toNat), (13, h.ctr.toNat), (8, h.nid.toNat)] ++ p
    ++ [(64, w0)]))

/-- A COPY record of reduce operation `rop` (R253). -/
def copyWord (rop : Nat) (h : RecHdr) (chain : Bool) (pin : BitVec 2) (desc : Word) : BitVec 128 :=
  recWord 0x01 h [(3, rop), (1, chain.toNat), (2, pin.toNat), (27, 0)] desc.toNat

/-- A RAFTX record of operation `op` (R270). -/
def raftxWord (op : Nat) (h : RecHdr) (slot : BitVec 6) (desc : Word) : BitVec 128 :=
  recWord 0x14 h [(6, slot.toNat), (2, op), (25, 0)] desc.toNat

/-- The engine record of an instruction, if it is one (R253 to R271). -/
def encodeRecord : Instr → Option (BitVec 128)
  | .copy h chain pin desc => some (copyWord 0 h chain pin desc)
  | .copyFadd h chain pin desc => some (copyWord 1 h chain pin desc)
  | .copyIadd h chain pin desc => some (copyWord 2 h chain pin desc)
  | .copyRi32 h chain pin desc => some (copyWord 3 h chain pin desc)
  | .copyImax h chain pin desc => some (copyWord 4 h chain pin desc)
  | .copyOr h chain pin desc => some (copyWord 5 h chain pin desc)
  | .fmt h word => some (recWord 0x04 h [(33, 0)] word.toNat)
  | .mtile h acc zero tri rows cols part desc =>
    some (recWord 0x02 h [(2, acc.toNat), (1, zero.toNat), (1, tri.toNat), (8, rows.toNat), (8, cols.toNat),
      (1, part.toNat), (12, 0)] desc.toNat)
  | .epi h acc axis tgt strict eio tri rows cols desc =>
    some (recWord 0x03 h [(2, acc.toNat), (1, axis.toNat), (3, tgt.toNat), (1, strict.toNat), (2, eio.toNat),
      (1, tri.toNat), (8, rows.toNat), (8, cols.toNat), (7, 0)] desc.toNat)
  | .node h target pcnt blk => some (recWord 0x08 h [(3, target.toNat), (12, pcnt.toNat), (18, 0)] blk.toNat)
  | .qpw h slot desc => some (recWord 0x10 h [(6, slot.toNat), (27, 0)] desc.toNat)
  | .qpwr h slot rop desc => some (recWord 0x11 h [(6, slot.toNat), (3, rop.toNat), (24, 0)] desc.toNat)
  | .arm h slot ctr threshold =>
    some (recWord 0x12 h [(6, slot.toNat), (27, 0)] (2 ^ 48 * ctr.toNat + threshold.toNat))
  | .tsend h slot width time => some (recWord 0x13 h [(6, slot.toNat), (16, width.toNat), (11, 0)] time.toNat)
  | .raftxRi32 h slot desc => some (raftxWord 0 h slot desc)
  | .raftxMax h slot desc => some (raftxWord 1 h slot desc)
  | .raftxOr h slot desc => some (raftxWord 2 h slot desc)
  | .rafta h slot desc => some (recWord 0x15 h [(6, slot.toNat), (27, 0)] desc.toNat)
  | _ => none

/-- The words of an instruction, least significant first: its width in bits and its value. A core word is 32 bits,
or 64 with its X prefix in bits 31:0; a lane word 48; a record 128. A step of the device has no words. -/
def encode (i : Instr) : Option (Nat × Nat) :=
  match encodeWord i with
  | some w =>
    match i with
    | .xPrefix _ next => some (64, 2 ^ 32 * next.toNat + w.toNat)
    | _ => some (32, w.toNat)
  | none =>
    match encodeLane i with
    | some w => some (48, w.toNat)
    | none => (encodeRecord i).map (fun r => (128, r.toNat))

/-- Byte `i` of a little-endian value (R4). -/
def byteOf (v i : Nat) : Byte := BitVec.ofNat 8 (v / 2 ^ (8 * i))

/-- The `n` bytes of a value in memory order (R4). -/
def bytesOf : Nat → Nat → List Byte
  | 0, _ => []
  | n + 1, v => byteOf v 0 :: bytesOf n (v / 256)

/-- The value of bytes in memory order (R4). -/
def ofBytes : List Byte → Nat
  | [] => 0
  | b :: bs => b.toNat + 256 * ofBytes bs

/-- A 32-bit word from four bytes in memory order, `none` with fewer (R4). -/
def wordOf (bs : List Byte) : Option (BitVec 32) :=
  if 4 ≤ bs.length then some (BitVec.ofNat 32 (ofBytes (bs.take 4))) else none

/-- Whether a word is an X prefix, and so takes the word after it (R39). -/
def isX (w : BitVec 32) : Bool := w.extractLsb' 26 6 == 63#6

/-- A control-core instruction from the bytes at its address: the instruction and its length in bytes (R35). -/
def decode (bs : List Byte) : Except Reject (Instr × Nat) :=
  match wordOf bs with
  | none => .error .truncated
  | some w =>
    if isX w then
      match wordOf (bs.drop 4) with
      | none => .error .truncated
      | some n => (decodeWord w n).map (fun i => (i, 8))
    else (decodeWord w 0).map (fun i => (i, 4))

/-- The instruction that the decoder reads from a word numbered as the opcode table numbers it: a control-core
word, a lane word or an engine record by its width; an X prefix's second word is zero. -/
def decodeTableWord (nbits w : Nat) : Option Instr :=
  if nbits = 32 then (decode (bytesOf 8 w)).toOption.map (·.1)
  else if nbits = 48 then (decodeLane (BitVec.ofNat 48 w)).toOption
  else if nbits = 128 then
    let r := BitVec.ofNat 128 w
    match acceptingQueue (r.extractLsb' 122 6) with
    | some q => (decodeRecord q r).toOption
    | none => none
  else none

end Sys2Proof
end

