-- ==== Sys2Proof/Machine/Crypto.lean ====
section
/-! DEFINITION. The digest and the sealing that the crypto engine computes: SM3 by GB/T 32905 (R14, R426, R427), and SM4 by
GB/T 32907 in GCM (R423) and in XTS (R392). The standards' texts are outside this spec (PRESUMED, log 130). -/

namespace Sys2Proof.Machine

/-- A big-endian number of some bytes, and its bytes. -/
def beNat (bs : List Byte) : Nat := bs.foldl (fun a b => 256 * a + b.toNat) 0
def beBytes (n a : Nat) : List Byte := (List.range n).map (fun i => BitVec.ofNat 8 (a / 256 ^ (n - 1 - i)))

/-- Consecutive parts of `k` bytes of a list of at most `n` parts. -/
def parts (k : Nat) : Nat → List Byte → List (List Byte)
  | 0, _ => []
  | n + 1, bs => if bs.isEmpty then [] else bs.take k :: parts k n (bs.drop k)

/-- The 32-bit big-endian words of some bytes. -/
def beWords (bs : List Byte) : List (BitVec 32) := (parts 4 bs.length bs).map (fun b => BitVec.ofNat 32 (beNat b))

/-! ### SM3 (GB/T 32905) -/

/-- The permutation of the message expansion. -/
def sm3P1 (x : BitVec 32) : BitVec 32 := x ^^^ x.rotateLeft 15 ^^^ x.rotateLeft 23

/-- `n` more words of the expansion of a block, newest first. -/
def sm3Expand : Nat → List (BitVec 32) → List (BitVec 32)
  | 0, w => w
  | n + 1, w =>
    let at0 (i : Nat) : BitVec 32 := w.getD (i - 1) 0
    sm3Expand n ((sm3P1 (at0 16 ^^^ at0 9 ^^^ (at0 3).rotateLeft 15) ^^^ (at0 13).rotateLeft 7 ^^^ at0 6) :: w)

/-- One of the 64 rounds: its number, its two words, and the eight working words. -/
def sm3Round (j : Nat) (w w4 : BitVec 32) (v : List (BitVec 32)) : List (BitVec 32) :=
  match v with
  | [a, b, c, d, e, f, g, h] =>
    let t : BitVec 32 := if j < 16 then 0x79CC4519 else 0x7A879D8A
    let s1 := (a.rotateLeft 12 + e + t.rotateLeft (j % 32)).rotateLeft 7
    let s2 := s1 ^^^ a.rotateLeft 12
    let ff := if j < 16 then a ^^^ b ^^^ c else (a &&& b) ||| (a &&& c) ||| (b &&& c)
    let gg := if j < 16 then e ^^^ f ^^^ g else (e &&& f) ||| (~~~ e &&& g)
    let t1 := ff + d + s2 + (w ^^^ w4)
    let t2 := gg + h + s1 + w
    [t1, a, b.rotateLeft 9, c, t2 ^^^ t2.rotateLeft 9 ^^^ t2.rotateLeft 17, e, f.rotateLeft 19, g]
  | _ => v

/-- The rounds from a number on, over the rest of the expanded words. -/
def sm3Rounds : Nat → Nat → List (BitVec 32) → List (BitVec 32) → List (BitVec 32)
  | 0, _, _, v => v
  | n + 1, j, ws, v => sm3Rounds n (j + 1) (ws.drop 1) (sm3Round j (ws.getD 0 0) (ws.getD 4 0) v)

/-- A block of 64 bytes compressed into the chaining words. -/
def sm3Block (v : List (BitVec 32)) (b : List Byte) : List (BitVec 32) :=
  List.zipWith (· ^^^ ·) v (sm3Rounds 64 0 (sm3Expand 52 (beWords b).reverse).reverse v)

/-- The SM3 digest of some bytes (R14, R412). -/
def sm3 (m : List Byte) : List Byte :=
  let z := (119 - m.length % 64) % 64
  let p := m ++ [0x80] ++ List.replicate z 0 ++ beBytes 8 (8 * m.length)
  let iv : List (BitVec 32) :=
    [0x7380166F, 0x4914B2B9, 0x172442D7, 0xDA8A0600, 0xA96F30BC, 0x163138AA, 0xE38DEE4D, 0xB0FB0E4E]
  ((parts 64 p.length p).foldl sm3Block iv).flatMap (fun w => beBytes 4 w.toNat)

/-! ### SM4 (GB/T 32907) -/

/-- The S-box, its entry 0 lowest. -/
def sm4Box : Nat := 0x4839cbd73e5fee79204ddc3aec7df01884c66ec509f1b9657e77960c4a976989b0b4e5b812d0742dbd7bcda58831c10ad85a101f415cd9117fbcddbb92af1b8d515b6c6d726aff032f8efdde4537dbd56f4e530dab2329c060ca66822ee2f61de3b18cf5303293ad551a349ba45daee0a11561f9cef2f7a3b538c740d28abfea9ec8c4a0e702364c5227d39f574600d4877821013b7c2225a2d158635e0e241e359d56704b0febf88bda6471b2816b68a84f85e6193c5983ba1773f3fca70747a63f8f75fa94df8095e808c9a91cb3e462accfed430b54337a98ef91f450429c99068649261344aac304be2a769a672b052cfb28c214b616b73de1ccfee990d6

/-- The S-box on each byte of a word. -/
def sm4Sub (x : BitVec 32) : BitVec 32 :=
  BitVec.ofNat 32 (beNat ((beBytes 4 x.toNat).map (fun b => BitVec.ofNat 8 (sm4Box >>> (8 * b.toNat)))))

/-- The linear parts of a round and of the key schedule. -/
def sm4L (b : BitVec 32) : BitVec 32 := b ^^^ b.rotateLeft 2 ^^^ b.rotateLeft 10 ^^^ b.rotateLeft 18 ^^^ b.rotateLeft 24
def sm4Lk (b : BitVec 32) : BitVec 32 := b ^^^ b.rotateLeft 13 ^^^ b.rotateLeft 23

/-- The constant of a round of the key schedule. -/
def sm4Ck (i : Nat) : BitVec 32 := BitVec.ofNat 32 (beNat ((List.range 4).map (fun j => BitVec.ofNat 8 ((4 * i + j) * 7))))

/-- One step of the four-word register that rounds and the key schedule share. -/
def sm4Step (f : BitVec 32 → BitVec 32) (k : BitVec 32) (x : List (BitVec 32)) : List (BitVec 32) :=
  match x with
  | [a, b, c, d] => [b, c, d, a ^^^ f (sm4Sub (b ^^^ c ^^^ d ^^^ k))]
  | _ => x

/-- The round keys of a key. -/
def sm4Keys (key : List Byte) : List (BitVec 32) :=
  let k0 := List.zipWith (· ^^^ ·) (beWords key) [0xA3B1BAC6, 0x56AA3350, 0x677D9197, 0xB27022DC]
  ((List.range 32).foldl (fun (r : List (BitVec 32) × List (BitVec 32)) i =>
    let k := sm4Step sm4Lk (sm4Ck i) r.1
    (k, k.getD 3 0 :: r.2)) (k0, [])).2.reverse

/-- A block enciphered under round keys, or deciphered under them in the opposite order. -/
def sm4Block (ks : List (BitVec 32)) (b : List Byte) : List Byte :=
  (ks.foldl (fun x k => sm4Step sm4L k x) (beWords b)).reverse.flatMap (fun w => beBytes 4 w.toNat)

/-! ### XTS -/

/-- The tweak of the next block of a data unit. -/
def xtsNext (t : Nat) : Nat := (2 * t) % 2 ^ 128 ^^^ (if t.testBit 127 then 0x87 else 0)

/-- `n` blocks from a tweak on, each by `f` between two additions of its tweak. -/
def xtsBlocks (f : List Byte → List Byte) : Nat → Nat → List Byte → List Byte
  | 0, _, _ => []
  | n + 1, t, bs =>
    let add (b : List Byte) : List Byte := List.zipWith (· ^^^ ·) b (bytesOf 16 t)
    add (f (add (bs.take 16))) ++ xtsBlocks f n (xtsNext t) (bs.drop 16)

/-- SM4-XTS of a sector of 128 bytes under a key of 32 bytes: the sector is the data unit, and its number, PA[47:7], the tweak
(R392). -/
def sm4Xts (decipher : Bool) (key : List Byte) (sector : Nat) (bs : List Byte) : List Byte :=
  let ks := sm4Keys (key.take 16)
  xtsBlocks (sm4Block (if decipher then ks.reverse else ks)) 8
    (ofBytes (sm4Block (sm4Keys (key.drop 16)) (bytesOf 16 sector))) bs

/-- What a read under one key finds in a sector that was written as `bs` under another (R393). -/
def crossKey (writtenKey readKey : List Byte) (sector : Nat) (bs : List Byte) : List Byte :=
  sm4Xts true readKey sector (sm4Xts false writtenKey sector bs)

/-- What a read under a key finds in a sector that has not been written since initialisation: the decryption of zeros (R463). -/
def unwritten (key : List Byte) (sector : Nat) : List Byte := sm4Xts true key sector (List.replicate 128 0)

/-! ### GCM -/

/-- `n` bits of a product in the field of GCM, the highest bit of `x` first. -/
def gcmMul : Nat → Nat → Nat → Nat → Nat
  | 0, _, _, z => z
  | n + 1, x, v, z =>
    gcmMul n x ((v / 2) ^^^ (if v % 2 = 1 then 0xE1 <<< 120 else 0)) (if x.testBit n then z ^^^ v else z)

/-- The hash of padded blocks. -/
def ghash (h : Nat) (bs : List Byte) : Nat :=
  (parts 16 bs.length bs).foldl (fun y b => gcmMul 128 (y ^^^ beNat b) h 0) 0

/-- Bytes padded with zeros to whole blocks. -/
def pad16 (bs : List Byte) : List Byte := bs ++ List.replicate ((16 - bs.length % 16) % 16) 0

/-- SM4-GCM: the ciphertext of a payload and its 16-byte tag, under a key, a 12-byte IV and additional data (R423). -/
def sm4Gcm (key iv aad payload : List Byte) : List Byte × List Byte :=
  let ks := sm4Keys key
  let pad (n : Nat) : List Byte := sm4Block ks (iv ++ beBytes 4 n)
  let c := ((parts 16 payload.length payload).mapIdx (fun i b => List.zipWith (· ^^^ ·) b (pad (i + 2)))).flatten
  let y := ghash (beNat (sm4Block ks (List.replicate 16 0)))
    (pad16 aad ++ pad16 c ++ beBytes 8 (8 * aad.length) ++ beBytes 8 (8 * c.length))
  (c, List.zipWith (· ^^^ ·) (beBytes 16 y) (pad 1))

end Sys2Proof.Machine
end

