-- ==== Sys2Proof/Config.lean ====
section
/-! DEFINITION. What an implementation or a key fixes: constants with no body, so that no proof can see a value. -/

namespace Sys2Proof.Config

/-- What a second-tier key slot holds before the host has delivered a key for it, 32 bytes (R393; log 4). -/
opaque memoryKey (slot : Nat) : List Byte

/-- The sector of second-tier memory in which the firmware keeps a sector of the spill areas (R356; log 43). -/
opaque spillSector (sector : Nat) : Nat

/-- Whether the SM2 signature that an image carries verifies over the image's SM3 digest (R14, R460; log 7). -/
opaque imageVerifies (image digest : List Byte) : Bool

/-- The device's identity: the certificate chain of its fused SM2 key pair (R426; log 130). -/
opaque identity : List Byte

/-- What a session key slot holds before the host has delivered a key for it (R423; log 130). -/
opaque sessionKey (slot : Nat) : List Byte

/-- The MAC address that a frame to a member or switch of a job is sent to: the host's fabric routing (R421, R425; log 130). -/
opaque stationMac (stream : Nat) : Nat

/-- The service table of an image: the entry point and extent table image of a service code (R281; log 8). -/
opaque service (image : List Byte) (code : Nat) : Option (Word × List Byte)

/-- Rows of a stack remapped by its fuses and repair list (R342; log 9). -/
opaque repairRows (stack : Nat) : BitVec 16

/-- Vertical-bus lines of a stack repaired by its fuses and repair list (R342; log 9). -/
opaque repairLines (stack : Nat) : BitVec 16

/-- Where the firmware has the reduction area of a group, as a physical address (R433; log 132). -/
opaque reductionArea (group : Nat) : Nat

/-- Where the firmware has the context image of a unit saved, as a system-window address (R294; log 15). -/
opaque saveAddr (uid : Nat) : Word

/-- The WIDTH that a receiving port takes for a frame that no record of its own consumes: no frame carries one (R421,
R436; log 20). -/
opaque skewWidth (member : Nat) : Nat

/-- The chunk exponent that a RAFT frame carries: no record and no chunk gives it to the engine (R95, R421; log 51). -/
opaque chunkExponent (group round chunk : Nat) : BitVec 8

/-- The service of an image that the firmware starts as a task on its own events at a tick, with its argument (R281;
log 8). -/
opaque firmwareTask (image : List Byte) (tick : Nat) : Option Word

/-- Where the firmware keeps the trap frame of a task, in its own memory (R281; log 8). -/
opaque taskFrame : Nat

/-- Tokens per microsecond that one slice port can carry (R299; log 27). -/
opaque sliceCapacity : Nat

/-- The residue after an element of value v + e whose scale makes the half step of R84 overflow: R86 states that it is finite
and nothing else (log 103). -/
opaque openResidue : BitVec 32 → BitVec 32

end Sys2Proof.Config
end

