-- ==== Sys2Proof/Machine/State.lean ====
section
/-! DEFINITION. The state of the machine as plain data, its reset, and the reasons a step can stop. -/

namespace Sys2Proof.Machine

/-- The three privilege levels (R10). -/
inductive Level where
  | unit | supervisor | management
  deriving DecidableEq, Repr

/-- The classes of control core (R28, R32). -/
inductive CoreClass where
  | stack | tile | head
  deriving DecidableEq, Repr

/-- CTXSTAT.ST (R294). -/
inductive CtxState where
  | idle | running | preempt | saving | loading
  deriving DecidableEq, Repr

/-- An eddy register: residue, tensor tag and next expected index (R31). -/
structure Eddy where
  res : F32
  tag : BitVec 16
  idx : BitVec 32
  deriving DecidableEq, Repr

/-- A counted-loop entry (R112). It stands in a list only while it is active. -/
structure LoopEntry where
  start : Word
  stop  : Word
  count : Word
  deriving DecidableEq, Repr

/-- A watch-list entry: the record, and the generation last arrived at plus 1, 0 for none (R177, R379). -/
structure Watch where
  addr    : Word
  arrived : Nat
  deriving DecidableEq, Repr

/-- A side-log entry (R407). `red` is KIND, `aop` and `wide` are OPW (`wide` for 8 bytes). -/
structure SideEntry where
  addr : Word
  red  : Bool
  aop  : Nat
  wide : Bool
  atom : Bool
  /-- It was made at supervisor level, and so resolves extents 14 and 15 as R369 states. -/
  sup  : Bool
  /-- A reduction that has been sent to another package and not acknowledged (R320, R409). -/
  sent : Bool
  data : List Byte
  deriving DecidableEq, Repr

/-- A replay entry with its operand slot (R371, R379): PC, word and effective address, then the captured store
data or stride, index vector and mask. -/
structure Replay where
  pc    : Word
  word  : BitVec 32
  ea    : Word
  oper  : BitVec 128
  index : VWord
  mask  : MWord
  deriving DecidableEq, Repr

/-- An asynchronous trap waiting for its unit (R368, R373). -/
structure Pend where
  cause : Nat
  info  : Nat
  addr  : Word
  extra : BitVec 128
  /-- Its lane, or its record's queue with the place of that record in pop order (R373). -/
  ord   : Nat
  seq   : Nat
  deriving DecidableEq, Repr

/-- One hardware context of a control core (R28, R275). -/
structure Ctx where
  g      : SMap Word
  v      : SMap VWord
  m      : SMap MWord
  e      : SMap Eddy
  /-- The epilogue bank of the slot (R366). -/
  epi    : SMap Eddy
  pc     : Word
  fpst   : Word
  level  : Level
  /-- Active unit-level loop entries, innermost first (R112). -/
  loops  : List LoopEntry
  /-- Active supervisor-level loop entries, innermost first (R370). -/
  sloops : List LoopEntry
  xtab   : SMap (BitVec 128)
  side   : List SideEntry
  watch  : List Watch
  guard  : Word
  epoch  : BitVec 6
  tframe : Word
  preq   : Bool
  pdl    : BitVec 32
  /-- Cycles left of a running PDL count (R295). -/
  pdlLeft : Nat
  /-- The resident unit's serial number. -/
  uid    : Option Nat
  /-- The instruction at PC is a load or store that has issued and waits (R128). -/
  held   : Bool
  /-- Its access is held at its requester port by a freeze (R385). -/
  frz    : Bool
  /-- The place of that access in issue order among those that a freeze has held at the core's port (R387); 0 for none. -/
  frzAt  : Nat
  /-- The words that the instruction at PC was fetched as, once it has issued: one that waits is not fetched again. -/
  fetched : Option (BitVec 32 × BitVec 32)
  /-- Side-log entries of the store at PC that have entered while the rest wait (R408). -/
  entered : Nat
  /-- The words of the LPUSH at PC that have not entered their queues yet, once some have, and their push group
  (R186). A true mark is the place after an image without HALTL. -/
  pushing : List (BitVec 48 × Bool)
  pushGroup : Nat
  /-- Replay entries still to be issued again (R194, R379). -/
  replay : List Replay
  /-- A window-0x1 or 0x2 access was made since the bind (R357). -/
  spadUsed : Bool
  prio   : Nat
  st     : CtxState
  berr   : Bool
  forced : Bool
  /-- Entries each queue had popped when the context was created (R188). -/
  popBase : SMap Nat
  /-- A save marker of this slot is queued and not processed (R367). -/
  marker : Bool
  deriving DecidableEq, Repr

/-- A record in an engine queue, in flight or parked (R244, R246). -/
structure Rec where
  /-- The 128 bits as pushed, NID as the walker set it. -/
  bits   : BitVec 128
  /-- The slot whose PUSH or node entered it, and the unit it acts for; `none` for the hub's own work. -/
  slot   : Nat
  uid    : Option Nat
  /-- Serial number, in order of entry. -/
  seq    : Nat
  /-- The graph counter of an image record, advanced at completion (R289). -/
  gctr   : Option Nat
  /-- It is the next record of a chain (R257). -/
  chained : Bool
  /-- Bytes performed and not yet subtracted from each barrier it names (R247). -/
  subs   : List (Word × Nat)
  /-- Where a running record's chain continues; of a queued record of a chain, where it is read (R257). -/
  chain  : Option Word
  /-- Flags ORed into its node or launch status at completion, from bit 0: SAT NV EDDYBRK LATE SLOTSKEW (R250). -/
  flags  : Nat
  /-- The streams on which a running record has sent frames, with the last number that it has used on each (R246). -/
  waits  : List (Nat × Nat)
  /-- The trigger time that its frames carry, and its WIDTH (R268). -/
  ts     : Option (Word × Nat)
  /-- The descriptor of a popped record, as read at pop (R242, R267). -/
  desc   : List Byte
  /-- Its slot has fired: popped again after a fault it runs at once. Of a faulted record of the node walker: it did not
  fault at its pop, and is not popped again. -/
  fired  : Bool
  /-- It has been popped and waits to start: for its descriptor, a page, a held frame or a group (R244, R248). -/
  todo   : Bool
  /-- It was read by a chain, and keeps its own header (R257). -/
  link   : Bool
  /-- Of the next record of a chain: the record that named it, and the 128 bits as read (R257). -/
  prev   : Option (BitVec 128)
  raw    : Option (BitVec 128)
  deriving DecidableEq, Repr

/-- A marker of the epilogue queue (R367): a save to, or a load from, a context image. -/
structure Marker where
  save  : Bool
  slot  : Nat
  image : Word
  /-- The load is for a new unit: the bank takes +0 with tag 0. -/
  fresh : Bool
  /-- The key the image is held under. -/
  key   : Nat
  /-- The marker stands behind every record with a smaller serial number. -/
  seq   : Nat
  uid   : Option Nat
  deriving DecidableEq, Repr

/-- An engine queue of a core (R183, R188, R244, R251). -/
structure EngQ where
  /-- Queued records, oldest first. -/
  recs   : List Rec
  /-- Records popped and not complete, in pop order. -/
  run    : List Rec
  popped : Nat
  /-- The holds of faulted records, in order: FCODE and record. -/
  fault  : List (Nat × Rec)
  markers : List Marker
  /-- CYC of the core at the last pop (R453). -/
  lastPop : Option Nat
  /-- A record of the queue is held at its requester port by a freeze (R385). -/
  frz    : Bool
  deriving DecidableEq, Repr

/-- A trigger of a collective slot (R268). -/
inductive Trigger where
  | counter (ctr threshold : Nat)
  | time (t : Word) (width : Nat)
  deriving DecidableEq, Repr

/-- A collective slot (R267): the parked entry, and the record that set the trigger. -/
structure CSlot where
  entry   : Option Rec
  trigger : Option (Trigger × Rec)
  deriving DecidableEq, Repr

/-- What a control core holds for both its contexts (R355, R359). -/
structure Core where
  cyc    : Word
  owner  : Option Nat
  frozen : Bool
  /-- Frames of the scratchpad still to be spilled or restored (R356). -/
  spill  : List Nat
  /-- The job whose frames are being spilled. -/
  outgoing : Option Nat
  /-- 64 KiB frames written since the owner became owner (R356). -/
  written : List Nat
  /-- Accumulator tiles: element n of row m of tile t at 65536 t + 256 m + n (R260). -/
  tiles  : SMap F32
  /-- The format queue: words with their pushing unit, oldest first (R363). -/
  fmtq   : List (Nat × Word)
  fmtPopped : Nat
  deriving DecidableEq, Repr

/-- A node-table entry (R266). -/
structure Node where
  declared : Bool
  count    : Nat
  credit   : Nat
  target   : Nat
  blk      : Word
  fired    : Bool
  /-- The launch counter of a fired launch node. -/
  lctr     : Option Nat
  /-- The node status of R250. -/
  status   : BitVec 256
  /-- The successors its block named when it fired. -/
  succ     : List Nat
  /-- When its count reached zero, among the other nodes' (R266). -/
  ready    : Nat
  /-- The slot whose PUSH declared it (R366). -/
  slot     : Nat
  deriving DecidableEq, Repr

/-- How a unit ended (R277). -/
inductive Ending where
  | halted | faulted | cancelled
  deriving DecidableEq, Repr

/-- A unit from its bind to its contribution (R275, R277). -/
structure Unit where
  job    : Nat
  lctr   : Nat
  index  : Nat
  cls    : CoreClass
  prio   : Nat
  strict : Bool
  nodes  : SMap Node
  /-- Lines pinned, with the core that pinned each (R256, R362). -/
  pins   : List (Nat × Nat)
  ending : Option Ending
  /-- The contribution of a halted unit has been made (R277). -/
  contributed : Bool
  /-- Where its image stands while it is saved (R379). -/
  image  : Option Word
  lastCore : Nat
  spadUsed : Bool
  /-- Asynchronous traps that wait for it (R373). -/
  pend   : List Pend
  /-- The queue and the serial number of the faulted record that was last told to it: its handler's return releases the hold
  that this record makes (R251, R372). -/
  trapRec : Option (Nat × Nat)
  /-- Where its trap frame was written, the STATUS written there, whose RO fields a return uses (R371), and the
  operands captured with its replay entries. -/
  tstat  : Option (Word × Word × List Replay)
  /-- Its extent table, and the epoch it had when it was last resident: records act for it after it leaves (R301). -/
  xtab   : SMap (BitVec 128)
  epoch  : BitVec 6
  /-- The side log of a saved unit, and the entries each queue had popped when its context was created (R188, R410). -/
  side   : List SideEntry
  popBase : SMap Nat
  deriving DecidableEq, Repr

/-- An accepted launch or phase (R278, R286). -/
structure Launch where
  queue  : Nat
  job    : Nat
  /-- The 128 bytes of the packet (R278). -/
  packet : Nat
  /-- Acceptance order (R282). -/
  seq    : Nat
  /-- Its extents have been translated, or its status block has begun without that (R250, R402). -/
  translated : Bool
  /-- Unit indices bound so far. -/
  bound  : List Nat
  overdue : Bool
  /-- It was cancelled and its contexts have not all stopped (R293). -/
  cancelling : Bool
  /-- The unit and node that fired it, if a node did (R265). -/
  node   : Option (Nat × Nat)
  /-- Service tasks and images enter their graph here (R289). -/
  graph  : Option Nat
  deriving DecidableEq, Repr

/-- What is put into a status of R250: flag bits 134:128 by number, a fault, and the record. -/
structure StatUpd where
  flags : Nat
  fault : Option (Nat × Nat × Nat × Nat)
  recd  : Option Nat
  deriving DecidableEq, Repr

/-- A completion counter (R285). -/
structure Counter where
  job    : Nat
  kind   : Nat
  state  : Nat
  parent : Nat
  ien    : Bool
  target : Nat
  value  : Nat
  deriving DecidableEq, Repr

/-- What the device holds for a job beside its table entry (R291 to R293, R397). -/
structure JobSt where
  active : Bool
  cancelling : Bool
  /-- VALID was cleared while work was outstanding (R293). -/
  clearing : Bool
  /-- Sealed ranges: base and length (R397). -/
  seals  : List (Nat × Nat)
  deriving DecidableEq, Repr

/-- A submission queue (R282, R284). -/
structure SubQ where
  refused : Nat
  lasterr : Nat
  overdue : Nat
  deriving DecidableEq, Repr

/-- The state of the pages of a run (R400, R402). -/
inductive PageState where
  | absent
  | discarded
  | present (pa : Nat)
  | remote (member : Nat)
  | refused
  deriving DecidableEq, Repr

/-- One 64 KiB page of a built run (R402). `shadow` is the shadow of a checked page (R401). -/
structure Run where
  state  : PageState
  w      : Bool
  chk    : Bool
  shadow : Nat
  deriving DecidableEq, Repr

/-- A barrier record in which a fatal fault sets FAILED: the job, core and extents of the unit that registered it, and its
pointer (R178). -/
structure FailDue where
  job  : Nat
  core : Nat
  dom  : Nat
  xtab : SMap (BitVec 128)
  addr : Word
  deriving DecidableEq, Repr

/-- A cache line held in a slice (R393, R394, R397). -/
structure Line where
  line  : Nat
  slice : Nat
  key   : Nat
  valid : BitVec 4
  dirty : BitVec 4
  /-- What memory behind the slice holds in each dirty sector, as read under the line's key. -/
  old   : SMap (List Byte)
  deriving DecidableEq, Repr

/-- A request held at the ports during a freeze (R385, R386). -/
structure Held where
  req   : SliceReq
  slice : Nat
  deriving DecidableEq, Repr

/-- A running graph image (R289, R290). -/
structure Graph where
  gctr  : Nat
  job   : Nat
  nodes : SMap Node
  /-- The phase it belongs to, and its index there. -/
  phase : Option (Nat × Nat)
  deriving DecidableEq, Repr

/-- An entered phase: its counter, the pointers to its graph images, and how many have completed (R290). -/
structure Phase where
  ctr    : Nat
  job    : Nat
  graphs : List Word
  done   : Nat
  deriving DecidableEq, Repr

/-- Firmware services (R281). -/
structure Svc where
  /-- Held requests, the running one first. -/
  held    : List Word
  running : Bool
  /-- The running task was started on an event of the firmware's own, for no request. -/
  own     : Bool
  done    : Nat
  last    : Nat
  deriving DecidableEq, Repr

/-- The image of a section that the loader supplies for an extent of the launches that name an XTAB (R272). -/
structure Section where
  job  : Nat
  xtab : Nat
  ext  : Nat
  data : List Byte
  deriving DecidableEq, Repr

/-- A pending translator command (R405, R406). -/
structure XlCmd where
  mapped : Bool
  job    : Nat
  page   : Nat
  npage  : Nat
  deriving DecidableEq, Repr

/-- The range translator (R402 to R406). -/
structure Xlate where
  cmds  : List XlCmd
  done  : Nat
  err   : Bool
  /-- Requests waiting to be posted: job, page, kind. -/
  wait  : List (Nat × Nat × Nat)
  /-- The page-request ring: job, page, kind by entry. -/
  ring  : SMap (Nat × Nat × Nat)
  head  : Nat
  deriving DecidableEq, Repr

/-- An agent's turn: the model's own field, which agent moves next (log 1). -/
inductive Turn where
  /-- The unit of a context issues one instruction. -/
  | unit (slot : Nat)
  /-- A lane issues the next word of its word queue. -/
  | lane (lane : Nat)
  /-- An engine queue pops its head record. -/
  | engine (queue : Nat)
  /-- A step of the device or its surroundings. -/
  | event (i : Instr)
  /-- `n` periods of the 1.4 GHz clock pass. -/
  | clock (n : Nat)
  /-- An error is found in a part of the device that the growth record counts errors for: corrected, or uncorrectable in
  an ECC word (R18, R462). -/
  | error (part : Nat) (word : Option Nat)
  /-- The hottest sensor of a stack reads `celsius` whole degrees, within the stack's temperature class (R338, R349). -/
  | sensor (stack celsius : Nat)
  deriving DecidableEq, Repr

/-- The reasons a step stops the model with a fault. -/
inductive Fault where
  /-- `step` alone raises it, when the model's own field names a context that no core has. No instruction
  raises it. Safe: no state of the device is such a state. -/
  | noSuchContext
  deriving DecidableEq, Repr

/-- The reasons a step is refused. -/
inductive Refusal where
  /-- An arm of `exec` that has no meaning yet. Safe. -/
  | notModelled (mnemonic : String)
  deriving DecidableEq, Repr

/-- A row port (R217): its open banks in ACT order, each a bank of the column with its row, and its position. -/
structure Port where
  banks : List (Nat × Nat)
  pos   : Nat
  valid : Bool
  deriving DecidableEq, Repr

/-- A bank of a column (R218 to R220, R331). Bank index 4 · layer + bank. Ticks are CCLK, deadlines REFCLK. -/
structure BankT where
  row      : Option Nat
  /-- Tick of the ACT that opened it. -/
  actAt    : Nat
  /-- Earliest tick of its next ACT or REF. -/
  ready    : Nat
  /-- Earliest tick of a close that tWR allows. -/
  closeAt  : Nat
  /-- Last tick at which an array word uses it. -/
  usedTo   : Nat
  lastRef  : Nat
  deadline : Nat
  /-- The deadline has expired and the guard has not refreshed the bank yet. -/
  due      : Bool
  /-- Last tick at which a bank-fill store arrived for the bank (R334). -/
  fillAt   : Nat
  /-- Earliest tick of the bank's next use after a forced refresh: an external hold (R205). -/
  extReady : Nat
  /-- Earliest tick of the bank's next close after the guard's ACT: an external hold (R205, R340). -/
  extClose : Nat
  /-- The CCLK at which the deadline expired (R220). -/
  dueAt    : Nat
  /-- While ticks are skipped, the REFCLK until which a forced refresh of the closed bank runs; 0 for none (R340). -/
  extRef   : Nat
  deriving DecidableEq, Repr

/-- The storage that a lane word reads or writes (R208). -/
inductive Space where
  | acc | buf | scratch | eddy | row
  deriving DecidableEq, Repr

/-- A range of lane storage in use until a tick by an issued word, and that word's stream position (R205, R208). -/
structure Dep where
  space : Space
  lo    : Nat
  hi    : Nat
  till  : Nat
  write : Bool
  pos   : Nat
  deriving DecidableEq, Repr

/-- Where array words read their scales (R224). -/
inductive ScaleSrc where
  | port (p : Nat)
  | scratch
  deriving DecidableEq, Repr

/-- A word in a lane's word queue, with its pusher (R186, R209, R325). `bad` marks the place after an image
without HALTL. -/
structure LWord where
  bits   : BitVec 48
  uid    : Option Nat
  strict : Bool
  lctr   : Nat
  arrived : Nat
  group  : Nat
  bad    : Bool
  deriving DecidableEq, Repr

/-- An issued word that has not retired (R209), with its stream position and launch. `sum` names the sum whose write an
RSEND waits for (R347). -/
structure Issued where
  done : Nat
  sum  : Option Nat
  halt : Bool
  uid  : Option Nat
  pos  : Nat
  lctr : Nat
  bits : BitVec 48
  deriving DecidableEq, Repr

/-- The four array words that stream weights (R226). -/
inductive ArrayOp where
  | gemv | gemvb (nv : Nat) | dotk | axpv (out : Nat)
  deriving DecidableEq, Repr

/-- An array word's fields: its word, header, weight port, buffer, first bank and first stepped value. -/
structure ArrayWord where
  op   : ArrayOp
  h    : LaneHdr
  port : Nat
  buf  : Nat
  a    : Nat
  y0   : Nat
  deriving DecidableEq, Repr

/-- The words whose executions follow one another over ticks (R216). -/
inductive RunOp where
  | array (w : ArrayWord)
  | accz (bank : Nat) (ninf : Bool) (first : Nat)
  | popa (buf first bank : Nat)
  deriving DecidableEq, Repr

/-- A repeated word that has issued and has executions to come, with the configuration under which it issued: later words
of its stream issue while it runs (R204, R216). -/
structure LRun where
  op    : RunOp
  h     : LaneHdr
  word  : LWord
  pos   : Nat
  strict : Bool
  /-- The next execution. -/
  r     : Nat
  /-- The tick from which executions count: the issue tick, moved by the holds between executions. -/
  t0    : Nat
  issuedAt : Nat
  /-- Ticks by which external holds have delayed the next execution (R206). -/
  late  : Nat
  fmt   : Nat
  kc    : Nat
  xb    : Nat
  scs   : Option ScaleSrc
  scp   : Nat
  lim   : Nat
  kpos  : Nat
  /-- No SETSC, or no MASKK, of the stream has issued since: the lane's SCP, or KPOS, moves with the run. -/
  ownScp  : Bool
  ownKpos : Bool
  /-- Activation elements that an array word read at its issue tick (R210). -/
  latch : List (BitVec 16)
  /-- The weight and scale bytes of the present execution read so far (R221, R332). -/
  got   : List Byte
  scl   : List Byte
  deriving DecidableEq, Repr

/-- What an issued word of a lane does at a later tick (R209, R216). -/
inductive LaneAct where
  /-- The next execution of a repeated word. -/
  | exec (run : LRun)
  /-- Unit `h` of a WRROW arrives in the write buffer with the bytes read a tick before; the next one is read. -/
  | unit (bank row src h : Nat) (data : List Byte) (word : LWord) (pos : Nat)
  /-- Bytes reach lane scratch. -/
  | scratch (off : Nat) (data : List Byte)
  deriving DecidableEq, Repr

/-- A bank write buffer entry (R333): bank index and row, age, whether the lane's WRROW made it, and its bytes. -/
structure WBuf where
  bank : Nat
  row  : Nat
  lane : Bool
  data : List Host.Cell
  deriving DecidableEq, Repr

/-- A bank-fill store that waits for an entry (R332, R333). -/
structure FillWait where
  bank : Nat
  row  : Nat
  byte : Nat
  data : List Byte
  uid  : Option Nat
  /-- The record whose write it is, by its serial number (R324). -/
  seq  : Option Nat
  deriving DecidableEq, Repr

/-- What an RALIGN leaves with a lane (R198): a request from a tick for the lanes of a mask, or the start tick once it
is known. -/
inductive Align where
  | pending (base mask : Nat)
  | start (t : Nat)
  deriving DecidableEq, Repr

/-- A lane (R30, R203 to R214). -/
structure Lane where
  job    : Option Nat
  /-- The job that last held it (R331). -/
  lastJob : Option Nat
  fmt    : Nat
  kc     : Nat
  xb     : Nat
  scs    : Option ScaleSrc
  scp    : Nat
  lim    : Nat
  kpos   : Nat
  ports  : SMap Port
  acc    : SMap F32
  e      : SMap Eddy
  words  : List LWord
  issued : List Issued
  popped : Nat
  running : Bool
  pos    : Nat
  /-- The earliest tick that R204 gives the next word, before its idle ticks; between streams, the tick at which the
  lane became free. -/
  after  : Nat
  /-- Added to every nominal tick after the first word (R453). -/
  gap    : Nat
  align  : Option Align
  strict : Bool
  fault  : Option Nat
  discarding : Bool
  flags  : Nat
  deps   : List Dep
  arrayFree : Nat
  /-- No word that would issue at `stallAt` or later issues before this tick: a forced refresh or another external hold
  (R205, R220). -/
  stall  : Nat
  stallAt : Nat
  /-- While ticks are skipped, the REFCLK until which a forced refresh holds the lane from `stallAt` on; 0 for none
  (R340). -/
  refHold : Nat
  /-- What issued words do at later ticks (R216). -/
  later  : List (Nat × LaneAct)
  banks  : SMap BankT
  /-- Ticks of the ACTs of each layer, newest first, and whether the guard made them (R218). -/
  acts   : SMap (List (Nat × Bool))
  wbufs  : List WBuf
  fills  : List FillWait
  /-- Last arrival of a WRROW of the stream, by layer (R222). -/
  wrLast : SMap Nat
  /-- The tick at which a LFENCE of the stream is complete (R222). -/
  fence  : Nat
  /-- Activation elements of the execution under way (R210). -/
  latch  : List (BitVec 16)
  /-- Tick of the last landing of an entry, by 64 · buffer + slot (R210). -/
  landed : SMap Nat
  sends  : Nat
  /-- The push group: 65,536 · number + lane mask within the quadrant (R325). -/
  group  : Nat
  /-- The group is combined alone (R344). -/
  alone  : Bool
  lctr   : Nat
  uid    : Option Nat
  ckId   : Nat
  ckTick : Nat
  scrubbing : Bool
  /-- External holds counted lately, as intervals of ticks: a held tick counts once (R206, R349). -/
  counted : List (Nat × Nat)
  /-- The first tick in which the way up is free for a fill, and the last fill unit sent with its tick (R332). -/
  upAt   : Nat
  upUnit : Nat × Nat
  /-- The tick of the last write of a sum that let the lane's group open another (R347). -/
  sumFree : Nat
  deriving DecidableEq, Repr

/-- A stack (R337, R338, R349, R416). Disabled UCIe modules are counted per link: hub, next, previous. -/
structure Stack where
  cclk    : Word
  refclk  : Word
  hot     : Bool
  overt   : Bool
  tmax    : Nat
  forced  : Nat
  skew    : Nat
  treeerr : Nat
  exthold : Nat
  rows    : Nat
  buslines : Nat
  hubDown : List Nat
  nextDown : List Nat
  prevDown : List Nat
  /-- The tick since which every sensor has read 82 °C or less (R338). -/
  coolAt   : Option Nat
  deriving DecidableEq, Repr

/-- A VFIFO entry (R187, R210): lanes of the quadrant, buffer, slot, data, acceptance tick and pusher. -/
structure VEntry where
  lanes : BitVec 16
  buf   : Nat
  slot  : Nat
  data  : VWord
  accepted : Nat
  uid   : Option Nat
  deriving DecidableEq, Repr

/-- A quadrant's VFIFO (R187, R210), and the entries it has delivered. -/
structure Quad where
  vfifo    : List VEntry
  lastLand : Nat
  popped   : Nat
  /-- Push groups that have started, and whether each is combined alone (R344). -/
  groups   : List (Nat × Bool)
  deriving DecidableEq, Repr

/-- A contribution to a sum (R236, R344): its lane and group, whether it is a MERGE, its values (m, s and then o for
a MERGE), and the tick at which it is complete. -/
structure Contrib where
  lane  : Nat
  group : Nat
  merge : Bool
  vals  : List F32
  done  : Nat
  deriving DecidableEq, Repr

/-- A stack's part of the k-th sum of a launch, or a group's own sum (R344). -/
structure Sum where
  stack : Nat
  lctr  : Nat
  k     : Nat
  /-- The group that is summed alone; `none` for a joined sum. -/
  alone : Option Nat
  /-- The first of the records that were opened together, one for each stack of the launch. -/
  inst  : Nat
  contribs : List Contrib
  /-- Quadrants that can no longer contribute. -/
  absent : List Nat
  /-- The tick at which the last of them became absent. -/
  absentAt : Nat
  /-- The stack's own combination, once it is final. -/
  result : Option (List F32)
  /-- The ring partial after this stack (R417). -/
  relay  : Option (List F32)
  /-- The result has been written to the receiving lane, or there is none to write. -/
  written : Bool
  deriving DecidableEq, Repr

/-- A power island (R441 to R446). -/
structure Island where
  tgt  : Nat
  /-- The target of the gate under way. -/
  goal : Nat
  /-- A target recorded during a transition (R446). -/
  next : Option Nat
  cur  : Nat
  spill : Bool
  retv : Bool
  hold : Bool
  busy : Bool
  step : Nat
  /-- The tick at which the step ends, where it is timed. -/
  ends : Nat
  /-- The retention latches: configuration, port validity and eddy registers of each lane (R442). -/
  latch : SMap Lane
  /-- The load of an engaged spillway, mA (R455). -/
  load : Nat
  deriving DecidableEq, Repr

/-- The package power block (R451, R452, R454). -/
structure Power where
  pavg   : Nat
  enters : Nat
  forces : Nat
  /-- Tick of entry to state 2, and the tick since which PAVG has been at most P1. -/
  p2At   : Nat
  lowAt  : Option Nat
  inletOk : Bool
  /-- SKIP in force for the present group of eight ticks. -/
  skipNow : Nat
  /-- Cycles idled of every 16 by active matrix engines. -/
  idle   : Nat
  /-- The tick of the last shed of a port (R454). -/
  lastShed : Option Nat
  /-- Tile cores whose matrix engine ran an MTILE in the last µs. -/
  active : List Nat
  /-- Islands whose spillway loads are engaged, and the tick by which they are released. -/
  release : Option Nat
  deriving DecidableEq, Repr

/-- A fabric port (R420, R425). -/
structure FPort where
  lanes   : BitVec 2
  retrain : Bool
  /-- The width at which it retrains. -/
  goal    : BitVec 2
  sheds   : Nat
  tagerr  : Nat
  skew    : Nat
  retx    : Nat
  downAt  : Option Nat
  deriving DecidableEq, Repr

/-- A path's trust state (R413, R429). -/
inductive PathState where
  | none | pending | attested | refused
  deriving DecidableEq, Repr

/-- A chunk in the group reduction area of the endpoint method (R433): whose contributions it holds, how many bytes it has, and
whether it is the chunk's result. -/
structure AreaChunk where
  round   : Nat
  chunk   : Nat
  senders : List Nat
  len     : Nat
  final   : Bool
  deriving DecidableEq, Repr

/-- A reduction group (R413, R429 to R434). -/
structure RGroup where
  mode   : Nat
  path   : PathState
  epoch  : Nat
  hold   : Bool
  swrec  : Nat
  eprec  : Nat
  /-- Switches of the path accepted so far, and those whose key delivery was answered 0. -/
  accepted : List Nat
  keyed  : List Nat
  /-- Consecutive tag failures. -/
  tagFails : Nat
  /-- Members that have answered a HOLD. -/
  answered : List Nat
  round  : Nat
  area   : List AreaChunk
  /-- The physical address of the reduction area, which the firmware allocates at set-up (R433). -/
  base   : Nat
  /-- The paths of the other members as NOTE frames have told of them, by the codes of LPATH (R413, R429). -/
  peers  : SMap Nat
  deriving DecidableEq, Repr

/-- A frame kept by its sender, the tick at which it was last sent (R424), and the record, by its serial number, that waits
for its acknowledgement (R246). -/
structure Kept where
  frame : Frame
  sent  : Nat
  owner : Option Nat
  deriving DecidableEq, Repr

/-- One job's traffic to and from one member or switch (R424). -/
structure Stream where
  seq    : Nat
  kept   : List Kept
  /-- Numbered frames that have not left yet (R424, R425). -/
  queue  : List Kept
  acked  : Nat
  window : List Nat
  /-- ACKED has changed and no frame has carried it yet; since which tick. -/
  ackDue : Option Nat
  /-- The tick since which unacknowledged frames are held without an advance. -/
  unackedSince : Option Nat
  /-- The reply cache: number and old value (R320). -/
  replies : List (Nat × Nat)
  /-- ACKED of the source's frames, below which cached replies are freed. -/
  freed  : Nat
  /-- NOTE frames received that wait for lower numbers, in the order of their numbers (R434). -/
  notes  : List Frame
  /-- The port by which its frames left last (R437). -/
  port   : Option Nat
  deriving DecidableEq, Repr

/-- A remote atomic that has not been answered (R320): its unit, whether the unit waits for the old value, its stream
and number, the reply once it has arrived, and the tick of a BUSY reply. -/
structure Remote where
  uid    : Nat
  awaits : Bool
  stream : Nat
  seq    : Nat
  reply  : Option Nat
  busyAt : Option Nat
  deriving DecidableEq, Repr

/-- A RAFTX in progress: its record, group, round (0 before it starts), and the chunks whose results have been
received (R434). -/
structure Raft where
  seq    : Nat
  core   : Nat
  group  : Nat
  round  : Nat
  op     : Nat
  src    : Word
  dst    : Word
  bar    : Word
  nchunk : Nat
  got    : List Nat
  endpoint : Bool
  usedEp : Bool
  /-- Chunks that are still to be read and sent (R433). -/
  todo   : List Nat
  deriving DecidableEq, Repr

/-- An SPDM exchange or session with a switch (R427 to R429): the message whose answer it waits for, and the measurement
record so far. -/
structure Exchange where
  group : Nat
  sw    : Nat
  session : Bool
  step  : Nat
  record : List Byte
  /-- Tick of the last message sent, and its request id. -/
  sent  : Nat
  rid   : Nat
  deriving DecidableEq, Repr

/-- A fabric management frame sent to a switch (R426): the port it leaves by, the switch's MAC address, MK (`kind`), PORT, RID, and the
message by its SPDM request code and its payload. -/
structure Mgmt where
  port  : Nat
  mac   : Nat
  kind  : Nat
  swPort : Nat
  rid   : Nat
  code  : Nat
  body  : List Byte
  deriving DecidableEq, Repr

/-- Boot and firmware (R460). -/
structure Boot where
  code  : Nat
  image : List Host.Cell
  len   : Nat
  deriving DecidableEq, Repr

/-- The machine. -/
structure State where
  agenda  : List Turn
  slot    : Nat
  lane    : Nat
  queue   : Nat
  nextUid : Nat
  seq     : Nat
  tick    : Nat
  time    : Word
  timeFrac : Nat
  lseed   : Word
  lfloor  : BitVec 8
  pwrs    : BitVec 2
  hmask   : SMap Word
  dombase : SMap Word
  domlim  : SMap Word
  regs    : SMap Word
  ctxs    : SMap Ctx
  cores   : SMap Core
  units   : SMap Unit
  launches : SMap Launch
  counters : SMap Counter
  jobs    : SMap JobSt
  subs    : SMap SubQ
  subWin  : List Host.Cell
  next    : SMap (Nat × NextRec)
  /-- NEXT records written while a save was under way, with their OP: they take effect after it (R295). -/
  nextLater : SMap (Nat × NextRec)
  /-- What the loader has been given with the programs: it is put here from outside the machine (R272). -/
  sections : List Section
  graphs  : SMap Graph
  phases  : SMap Phase
  svc     : Svc
  mem     : List Host.Cell
  memKey  : SMap Nat
  spad    : List Host.Cell
  scratch : List Host.Cell
  /-- Lane scratch bytes stored to by other parties than the lane in the present tick, with their values before (R209). -/
  scratchWas : List (Nat × Byte)
  bufs    : List Host.Cell
  bank    : List Host.Cell
  fwMem   : List Host.Cell
  spillMem : List Host.Cell
  /-- The key index that each spilled frame lies under (R356, R393). -/
  spillKey : SMap Nat
  tags    : SMap (BitVec 24)
  tagLast : SMap Nat
  lines   : List Line
  poison  : List Nat
  runs    : SMap Run
  /-- Pages of extents that hold 256 runs, by their keys, the most recently used first (R402). -/
  runUse  : List Nat
  /-- Checked pages as their entries were last read, by job and page: the shadow and, where the page is present, its physical
  address (R318, R401). -/
  checked : SMap (Nat × Option Nat)
  /-- Barrier records in which FAILED is still to be set: the home of each cannot be reached yet (R178). -/
  failing : List FailDue
  xl      : Xlate
  engqs   : SMap EngQ
  cslots  : SMap CSlot
  irqs    : List (Nat × Nat)
  lanes   : SMap Lane
  stackTab  : SMap Stack
  quads   : SMap Quad
  sums    : SMap Sum
  nextSum : Nat
  nextGroup : Nat
  islands : SMap Island
  power   : Power
  ports   : SMap FPort
  rgs     : SMap RGroup
  streams : SMap Stream
  remotes : List Remote
  rafts   : List Raft
  out     : List Frame
  /-- Frames without a number of their own that wait for a port, with their streams (R425). -/
  txq     : List (Nat × Frame)
  exchanges : List Exchange
  /-- Management frames sent to switches, and how many (R426). -/
  mgmt    : List Mgmt
  rid     : Nat
  /-- The host's session with the device, whether the algorithm sets are agreed, and what the device answered last (R426). -/
  hostSession : Bool
  hostAgreed : Bool
  hostAnswer : List Byte
  /-- Session keys by slot; how often the key of a second-tier key slot has been written, and the keys so far by the numbers
  that `slotKey` gives them (R393, R423). -/
  skeys   : SMap (List Byte)
  keyGen  : SMap Nat
  mkeys   : SMap (List Byte)
  boot    : Boot
  ready   : Word
  growth  : SMap Nat
  flash   : SMap Nat
  fnErr   : SMap Nat
  frozenAt : List Held
  /-- Host requests held at the PCIe port, with their functions (R385). -/
  heldReq : List (Nat × SliceReq)
  /-- Frames held at fabric ports, in the order in which they arrived (R385). -/
  heldFrames : List Frame
  /-- Status updates held by a freeze: the counter, the launch as it stood, its flags, fault and record (R250, R385). -/
  heldStats : List (Nat × Launch × StatUpd)
  /-- Jobs to be cancelled for an uncorrectable error that the device met in their own data (R18). -/
  condemned : List Nat
  /-- Commits that wait for held writes of their function: function, queue and packet (R324). -/
  heldCommit : List (Nat × Nat × Nat)
  fz      : Bool
  fzReplay : Nat
  fzOrphan : Nat
  fzMoved : Nat
  fzIgn   : Nat
  /-- Context ticks that units of class L queues held, by class and µs modulo 1,024 (R298). -/
  lheld   : SMap Nat
  deriving DecidableEq, Repr

/-- A context as it stands before any unit is bound to it (log 2). -/
def Ctx.init : Ctx :=
  { g := [], v := [], m := [], e := [], epi := [], pc := 0, fpst := 0, level := .unit, loops := [], sloops := [],
    xtab := [], side := [], watch := [], guard := 0, epoch := 0, tframe := 0, preq := false, pdl := 0, pdlLeft := 0,
    uid := none, held := false, frz := false, frzAt := 0, fetched := none, entered := 0, pushing := [], pushGroup := 0, replay := [], spadUsed := false, prio := 0, st := .idle, berr := false,
    forced := false, popBase := [], marker := false }

/-- A core at reset (R32, R356, R359). -/
def Core.init : Core :=
  { cyc := 0, owner := none, frozen := false, spill := [], outgoing := none, written := [], tiles := [], fmtq := [],
    fmtPopped := 0 }

/-- An engine queue at reset. -/
def EngQ.init : EngQ := { recs := [], run := [], popped := 0, fault := [], markers := [], lastPop := none, frz := false }

/-- A counter at reset (R285): every field zero, so FREE and IDLE. -/
def Counter.init : Counter := { job := 0, kind := 0, state := 0, parent := 0, ien := false, target := 0, value := 0 }

/-- A job that is not active. -/
def JobSt.init : JobSt := { active := false, cancelling := false, clearing := false, seals := [] }

/-- A submission queue at reset (R284). -/
def SubQ.init : SubQ := { refused := 0, lasterr := 0, overdue := 0 }

/-- A node-table entry that is not declared (R266). -/
def Node.init : Node :=
  { declared := false, count := 0, credit := 0, target := 0, blk := 0, fired := false, lctr := none, status := 0,
    succ := [], ready := 0, slot := 0 }

/-- A lane at reset; its column is to be scrubbed (R214, R239, R331). -/
def Lane.init : Lane :=
  { job := none, lastJob := none, fmt := 0, kc := 0, xb := 0, scs := none, scp := 0, lim := 0xFFFFFF, kpos := 0,
    ports := [], acc := [], e := [], words := [], issued := [], popped := 0, running := false, pos := 0,
    after := 0, gap := 0, align := none, strict := false, fault := none, discarding := false,
    flags := 0, deps := [], arrayFree := 0, stall := 0, stallAt := 0, refHold := 0, later := [], banks := [], acts := [], wbufs := [], fills := [],
    wrLast := [], fence := 0, latch := [], landed := [], sends := 0, group := 0,
    alone := false, lctr := 0, uid := none, ckId := 0, ckTick := 0, scrubbing := true,
    counted := [], upAt := 0, upUnit := (0, 0), sumFree := 0 }

/-- An empty port (R217). -/
def Port.init : Port := { banks := [], pos := 0, valid := true }

/-- A bank at stack reset: closed, its deadline REFCLK 0 (R331). -/
def BankT.init : BankT :=
  { row := none, actAt := 0, ready := 0, closeAt := 0, usedTo := 0, lastRef := 0, deadline := 0, due := false,
    fillAt := 0, extReady := 0, extClose := 0, dueAt := 0, extRef := 0 }

/-- A stack at reset (R349). -/
def Stack.init : Stack :=
  { cclk := 0, refclk := 0, hot := false, overt := false, tmax := 0, forced := 0,
    skew := 0, treeerr := 0, exthold := 0, rows := 0, buslines := 0, hubDown := [], nextDown := [], prevDown := [],
    coolAt := none }

/-- An empty VFIFO. -/
def Quad.init : Quad := { vfifo := [], lastLand := 0, popped := 0, groups := [] }

/-- An island at reset: on (R441). -/
def Island.init : Island :=
  { tgt := 0, goal := 0, next := none, cur := 0, spill := false, retv := false, hold := false, busy := false,
    step := 0, ends := 0, latch := [], load := 0 }

/-- A fabric port at reset: link down (R420). -/
def FPort.init : FPort :=
  { lanes := 3, retrain := false, goal := 0, sheds := 0, tagerr := 0, skew := 0, retx := 0, downAt := none }

/-- A reduction group before set-up (R413). -/
def RGroup.init : RGroup :=
  { mode := 0, path := .none, epoch := 0, hold := false, swrec := 0, eprec := 0,
    accepted := [], keyed := [], tagFails := 0, answered := [], round := 0, area := [], base := 0, peers := [] }

/-- A stream of which no frame has been sent (R424). -/
def Stream.init : Stream :=
  { seq := 0, kept := [], queue := [], acked := 0, window := [], ackDue := none, unackedSince := none,
    replies := [], freed := 0, notes := [], port := none }

/-- The machine right after reset: every field at the value the spec states, and at the value the log names where
the spec states none (logs 1, 2, 3, 5). -/
def State.reset : State :=
  { agenda := [], slot := 0, lane := 0, queue := 0, nextUid := 1, seq := 0, tick := 0, time := 0, timeFrac := 0,
    lseed := 0x6C0789651A3B5F27, lfloor := 16, pwrs := 0,
    hmask := [(0, 0x200), (1, 0x400), (2, 0x800), (3, 0x1000), (4, 0x2000)],
    dombase := [(1, 0xFFFFFFE00000), (2, 0xFFFFFFE00000), (3, 0xFFFFFFE00000)],
    domlim := [(0, 0xFFFFFFFFFFFF), (1, 0x1FFFFF), (2, 0x1FFFFF), (3, 0x1FFFFF)],
    regs := [], ctxs := [], cores := [], units := [], launches := [], counters := [], jobs := [], subs := [],
    subWin := [], next := [], nextLater := [], sections := [], graphs := [], phases := [],
    svc := { held := [], running := false, own := false, done := 0, last := 0 },
    mem := [], memKey := [], spad := [], scratch := [], scratchWas := [], bufs := [], bank := [], fwMem := [], spillMem := [], spillKey := [],
    tags := [], tagLast := [], lines := [], poison := [], runs := [], runUse := [], checked := [], failing := [],
    xl := { cmds := [], done := 0, err := false, wait := [], ring := [], head := 0 },
    engqs := [], cslots := [], irqs := [],
    lanes := [], stackTab := [], quads := [], sums := [], nextSum := 0, nextGroup := 1, islands := [],
    power := { pavg := 0, enters := 0, forces := 0, p2At := 0, lowAt := none, inletOk := true, skipNow := 4, idle := 0,
               lastShed := none, active := [], release := none },
    ports := [], rgs := [], streams := [], remotes := [], rafts := [], out := [], txq := [], exchanges := [], mgmt := [],
    rid := 0, hostSession := false, hostAgreed := false, hostAnswer := [], skeys := [], keyGen := [], mkeys := [], boot := { code := 0, image := [], len := 0 }, ready := 0, growth := [], flash := [],
    fnErr := [], frozenAt := [], heldReq := [], heldFrames := [], heldStats := [], condemned := [], heldCommit := [], fz := false, fzReplay := 0, fzOrphan := 0, fzMoved := 0, fzIgn := 0, lheld := [] }

end Sys2Proof.Machine
end

