-- ==== Sys2Proof/Machine/Map.lean ====
section
/-! DEFINITION. Keyed storage and byte memory: lists in canonical form, read with a default. -/

namespace Sys2Proof.Machine

/-- The value at a key, or the default of the reader. -/
def SMap.get {α : Type} (m : SMap α) (d : α) (k : Nat) : α :=
  match m with
  | [] => d
  | (k', v) :: r => if k' = k then v else SMap.get r d k

/-- The map without a key. -/
def SMap.erase {α : Type} (m : SMap α) (k : Nat) : SMap α := m.filter (fun p => p.1 ≠ k)

/-- An entry put in its place by key. -/
def SMap.insert {α : Type} (m : SMap α) (k : Nat) (v : α) : SMap α :=
  match m with
  | [] => [(k, v)]
  | (k', v') :: r => if k < k' then (k, v) :: (k', v') :: r else (k', v') :: SMap.insert r k v

/-- The map with a key set; the default is not listed, so that equal contents are equal lists. -/
def SMap.set {α : Type} [DecidableEq α] (m : SMap α) (d : α) (k : Nat) (v : α) : SMap α :=
  if v = d then SMap.erase m k else SMap.insert (SMap.erase m k) k v

/-- The value at a key, if it is listed. -/
def SMap.find {α : Type} (m : SMap α) (k : Nat) : Option α :=
  match m with
  | [] => none
  | (k', v) :: r => if k' = k then some v else SMap.find r k

/-- The map with a key listed, whatever its value. -/
def SMap.put {α : Type} (m : SMap α) (k : Nat) (v : α) : SMap α := SMap.insert (SMap.erase m k) k v

/-- Keys strictly rising. -/
def SMap.sorted {α : Type} (m : SMap α) : Bool :=
  match m with
  | [] => true
  | (k, _) :: r => r.all (fun p => k < p.1) && SMap.sorted r

/-- The canonical form over a default: keys strictly rising, the default not listed. -/
def SMap.wf {α : Type} [DecidableEq α] (m : SMap α) (d : α) : Bool :=
  SMap.sorted m && m.all (fun p => p.2 ≠ d)

/-- Bytes by address: a list of cells with addresses strictly rising. -/
abbrev Memory := List Host.Cell

/-- The byte at an address, `none` where nothing has been written. -/
def Memory.read? (m : Memory) (a : Nat) : Option Byte := SMap.find m a

/-- The byte at an address of storage whose unlisted bytes read 0. -/
def Memory.read (m : Memory) (a : Nat) : Byte := SMap.get m 0 a

/-- Storage whose unlisted bytes read 0, one byte written. -/
def Memory.write (m : Memory) (a : Nat) (b : Byte) : Memory := SMap.set m 0 a b

/-- Storage in which every written byte is listed, one byte written. -/
def Memory.put (m : Memory) (a : Nat) (b : Byte) : Memory := SMap.put m a b

/-- `n` bytes from an address, storage whose unlisted bytes read 0. -/
def Memory.readN (m : Memory) (a n : Nat) : List Byte := (List.range n).map (fun i => Memory.read m (a + i))

/-- Bytes written from an address upward, storage whose unlisted bytes read 0. -/
def Memory.writeN (m : Memory) (a : Nat) : List Byte → Memory
  | [] => m
  | b :: bs => Memory.writeN (Memory.write m a b) (a + 1) bs

/-- A range of storage taken back to 0. -/
def Memory.clear (m : Memory) (a n : Nat) : Memory := m.filter (fun c => c.1 < a || a + n ≤ c.1)

/-- Canonical form where unlisted bytes read 0. -/
def Memory.wf (m : Memory) : Bool := SMap.wf m (0 : Byte)

/-- Canonical form where unlisted bytes have never been written: addresses strictly rising. -/
def Memory.wfWritten (m : Memory) : Bool := SMap.sorted m

/-- An element put before the first that it is not after. -/
def insertBy {α : Type} (le : α → α → Bool) (x : α) : List α → List α
  | [] => [x]
  | y :: ys => if le x y then x :: y :: ys else y :: insertBy le x ys

/-- A list in an order; equal elements keep their places. -/
def sortBy {α : Type} (le : α → α → Bool) (l : List α) : List α := l.foldr (insertBy le) []

/-- A list with one element changed; out of range changes nothing. -/
def listSet {α : Type} (l : List α) (i : Nat) (v : α) : List α := l.set i v

/-- A number modulo 2^64 as a word. -/
abbrev toWord (n : Nat) : Word := BitVec.ofNat 64 n

/-- Bits `h` down to `l` of a number (R9). -/
def bitsOf (n h l : Nat) : Nat := n / 2 ^ l % 2 ^ (h + 1 - l)

/-- Bit `i` of a number. -/
def bitOf (n i : Nat) : Bool := n / 2 ^ i % 2 == 1

/-- The number with bits `h` down to `l` replaced. -/
def setBits (n h l v : Nat) : Nat :=
  n / 2 ^ (h + 1) * 2 ^ (h + 1) + v % 2 ^ (h + 1 - l) * 2 ^ l + n % 2 ^ l

/-- The signed value of the low `w` bits (R9). -/
def sint (w n : Nat) : Int :=
  let m := n % 2 ^ w
  if m < 2 ^ (w - 1) then (m : Int) else (m : Int) - (2 : Int) ^ w

/-- An integer modulo 2^w. -/
def wrap (w : Nat) (i : Int) : Nat := (i % (2 : Int) ^ w).toNat

end Sys2Proof.Machine
end

