-- ==== Sys2Proof/Machine/Flags.lean ====
section
/-! DEFINITION. Floating-point values, the one rounding, and the flags it raises. -/

namespace Sys2Proof.Machine

/-- NV of FPST (R33). -/
def fNV : Nat := 1

/-- DZ of FPST (R33). -/
def fDZ : Nat := 2

/-- OF of FPST (R33). -/
def fOF : Nat := 4

/-- UF of FPST (R33). -/
def fUF : Nat := 8

/-- NX of FPST (R33). -/
def fNX : Nat := 16

/-- SAT of FPST (R33). -/
def fSAT : Nat := 32

/-- EDDYBRK of FPST (R33). -/
def fBRK : Nat := 64

/-- A value of FP32, BF16 or an exact intermediate: m · 2^e with a sign; a zero keeps its sign (R62, R77). -/
inductive Fp where
  | nan
  | inf (neg : Bool)
  | fin (neg : Bool) (m : Nat) (e : Int)
  deriving DecidableEq, Repr

/-- A floating-point format with FP32's exponent range: its precision and its bit width (R62). -/
structure FpFmt where
  prec : Nat
  width : Nat
  deriving DecidableEq, Repr

/-- FP32 (R62). -/
def fmt32 : FpFmt := ⟨24, 32⟩

/-- BF16 (R62). -/
def fmtBf : FpFmt := ⟨8, 16⟩

/-- The canonical NaN of a format (R64). -/
def FpFmt.qnan (f : FpFmt) : Nat := 511 * 2 ^ (f.prec - 2)

/-- The bits of an infinity. -/
def FpFmt.infBits (f : FpFmt) (neg : Bool) : Nat := neg.toNat * 2 ^ (f.width - 1) + 255 * 2 ^ (f.prec - 1)

/-- The value of bits in a format (R62). -/
def FpFmt.value (f : FpFmt) (bits : Nat) : Fp :=
  let neg := bitOf bits (f.width - 1)
  let ex := bits / 2 ^ (f.prec - 1) % 256
  let fr := bits % 2 ^ (f.prec - 1)
  if ex = 255 then (if fr = 0 then .inf neg else .nan)
  else if ex = 0 then .fin neg fr (-126 - (f.prec - 1 : Nat))
  else .fin neg (2 ^ (f.prec - 1) + fr) ((ex : Int) - 127 - (f.prec - 1 : Nat))

/-- `m · 2^-k` rounded to an integer: to nearest with ties to even, or toward zero. `sticky` says that the
exact value lies strictly between m and m + 1 units of 2^-k. The second component says the result is inexact. -/
def roundShift (rz : Bool) (m k : Nat) (sticky : Bool) : Nat × Bool :=
  let n := m / 2 ^ k
  let r := m % 2 ^ k
  let half := 2 ^ k / 2
  let up := !rz && (if k = 0 then false
    else if r > half then true
    else if r = half then sticky || n % 2 == 1
    else false)
  (if up then n + 1 else n, r ≠ 0 || sticky)

/-- A magnitude m · 2^e (plus less than one unit when sticky) rounded to a precision whose last place is
2^q at least: the integer multiple of 2^q', with q' the place used, and whether it is inexact. -/
def roundPlace (rz : Bool) (m : Nat) (e q : Int) (sticky : Bool) : Nat × Bool :=
  if q ≤ e then (m * 2 ^ (e - q).toNat, sticky) else roundShift rz m (q - e).toNat sticky

/-- The one rounding (R63): the exact ±m · 2^e to a format, with the flags of R65. Tininess is detected after
rounding. -/
def roundFp (f : FpFmt) (rz neg : Bool) (m : Nat) (e : Int) (sticky : Bool) : Nat × Nat :=
  let sgn := neg.toNat * 2 ^ (f.width - 1)
  if m = 0 && !sticky then (sgn, 0)
  else
    let top : Int := (Nat.log2 m : Int) + e
    let qmin : Int := -126 - (f.prec - 1 : Nat)
    let qn : Int := top - (f.prec - 1 : Nat)
    let q := max qn qmin
    let r := roundPlace rz m e q sticky
    let mag := r.1 + (q - qmin).toNat * 2 ^ (f.prec - 1)
    let nx := if r.2 then fNX else 0
    if mag ≥ 255 * 2 ^ (f.prec - 1) then
      (sgn + (if rz then 255 * 2 ^ (f.prec - 1) - 1 else 255 * 2 ^ (f.prec - 1)), fOF ||| fNX)
    else
      let u := roundPlace rz m e qn sticky
      let utop : Int := if u.1 ≥ 2 ^ f.prec then top + 1 else top
      (sgn + mag, if utop < -126 && r.2 then fUF ||| fNX else nx)

/-- A value rounded to a format, with its flags. -/
def Fp.round (f : FpFmt) (rz : Bool) : Fp → Nat × Nat
  | .nan => (f.qnan, 0)
  | .inf neg => (f.infBits neg, 0)
  | .fin neg m e => roundFp f rz neg m e false

/-- Sign changed. -/
def Fp.neg : Fp → Fp
  | .nan => .nan
  | .inf s => .inf (!s)
  | .fin s m e => .fin (!s) m e

/-- The exact product; the flag is the invalid 0 × ∞ (R65). -/
def Fp.mul : Fp → Fp → Fp × Bool
  | .nan, _ => (.nan, false)
  | _, .nan => (.nan, false)
  | .inf s, .inf t => (.inf (s != t), false)
  | .inf s, .fin t m _ => if m = 0 then (.nan, true) else (.inf (s != t), false)
  | .fin s m _, .inf t => if m = 0 then (.nan, true) else (.inf (s != t), false)
  | .fin s m e, .fin t n d => (.fin (s != t) (m * n) (e + d), false)

/-- m · 2^e as a multiple of 2^d, for d at most e. -/
def alignTo (neg : Bool) (m : Nat) (e d : Int) : Int :=
  let v : Int := (m * 2 ^ (e - d).toNat : Nat)
  if neg then -v else v

/-- The exact sum; the flag is the invalid ∞ − ∞. An exact zero of opposite signs is +0 (R65). -/
def Fp.add : Fp → Fp → Fp × Bool
  | .nan, _ => (.nan, false)
  | _, .nan => (.nan, false)
  | .inf s, .inf t => if s = t then (.inf s, false) else (.nan, true)
  | .inf s, .fin _ _ _ => (.inf s, false)
  | .fin _ _ _, .inf t => (.inf t, false)
  | .fin s m e, .fin t n d =>
    if m = 0 && n = 0 then (.fin (s && t) 0 e, false)
    else if m = 0 then (.fin t n d, false)
    else if n = 0 then (.fin s m e, false)
    else
      let k := min e d
      let v := alignTo s m e k + alignTo t n d k
      (.fin (v < 0) v.natAbs k, false)

/-- Whether a value is zero. -/
def Fp.isZero : Fp → Bool
  | .fin _ m _ => m == 0
  | _ => false

/-- Whether a value is a NaN. -/
def Fp.isNaN : Fp → Bool
  | .nan => true
  | _ => false

/-- Whether a value is infinite. -/
def Fp.isInf : Fp → Bool
  | .inf _ => true
  | _ => false

/-- The sign of a value. -/
def Fp.sign : Fp → Bool
  | .nan => false
  | .inf s => s
  | .fin s _ _ => s

/-- x < y as numbers; false with a NaN; zeros are equal. -/
def Fp.lt (x y : Fp) : Bool :=
  match x, y with
  | .nan, _ => false
  | _, .nan => false
  | .inf s, .inf t => s && !t
  | .inf s, _ => s
  | _, .inf t => !t
  | .fin s m e, .fin t n d => alignTo s m e (min e d) < alignTo t n d (min e d)

/-- x = y as numbers; false with a NaN; zeros are equal. -/
def Fp.eq (x y : Fp) : Bool := !x.isNaN && !y.isNaN && !Fp.lt x y && !Fp.lt y x

/-- The larger of two values: NaN with a NaN, and +0 above −0 (R65). -/
def Fp.max (x y : Fp) : Fp :=
  if x.isNaN || y.isNaN then .nan
  else if Fp.lt x y then y else if Fp.lt y x then x else if x.sign then y else x

/-- The smaller of two values: NaN with a NaN, and −0 below +0 (R65). -/
def Fp.min (x y : Fp) : Fp :=
  if x.isNaN || y.isNaN then .nan
  else if Fp.lt x y then x else if Fp.lt y x then y else if x.sign then x else y

/-- The value of FP32 bits. -/
def fp32 (x : F32) : Fp := fmt32.value x.toNat

/-- The FP32 bits of a value rounded to nearest (R9). -/
def fl32 (x : Fp) : F32 := BitVec.ofNat 32 (Fp.round fmt32 false x).1

/-- The canonical NaN (R64). -/
def nan32 : F32 := 0x7FC00000

/-- fl32(a + b). -/
def fadd (a b : F32) : F32 := fl32 (Fp.add (fp32 a) (fp32 b)).1

/-- fl32(a − b). -/
def fsub (a b : F32) : F32 := fl32 (Fp.add (fp32 a) (fp32 b).neg).1

/-- fl32(a × b). -/
def fmul (a b : F32) : F32 := fl32 (Fp.mul (fp32 a) (fp32 b)).1

/-- A sum rounded to a format, with its flags. -/
def addF (f : FpFmt) (a b : Fp) : Nat × Nat :=
  let s := Fp.add a b
  let r := Fp.round f false s.1
  (r.1, if s.2 then fNV else r.2)

/-- A product rounded to a format, with its flags. -/
def mulF (f : FpFmt) (a b : Fp) : Nat × Nat :=
  let s := Fp.mul a b
  let r := Fp.round f false s.1
  (r.1, if s.2 then fNV else r.2)

/-- The fused a × b + c, rounded once, with its flags (R65). A NaN operand raises none (log 10). -/
def fmaF (f : FpFmt) (a b c : Fp) : Nat × Nat :=
  let p := Fp.mul a b
  let s := Fp.add p.1 c
  let r := Fp.round f false s.1
  (r.1, if (p.2 && !c.isNaN) || s.2 then fNV else r.2)

/-- One Newton step after another toward the integer square root, from above. -/
def isqrtFrom : Nat → Nat → Nat → Nat
  | 0, _, x => x
  | k + 1, n, x =>
    let y := (x + n / x) / 2
    if y < x then isqrtFrom k n y else x

/-- The integer square root. -/
def isqrt (n : Nat) : Nat := if n = 0 then 0 else isqrtFrom (Nat.log2 n + 4) n (2 ^ (Nat.log2 n / 2 + 1))

/-- 1 / x (R140, R65). -/
def rcpF (f : FpFmt) (x : Fp) : Nat × Nat :=
  match x with
  | .nan => (f.qnan, 0)
  | .inf s => (s.toNat * 2 ^ (f.width - 1), 0)
  | .fin s m e =>
    if m = 0 then (f.infBits s, fDZ)
    else
      let k := 64 + Nat.log2 m
      roundFp f false s (2 ^ k / m) (-(k : Int) - e) (2 ^ k % m ≠ 0)

/-- 1 / √x (R140, R65). -/
def rsqF (f : FpFmt) (x : Fp) : Nat × Nat :=
  match x with
  | .nan => (f.qnan, 0)
  | .inf s => if s then (f.qnan, fNV) else (0, 0)
  | .fin s m e =>
    if m = 0 then (f.infBits s, fDZ)
    else if s then (f.qnan, fNV)
    else
      let m' := if e % 2 = 0 then m else 2 * m
      let e' := if e % 2 = 0 then e else e - 1
      let k := 64 + Nat.log2 m'
      let n := isqrt (2 ^ (2 * k) / m')
      roundFp f false false n (-(k : Int) - e' / 2) (n * n * m' ≠ 2 ^ (2 * k))

/-- Bits of precision of the intermediate values of the transcendental operations (log 11). -/
def workBits : Nat := 256

/-- The product of the roots 2^(2^-1), 2^(2^-2), … over the set bits of a fraction, the highest first, in
units of 2^-workBits, each step truncated. `c` is the root reached. -/
def exp2Frac : Nat → Nat → Nat → Nat → Nat
  | 0, _, _, acc => acc
  | k + 1, a, c, acc =>
    let c' := isqrt (c * 2 ^ workBits)
    exp2Frac k a c' (if bitOf a k then acc * c' / 2 ^ workBits else acc)

/-- 2^x, correctly rounded (R140, R65; log 11). Below 2^-26 in magnitude it rounds to 1. -/
def exp2F (f : FpFmt) (x : Fp) : Nat × Nat :=
  match x with
  | .nan => (f.qnan, 0)
  | .inf s => if s then (0, 0) else (f.infBits false, 0)
  | .fin s m e =>
    if m = 0 then roundFp f false false 1 0 false
    else
      let top : Int := (Nat.log2 m : Int) + e
      if top ≥ 8 then
        if s then (0, fUF ||| fNX) else (f.infBits false, fOF ||| fNX)
      else if top < -26 then (127 * 2 ^ (f.prec - 1), fNX)
      else
        let j := (-e).toNat
        let v := alignTo s m e (min e 0)
        let n := v / (2 : Int) ^ j
        let a := (v % (2 : Int) ^ j).toNat
        if a = 0 then roundFp f false false 1 n false
        else roundFp f false false (exp2Frac j a (2 * 2 ^ workBits) (2 ^ workBits)) (n - (workBits : Int)) true

/-- Binary digits of log2 of r / 2^workBits, for r in [1, 2) of those units, by repeated squaring. -/
def log2Frac : Nat → Nat → Nat → Nat
  | 0, _, acc => acc
  | k + 1, r, acc =>
    let r2 := r * r / 2 ^ workBits
    if r2 ≥ 2 * 2 ^ workBits then log2Frac k (r2 / 2) (2 * acc + 1) else log2Frac k r2 (2 * acc)

/-- log2 x, correctly rounded (R140, R65; log 11). -/
def log2F (f : FpFmt) (x : Fp) : Nat × Nat :=
  match x with
  | .nan => (f.qnan, 0)
  | .inf s => if s then (f.qnan, fNV) else (f.infBits false, 0)
  | .fin s m e =>
    if m = 0 then (f.infBits true, fDZ)
    else if s then (f.qnan, fNV)
    else
      let l := Nat.log2 m
      let k : Int := (l : Int) + e
      if m = 2 ^ l then roundFp f false (k < 0) k.natAbs 0 false
      else
        let t : Int := k * 2 ^ 100 + (log2Frac 100 (m * 2 ^ workBits / 2 ^ l) 0 : Nat)
        if t < 0 then roundFp f false true (t.natAbs - 1) (-100) true
        else roundFp f false false t.natAbs (-100) true

/-- VEXP2 on FP32 bits, without flags (R67, R82, R229). -/
def exp2f (x : F32) : F32 := BitVec.ofNat 32 (exp2F fmt32 (fp32 x)).1

/-- max of FP32 bits (R82, R229). -/
def fmax (x y : F32) : F32 := fl32 (Fp.max (fp32 x) (fp32 y))

/-- Whether FP32 bits are a NaN. -/
def isNaN32 (x : F32) : Bool := (fp32 x).isNaN

/-- The FP32 bits of −∞. -/
def ninf32 : F32 := 0xFF800000

end Sys2Proof.Machine
end

