-- ==== Sys2Proof/Machine/Quant.lean ====
section
/-! DEFINITION. Element formats, block scales, the dot-product window, the order of sums, and the noise-shaping
quantiser. -/

namespace Sys2Proof.Machine

/-- m · 2^e as a value. -/
def dyadic (neg : Bool) (m : Nat) (e : Int) : Fp := .fin neg m e

/-- The value of an MXI8 element (R71). -/
def mxi8Value (c : Nat) : Fp := let i := sint 8 c; .fin (i < 0) i.natAbs (-6)

/-- Magnitude of an MXF4 code 0 to 7, in halves (R71). Code 8 stands for the point past the largest. -/
def mxf4Mag (c : Nat) : Nat :=
  match c with
  | 0 => 0 | 1 => 1 | 2 => 2 | 3 => 3 | 4 => 4 | 5 => 6 | 6 => 8 | 7 => 12 | _ => 16

/-- The value of an MXF4 element (R71). -/
def mxf4Value (c : Nat) : Fp := .fin (bitOf c 3) (mxf4Mag (c % 8)) (-1)

/-- Magnitude of an MXF8 code 0 to 0x7F, in units of 2^-9 (R71); 0x7F stands for the point past the largest. -/
def mxf8Mag (c : Nat) : Nat := if c / 8 = 0 then c % 8 else (8 + c % 8) * 2 ^ (c / 8 - 1)

/-- The value of an MXF8 element (R71). -/
def mxf8Value (c : Nat) : Fp := if c % 128 = 127 then .nan else .fin (bitOf c 7) (mxf8Mag (c % 128)) (-9)

/-- BF16 bits of the CB4 level of code 8 + i (R73). -/
def cb4Bits (i : Nat) : Nat :=
  match i with
  | 0 => 0x3D2C | 1 => 0x3E02 | 2 => 0x3E5D | 3 => 0x3E9F | 4 => 0x3ED5 | 5 => 0x3F0B | 6 => 0x3F35 | _ => 0x3F80

/-- The level of a CB4 code (R73): code c below 8 is the negative of code 15 − c. -/
def cb4Value (c : Nat) : Fp :=
  if c < 8 then (fmtBf.value (cb4Bits (7 - c))).neg else fmtBf.value (cb4Bits (c - 8))

/-- The value of BF16 bits. -/
def bfValue (b : Nat) : Fp := fmtBf.value b

/-- The scale of an E8M0 code (R70). -/
def e8m0 (x : Nat) : Fp := if x = 255 then .nan else .fin false 1 ((x : Int) - 127)

/-- The CB4 block scale fl32(G × (s + 1) / 256) (R74). -/
def cb4Scale (g : F32) (s : Nat) : Fp := fp32 (fl32 (Fp.mul (fp32 g) (.fin false (s + 1) (-8))).1)

/-- Element formats of weights by their code (R57). -/
inductive WFmt where
  | mxi8 | mxf8 | mxf4 | cb4 | bf16
  deriving DecidableEq, Repr

/-- The format of a code, `none` where it is unassigned (R57). -/
def WFmt.ofCode (c : Nat) : Option WFmt :=
  match c with
  | 1 => some .mxi8
  | 2 => some .mxf8
  | 3 => some .mxf4
  | 4 => some .cb4
  | 5 => some .bf16
  | _ => none

/-- Bits of one element (R71 to R73). -/
def WFmt.bits : WFmt → Nat
  | .mxi8 => 8
  | .mxf8 => 8
  | .mxf4 => 4
  | .cb4 => 4
  | .bf16 => 16

/-- The value of one element code. -/
def WFmt.value : WFmt → Nat → Fp
  | .mxi8 => mxi8Value
  | .mxf8 => mxf8Value
  | .mxf4 => mxf4Value
  | .cb4 => cb4Value
  | .bf16 => bfValue

/-- Element `k` of an operand packed by R72 in bytes read by `rd`. -/
def WFmt.elem (f : WFmt) (rd : Nat → Byte) (k : Nat) : Fp :=
  match f with
  | .mxf4 => f.value ((rd (k / 2)).toNat / 16 ^ (k % 2) % 16)
  | .cb4 => f.value ((rd (k / 2)).toNat / 16 ^ (k % 2) % 16)
  | .bf16 => f.value ((rd (2 * k)).toNat + 256 * (rd (2 * k + 1)).toNat)
  | _ => f.value (rd k).toNat

/-- A zero block result: +0, or NaN where a scale is infinite (R78). -/
def zeroResult (sA sB : Fp) : F32 := if sA.isInf || sB.isInf then nan32 else 0

/-- The exact product of three values. -/
def mul3 (a b c : Fp) : Fp := (Fp.mul (Fp.mul a b).1 c).1

/-- floor(log2 |p|) of a nonzero finite value. -/
def expOf : Fp → Int
  | .fin _ m e => (Nat.log2 m : Int) + e
  | _ => 0

/-- The window term sign(p) × floor(|p| × 2^(33 − E)) (R78). -/
def windowTerm (top : Int) : Fp → Int
  | .fin s m e =>
    let sh := e + 33 - top
    let v : Nat := if 0 ≤ sh then m * 2 ^ sh.toNat else m / 2 ^ (-sh).toNat
    if s then -(v : Int) else v
  | _ => 0

/-- The result of one block of products of pairs (a, b) under two scales (R78). -/
def blockResult (ps : List (Fp × Fp)) (sA sB : Fp) : F32 :=
  if sA.isNaN || sB.isNaN || ps.any (fun p => p.1.isNaN || p.2.isNaN) then nan32
  else
    let pr := ps.map (fun p => (Fp.mul p.1 p.2).1)
    if pr.any Fp.isNaN then nan32
    else if pr.any (fun p => p.isInf && !p.sign) && pr.any (fun p => p.isInf && p.sign) then nan32
    else
      match pr.find? Fp.isInf with
      | some i => fl32 (mul3 i sA sB)
      | none =>
        match (pr.filter (fun p => !p.isZero)).map expOf with
        | [] => zeroResult sA sB
        | x :: xs =>
          let top := xs.foldl max x
          let s := (pr.map (windowTerm top)).foldl (· + ·) 0
          if s = 0 then zeroResult sA sB
          else fl32 (mul3 (.fin (s < 0) s.natAbs (top - 33)) sA sB)

/-- Consecutive groups of `n`, the last one partial. -/
def groups {α : Type} (n : Nat) : Nat → List α → List (List α)
  | 0, _ => []
  | k + 1, l => if l.isEmpty then [] else l.take n :: groups n k (l.drop n)

/-- The dot product of pairs along K into an accumulator: block results of 16 in ascending K, each added by fl32
(R79). `scale b` gives both scales of block b of 16. -/
def dot (acc : F32) (ps : List (Fp × Fp)) (scale : Nat → Fp × Fp) : F32 :=
  ((groups 16 ps.length ps).zipIdx).foldl
    (fun a g => fadd a (blockResult g.1 (scale g.2).1 (scale g.2).2)) acc

/-- A tree node: absent inputs pass the other on (R81). -/
def node2 {α : Type} (f : α → α → α) : Option α → Option α → Option α
  | none, y => y
  | x, none => x
  | some x, some y => some (f x y)

/-- One level of a balanced pairwise tree. -/
def pairUp {α : Type} (f : α → α → α) : List (Option α) → List (Option α)
  | x :: y :: r => node2 f x y :: pairUp f r
  | l => l

/-- The quadrant tree over sixteen positions (R80, step 1). -/
def quadTree {α : Type} (f : α → α → α) (l : List (Option α)) : Option α :=
  (pairUp f (pairUp f (pairUp f (pairUp f l)))).head?.join

/-- The stack tree over 64 lane positions (R80, steps 1 and 2). -/
def stackTree {α : Type} (f : α → α → α) (l : List (Option α)) : Option α :=
  (pairUp f (pairUp f [quadTree f (l.take 16), quadTree f ((l.drop 16).take 16), quadTree f ((l.drop 32).take 16),
    quadTree f ((l.drop 48).take 16)])).head?.join

/-- Element-wise sums (R80). -/
def sumVals (x y : List F32) : List F32 := List.zipWith fadd x y

/-- MERGE of two triples held as m, s and then o (R82). -/
def mergeVals : List F32 → List F32 → List F32
  | mx :: sx :: ox, my :: sy :: oy =>
    let m := fmax mx my
    if isNaN32 m then nan32 :: nan32 :: ox.map (fun _ => nan32)
    else if m = ninf32 then ninf32 :: 0 :: ox.map (fun _ => 0)
    else
      let fx := exp2f (fsub mx m)
      let fy := exp2f (fsub my m)
      m :: fadd (fmul sx fx) (fmul sy fy) ::
        List.zipWith (fun a b => fadd (fmul a fx) (fmul b fy)) ox oy
  | x, _ => x

/-- Targets of the quantising store (R85). `fp32` is EPI's unquantised target (R263); `ri32` carries hr. -/
inductive QTgt where
  | i8 | n8 | i16 | bf | mxi8 | mxf4 | mxf8
  | ri32 (hr : Nat)
  deriving DecidableEq, Repr

/-- The target of a VQST fn, TGT or EPI TGT code 0 to 6 (R153). -/
def QTgt.ofCode (c : Nat) : Option QTgt :=
  match c with
  | 0 => some .i8
  | 1 => some .n8
  | 2 => some .i16
  | 3 => some .bf
  | 4 => some .mxi8
  | 5 => some .mxf4
  | 6 => some .mxf8
  | _ => none

/-- Whether a target is a microscaled type. -/
def QTgt.isMx : QTgt → Bool
  | .mxi8 => true
  | .mxf4 => true
  | .mxf8 => true
  | _ => false

/-- Bits of a code in memory (R71, R85). -/
def QTgt.bits : QTgt → Nat
  | .i8 => 8
  | .n8 => 8
  | .i16 => 16
  | .bf => 16
  | .mxi8 => 8
  | .mxf4 => 4
  | .mxf8 => 8
  | .ri32 _ => 32

/-- n / d rounded to the nearest integer, ties to even. -/
def divRne (n d : Nat) : Nat :=
  let q := n / d
  let r := n % d
  if 2 * r > d then q + 1 else if 2 * r = d then q + q % 2 else q

/-- The rational magnitude of v / scale in units of 2^-u, as numerator and denominator. -/
def quotient (m : Nat) (e : Int) (ms : Nat) (es : Int) (u : Int) : Nat × Nat :=
  let k := e - es + u
  (m * 2 ^ k.toNat, ms * 2 ^ (-k).toNat)

/-- Nearest code of a rising grid of magnitudes to n / d, among codes 0 to `top` and the point past `top`; a tie
goes to the even code (R84). DESIGN CHOICE (log 101): the spec gives no point past the end of a grid, so it does not say
whether a quotient half a step past the largest magnitude is beyond the grid. The model rounds to the point that the next
code would be: 7 in MXF4 goes there and saturates, 464 in MXF8 ties back to the largest code and does not. -/
def gridRne (mag : Nat → Nat) (n d : Nat) : Nat → Nat
  | 0 => 0
  | c + 1 =>
    let lo := mag c * d
    let hi := mag (c + 1) * d
    if hi ≤ n then c + 1
    else if lo ≤ n then
      (if 2 * n > lo + hi then c + 1 else if 2 * n = lo + hi then (if c % 2 = 0 then c else c + 1) else c)
    else gridRne mag n d c

/-- A grid point: its sign, its magnitude code, whether it was saturated. -/
structure QPoint where
  neg : Bool
  mag : Nat
  sat : Bool
  deriving DecidableEq, Repr

/-- The ends of an integer grid: magnitudes of the most negative and of the largest point (R85). -/
def QTgt.ends : QTgt → Nat × Nat
  | .i8 => (128, 127)
  | .n8 => (0, 255)
  | .i16 => (32768, 32767)
  | .mxi8 => (127, 127)
  | .ri32 hr => (2 ^ (31 - hr) - 1, 2 ^ (31 - hr) - 1)
  | .mxf4 => (7, 7)
  | .mxf8 => (126, 126)
  | .bf => (0x7F7F, 0x7F7F)

/-- A magnitude clipped to the grid. -/
def QTgt.clip (t : QTgt) (neg : Bool) (n : Nat) : QPoint :=
  let hi := if neg then t.ends.1 else t.ends.2
  if n > hi then ⟨neg, hi, true⟩ else ⟨neg, n, false⟩

/-- RNE of v / scale onto the target grid, saturating (R84, R85). -/
def QTgt.rne (t : QTgt) (v scale : Fp) : QPoint :=
  match v, scale with
  | .fin s m e, .fin _ ms es =>
    match t with
    | .bf => t.clip s ((roundFp fmtBf false false m e false).1)
    | .mxf4 => let q := quotient m e ms es 1; t.clip s (gridRne mxf4Mag q.1 q.2 8)
    | .mxf8 => let q := quotient m e ms es 9; t.clip s (gridRne mxf8Mag q.1 q.2 127)
    | .mxi8 => let q := quotient m e ms es 6; t.clip s (divRne q.1 q.2)
    | _ => let q := quotient m e ms es 0; t.clip s (divRne q.1 q.2)
  | v, _ => ⟨v.sign, if v.sign then t.ends.1 else t.ends.2, true⟩

/-- dequant(q) (R85). DESIGN CHOICE (log 102): a q that rounds to zero keeps the sign of v here, so that v = −0 leaves the
residue −0 − (−0) = +0; R84 writes its code with the positive sign and does not say which zero dequant(q) is. -/
def QTgt.dequant (t : QTgt) (q : QPoint) : Fp :=
  match t with
  | .bf => let x := bfValue q.mag; if q.neg then x.neg else x
  | .mxf4 => .fin q.neg (mxf4Mag q.mag) (-1)
  | .mxf8 => .fin q.neg (mxf8Mag q.mag) (-9)
  | .mxi8 => .fin q.neg q.mag (-6)
  | _ => .fin q.neg q.mag 0

/-- The half step at the ends of the grid (R85). -/
def QTgt.halfStep : QTgt → Fp
  | .bf => .fin false 1 119
  | .mxi8 => .fin false 1 (-7)
  | .mxf4 => .fin false 1 0
  | .mxf8 => .fin false 16 0
  | _ => .fin false 1 (-1)

/-- The code of a grid point as stored; a zero has the positive sign (R84). -/
def QTgt.code (t : QTgt) (q : QPoint) : Nat :=
  let neg := q.neg && q.mag ≠ 0
  match t with
  | .bf => (if neg then 0x8000 else 0) + q.mag
  | .mxf4 => (if neg then 8 else 0) + q.mag
  | .mxf8 => (if neg then 128 else 0) + q.mag
  | _ => if neg then 2 ^ t.bits - q.mag else q.mag

/-- clamp(e, −h, +h) (R84). -/
def clampF (e h : F32) : F32 :=
  if Fp.lt (fp32 h) (fp32 e) then h
  else if Fp.lt (fp32 e) (fp32 h).neg then fl32 (fp32 h).neg else e

/-- Whether the exponent of FP32 bits is below the last one. -/
def finite32 (x : F32) : Bool := bitsOf x.toNat 30 23 ≠ 255

/-- A value with the exponent of an infinity or a NaN lowered by one: always finite. -/
def holdFinite (x : F32) : F32 := if finite32 x then x else x ^^^ 0x00800000

/-- The residue e := fl32(v − d) held finite: where the dequantised value overflows, an infinite residue is clamped to ±h,
and that of ∞ − ∞ is ±h with the sign of v (R84, R86; log 29). Where h overflows too, as under the largest MXF8 block
scales, the spec states no more than that the residue is finite: it is a free value (log 103). -/
def boundRes (sat : Bool) (v e h : F32) : F32 :=
  if !finite32 e && !finite32 h then holdFinite (Config.openResidue v)
  else if !finite32 e && bitsOf e.toNat 22 0 ≠ 0 then (if v.getLsbD 31 then fl32 (fp32 h).neg else h)
  else if sat || !finite32 e then clampF e h else e

/-- The scale of a run: usable, or unusable so that codes are 0 and NV is reported (R75, R85). -/
def scaleOk : Fp → Bool
  | .fin s m e => !s && m ≠ 0 && (Nat.log2 m : Int) + e ≥ -126
  | _ => false

/-- What one element of a run gives: the code, the outgoing residue, the flags SAT and NV (R84 to R86). -/
structure QOut where
  code : Nat
  res  : F32
  flags : Nat
  deriving DecidableEq, Repr

/-- One unmasked element of a run under a given, MX or chunk scale; `none` for a block of scale code 0xFF or a
given scale that R85 refuses. -/
def quantElem (t : QTgt) (scale : Option Fp) (e x : F32) : QOut :=
  match scale with
  | none => ⟨0, e, fNV⟩
  | some sc =>
    match fp32 x with
    | .nan => ⟨if t = .bf then 0x7FC0 else 0, e, fNV⟩
    | xv =>
      if xv.isInf && t = .bf then ⟨fmtBf.infBits xv.sign, e, 0⟩
      else
        let v := fadd x e
        let q := t.rne (fp32 v) sc
        let d := fl32 (Fp.mul (t.dequant q) sc).1
        let e1 := fsub v d
        let h := fl32 (Fp.mul t.halfStep sc).1
        ⟨t.code q, boundRes q.sat v e1 h, if q.sat then fSAT else 0⟩

/-- The codes, residue and flags of a run. Each element is its value and scale, or `none` where it is masked and
takes the constant (R84). -/
def quantRun (t : QTgt) (const : Nat) : F32 → List (Option (F32 × Option Fp)) → List Nat × F32 × Nat
  | e, [] => ([], e, 0)
  | e, none :: r => let o := quantRun t const e r; (const :: o.1, o.2.1, o.2.2)
  | e, some (x, sc) :: r =>
    let q := quantElem t sc e x
    let o := quantRun t const q.res r
    (q.code :: o.1, o.2.1, q.flags ||| o.2.2)

/-- |x| of FP32 bits. -/
def fabs (x : F32) : F32 := x &&& 0x7FFFFFFF

/-- The largest magnitude of some values. -/
def maxAbs (xs : List F32) : F32 := xs.foldl (fun a x => if (fabs a).toNat < (fabs x).toNat then fabs x else a) 0

/-- The E8M0 code chosen for a block from its unmasked values (R75). -/
def blockCode (t : QTgt) (xs : List F32) : Nat :=
  let emax : Int := match t with
    | .mxf4 => 2
    | .mxf8 => 8
    | _ => 0
  if xs.any isNaN32 then 255
  else
    match fp32 (maxAbs xs) with
    | .fin _ m e => if m = 0 then 127 else (min 254 (max 1 ((Nat.log2 m : Int) + e - emax + 127))).toNat
    | _ => 254

/-- The scale that a block code gives a run, `none` for 0xFF (R75). -/
def codeScale (x : Nat) : Option Fp := if x = 255 then none else some (e8m0 x)

/-- A given scale, `none` where R85 refuses it. -/
def givenScale (s : F32) : Option Fp := if scaleOk (fp32 s) then some (fp32 s) else none

/-- A given scale of a run to a target: a usable one, or, for RI32, a grid unit of R94, which may lie below the normal
numbers (R85, R94, R154). -/
def runScale (t : QTgt) (s : F32) : Option Fp :=
  match t, fp32 s with
  | .ri32 hr, .fin false m e =>
    if scaleOk (fp32 s) ∨ (m ≠ 0 ∧ m = 2 ^ Nat.log2 m ∧ (hr : Int) - 156 ≤ (Nat.log2 m : Int) + e) then some (fp32 s) else none
  | _, _ => givenScale s

/-- The chunk scale 2^(X − 157 + hr) of RI32 (R94). -/
def chunkScale (x hr : Nat) : Fp := .fin false 1 ((x : Int) - 157 + hr)

/-- The incoming residue, and whether the declaration breaks (R88). -/
def incoming (ed : Eddy) (tag : BitVec 16) (start : BitVec 32) : F32 × Bool :=
  if tag = 0 then (0, false)
  else if start = 0 then (0, false)
  else if ed.tag = tag ∧ ed.idx = start then (ed.res, false)
  else (0, true)

/-- The register after a run of `n` elements that leaves residue `e` (R88). -/
def outgoing (ed : Eddy) (tag : BitVec 16) (start : BitVec 32) (n : Nat) (e : F32) : Eddy :=
  if tag = 0 then ed else ⟨e, tag, start + BitVec.ofNat 32 n⟩

/-- A whole run (R84 to R88): elements with their masks, a scale given or chosen per block of 16. The result is the
codes, the block codes of an MX target, the register after the run, and the flags SAT, NV and EDDYBRK. A given scale that
R85 refuses reports NV whatever the elements are; for an RI32 run without a finite active element the steps of R156 name no
NV, and the model follows R85 (DESIGN CHOICE, log 100). -/
def quantize (t : QTgt) (given : Option Fp) (const : Nat) (ed : Eddy) (tag : BitVec 16) (start : BitVec 32)
    (xs : List (Bool × F32)) : List Nat × List Nat × Eddy × Nat :=
  let inc := incoming ed tag start
  let blocks := groups 16 xs.length xs
  let codes := if t.isMx then blocks.map (fun b => blockCode t ((b.filter (fun p => !p.1)).map (·.2))) else []
  let scaleAt (i : Nat) : Option Fp :=
    if t.isMx then codeScale (codes.getD (i / 16) 127)
    else match t with
      | .bf => some (.fin false 1 0)
      | _ => given
  let els := xs.zipIdx.map (fun p => if p.1.1 then none else some (p.1.2, scaleAt p.2))
  let r := quantRun t const inc.1 els
  let refused : Bool := !t.isMx && t != .bf && given.isNone
  (r.1, codes, outgoing ed tag start xs.length r.2.1,
    r.2.2 ||| (if inc.2 then fBRK else 0) ||| (if refused then fNV else 0))

/-- A 16-byte eddy image as a number (R91). -/
def eddyImage (e : Eddy) : Nat := e.res.toNat + 2 ^ 32 * e.idx.toNat + 2 ^ 64 * e.tag.toNat

/-- The register that an image restores, and whether it sets EDDYBRK (R91). -/
def eddyOfImage (n : Nat) : Eddy × Bool :=
  let res : F32 := BitVec.ofNat 32 n
  match fp32 res with
  | .fin _ _ _ =>
    if bitsOf n 127 80 = 0 then (⟨res, BitVec.ofNat 16 (n / 2 ^ 64), BitVec.ofNat 32 (n / 2 ^ 32)⟩, false)
    else (⟨0, 0, 0⟩, true)
  | _ => (⟨0, 0, 0⟩, true)

/-- A reduced RI32 element converted back (R96): its flag code, its sum as 32 bits, and the grid exponent. -/
def ri32Back (flag q : Nat) (x hr : Nat) : F32 :=
  match flag with
  | 0 =>
    let i := sint 32 q
    if i = 0 then 0 else fl32 (Fp.mul (.fin (i < 0) i.natAbs 0) (chunkScale x hr)).1
  | 1 => 0x7F800000
  | 2 => 0xFF800000
  | _ => nan32

/-- The flag code of an element converted to RI32 (R95). -/
def ri32Flag (x : F32) : Nat :=
  match fp32 x with
  | .nan => 3
  | .inf s => if s then 2 else 1
  | .fin _ _ _ => 0

end Sys2Proof.Machine
end

