-- ==== Sys2Proof/Machine/Operands.lean ====
section
/-! DEFINITION. Operand forms: immediates and offsets, the registers of a context, classes of core, windows. -/

namespace Sys2Proof.Machine

/-- The context of a slot. -/
def State.ctx (s : State) (i : Nat) : Ctx := SMap.get s.ctxs Ctx.init i

/-- The state with a slot's context replaced. -/
def State.setCtx (s : State) (i : Nat) (c : Ctx) : State := { s with ctxs := SMap.set s.ctxs Ctx.init i c }

/-- The context that `exec` acts for. -/
def State.cur (s : State) : Ctx := s.ctx s.slot

/-- The state with that context replaced. -/
def State.setCur (s : State) (c : Ctx) : State := s.setCtx s.slot c

/-- The core record of a core. -/
def State.core (s : State) (i : Nat) : Core := SMap.get s.cores Core.init i

/-- The state with a core record replaced. -/
def State.setCore (s : State) (i : Nat) (c : Core) : State := { s with cores := SMap.set s.cores Core.init i c }

/-- A lane. -/
def State.laneOf (s : State) (i : Nat) : Lane := SMap.get s.lanes Lane.init i

/-- The state with a lane replaced. -/
def State.setLane (s : State) (i : Nat) (l : Lane) : State := { s with lanes := SMap.set s.lanes Lane.init i l }

/-- A stack. -/
def State.stackOf (s : State) (i : Nat) : Stack := SMap.get s.stackTab Stack.init i

/-- The state with a stack replaced. -/
def State.setStack (s : State) (i : Nat) (x : Stack) : State := { s with stackTab := SMap.set s.stackTab Stack.init i x }

/-- A quadrant's VFIFO, by stack core number (R328). -/
def State.quadOf (s : State) (i : Nat) : Quad := SMap.get s.quads Quad.init i

/-- The state with a quadrant replaced. -/
def State.setQuad (s : State) (i : Nat) (x : Quad) : State := { s with quads := SMap.set s.quads Quad.init i x }

/-- An engine queue, by 8 · core + queue. -/
def State.engq (s : State) (i : Nat) : EngQ := SMap.get s.engqs EngQ.init i

/-- The state with an engine queue replaced. -/
def State.setEngq (s : State) (i : Nat) (x : EngQ) : State := { s with engqs := SMap.set s.engqs EngQ.init i x }

/-- A completion counter (R285). -/
def State.counter (s : State) (i : Nat) : Counter := SMap.get s.counters Counter.init i

/-- The state with a counter replaced. -/
def State.setCounter (s : State) (i : Nat) (x : Counter) : State :=
  { s with counters := SMap.set s.counters Counter.init i x }

/-- A job's state beside its table entry. -/
def State.job (s : State) (i : Nat) : JobSt := SMap.get s.jobs JobSt.init i

/-- The state with a job's state replaced. -/
def State.setJob (s : State) (i : Nat) (x : JobSt) : State := { s with jobs := SMap.set s.jobs JobSt.init i x }

/-- A submission queue (R284). -/
def State.sub (s : State) (i : Nat) : SubQ := SMap.get s.subs SubQ.init i

/-- The state with a submission queue replaced. -/
def State.setSub (s : State) (i : Nat) (x : SubQ) : State := { s with subs := SMap.set s.subs SubQ.init i x }

/-- A power island (R441). -/
def State.island (s : State) (i : Nat) : Island := SMap.get s.islands Island.init i

/-- The state with an island replaced. -/
def State.setIsland (s : State) (i : Nat) (x : Island) : State :=
  { s with islands := SMap.set s.islands Island.init i x }

/-- A fabric port (R420). -/
def State.port (s : State) (i : Nat) : FPort := SMap.get s.ports FPort.init i

/-- The state with a fabric port replaced. -/
def State.setPort (s : State) (i : Nat) (x : FPort) : State := { s with ports := SMap.set s.ports FPort.init i x }

/-- A reduction group (R413). -/
def State.rg (s : State) (i : Nat) : RGroup := SMap.get s.rgs RGroup.init i

/-- The state with a reduction group replaced. -/
def State.setRg (s : State) (i : Nat) (x : RGroup) : State := { s with rgs := SMap.set s.rgs RGroup.init i x }

/-- A stream by its key (R424). -/
def State.stream (s : State) (i : Nat) : Stream := SMap.get s.streams Stream.init i

/-- The state with a stream replaced. -/
def State.setStream (s : State) (i : Nat) (x : Stream) : State :=
  { s with streams := SMap.set s.streams Stream.init i x }

/-- A unit by its serial number. -/
def State.unit? (s : State) (u : Nat) : Option Unit := SMap.find s.units u

/-- The state with a unit replaced. -/
def State.setUnit (s : State) (u : Nat) (x : Unit) : State := { s with units := SMap.put s.units u x }

/-- A counter of the growth record (R462), advanced. Counters saturate. -/
def State.grow (s : State) (k n : Nat) : State :=
  { s with growth := SMap.set s.growth 0 k (min (2 ^ 64 - 1) (SMap.get s.growth 0 k + n)) }

/-- A slot's core (R294). -/
def coreOf (slot : Nat) : Nat := slot / 2

/-- The class of a core (R32). -/
def classOf (core : Nat) : CoreClass := if core < 32 then .stack else if core < 80 then .tile else .head

/-- A general register; g0 reads zero (R28). -/
def Ctx.rd (c : Ctx) (r : Nat) : Word := if r = 0 then 0 else SMap.get c.g 0 r

/-- A general register written; a write to g0 is discarded (R28). -/
def Ctx.wr (c : Ctx) (r : Nat) (v : Word) : Ctx := if r = 0 then c else { c with g := SMap.set c.g 0 r v }

/-- A vector register (R28). -/
def Ctx.rdV (c : Ctx) (r : Nat) : VWord := SMap.get c.v 0 r

/-- A vector register written. -/
def Ctx.wrV (c : Ctx) (r : Nat) (v : VWord) : Ctx := { c with v := SMap.set c.v 0 r v }

/-- A mask register; m0 reads all ones (R28). -/
def Ctx.rdM (c : Ctx) (r : Nat) : MWord := if r = 0 then BitVec.allOnes 256 else SMap.get c.m 0 r

/-- A mask register written; a write to m0 is discarded (R28). -/
def Ctx.wrM (c : Ctx) (r : Nat) (v : MWord) : Ctx := if r = 0 then c else { c with m := SMap.set c.m 0 r v }

/-- An eddy register of a unit's context (R31). -/
def Ctx.rdE (c : Ctx) (r : Nat) : Eddy := SMap.get c.e ⟨0, 0, 0⟩ r

/-- An eddy register written. -/
def Ctx.wrE (c : Ctx) (r : Nat) (v : Eddy) : Ctx := { c with e := SMap.set c.e ⟨0, 0, 0⟩ r v }

/-- Sticky flags ORed into FPST bits 6:0 (R33). -/
def Ctx.orFlags (c : Ctx) (f : Nat) : Ctx := { c with fpst := c.fpst ||| BitVec.ofNat 64 (f % 128) }

/-- An immediate or offset and the size of its instruction: the unprefixed field, or the joined value (R36, R39). -/
structure Imm where
  field : Nat
  width : Nat
  size  : Nat
  deriving DecidableEq, Repr

/-- The field of an instruction that stands alone. -/
def Imm.plain {n : Nat} (b : BitVec n) : Imm := ⟨b.toNat, n, 4⟩

/-- The value joined with a prefix (R39). -/
def Imm.joined {n : Nat} (xhi : BitVec 26) (b : BitVec n) : Imm := ⟨2 ^ n * xhi.toNat + b.toNat, n + 26, 8⟩

/-- The value sign-extended to 64 bits (R36). -/
def Imm.sext (i : Imm) : Word := BitVec.ofInt 64 (sint i.width i.field)

/-- The value zero-extended to 64 bits (R36). -/
def Imm.zext (i : Imm) : Word := BitVec.ofNat 64 i.field

/-- The value as an integer. -/
def Imm.int (i : Imm) : Int := sint i.width i.field

/-- The access size of an L or S size code, `none` where it is reserved (R37). -/
def accessSize (sz : BitVec 3) : Option Nat := if sz.toNat ≤ 4 then some (2 ^ sz.toNat) else none

/-- Whether a scope code is assigned (R43, R160). -/
def scopeOk (sc : BitVec 3) : Bool := sc.toNat ≤ 5

/-- A PC that is read from memory: it is always 4-byte aligned, so bits 1:0 are taken as zero (R28, R116; log 87). -/
def pcOf (w : Word) : Word := w &&& ~~~(3 : Word)

/-- The low `n` bytes of a value as bytes in memory order. -/
def bytesLE (n v : Nat) : List Byte := bytesOf n v

/-- A register's word as `n` bytes. -/
def wordBytes (n : Nat) (w : Word) : List Byte := bytesOf n w.toNat

/-- The word that bytes hold, zero-extended. -/
def bytesWord (bs : List Byte) : Word := BitVec.ofNat 64 (ofBytes bs)

end Sys2Proof.Machine
end

