-- ==== Sys2Proof/Machine/Mem.lean ====
section
/-! DEFINITION. Storage behind the windows: registers as raw words, second-tier memory under keys, cache lines, race
tags, page tables and runs. -/

namespace Sys2Proof.Machine

/-- Reset of the BAR0 registers that are plain storage and do not reset to zero (R384, R420, R441, R451, R454).
The offset is in bytes. -/
def regReset (off : Nat) : Word :=
  if off = 0x800008 then 0x0000FFFFFFE00000
  else if off = 0x800010 then 0x1FFFFF
  else if off = 0xD00000 then 0x06A4070819040000
  else if off = 0xD00010 then 0x0258000400000000
  else if 0xB00000 ≤ off ∧ off < 0xB00C00 ∧ off % 0x100 = 0 then 0x1000000000000000
  else if 0xC00000 ≤ off ∧ off < 0xC02000 ∧ off % 0x40 = 0x18 then 2000
  else 0

/-- A BAR0 register held as a raw word, by its byte offset, a multiple of 8. -/
def State.raw (s : State) (off : Nat) : Word := SMap.get s.regs (regReset off) (off / 8)

/-- The state with a raw register written. -/
def State.setRaw (s : State) (off : Nat) (v : Word) : State :=
  { s with regs := SMap.set s.regs (regReset off) (off / 8) v }

/-- Word `i` of job j's table entry (R291). -/
def State.jobWord (s : State) (j i : Nat) : Word := s.raw (0x100000 + 0x100 * j + 8 * i)

/-- VALID of a job (R291). -/
def State.jobValid (s : State) (j : Nat) : Bool := (s.jobWord j 0).getLsbD 63

/-- The job tag (R291). -/
def State.jobTag (s : State) (j : Nat) : Nat := (s.jobWord j 0).toNat % 65536

/-- The highest effective priority of a unit of the job (R291). -/
def State.jobCeil (s : State) (j : Nat) : Nat := 64 * bitsOf (s.jobWord j 0).toNat 17 16 + 63

/-- The key that a second-tier key slot holds now, by a number of its own: the slot, and how often it has been written
(R393). -/
def State.slotKey (s : State) (i : Nat) : Nat := i + 256 * SMap.get s.keyGen 0 i

/-- The 32 bytes of a second-tier key by its number (R392, R393; log 4). -/
def State.keyBytes (s : State) (key : Nat) : List Byte := (SMap.find s.mkeys key).getD (Config.memoryKey key)

/-- The job's memory key (R291). -/
def State.jobKey (s : State) (j : Nat) : Nat := s.slotKey ((s.jobWord j 2).toNat % 256)

/-- The job's session key slot (R291). -/
def State.jobSkey (s : State) (j : Nat) : Nat := bitsOf (s.jobWord j 2).toNat 15 8

/-- The job's PDL field (R291). -/
def State.jobPdl (s : State) (j : Nat) : Nat := (s.jobWord j 4).toNat % 2 ^ 32

/-- The job's memory budget (R291). -/
def State.jobBudget (s : State) (j : Nat) : Word := s.jobWord j 5

/-- Whether a counter is of the job (R291). -/
def State.ctrOfJob (s : State) (j n : Nat) : Bool :=
  let w := (s.jobWord j 6).toNat
  bitsOf w 12 0 ≤ n && n < bitsOf w 12 0 + bitsOf w 31 16

/-- Whether a submission queue is granted to the job (R291). -/
def State.queueOfJob (s : State) (j q : Nat) : Bool := q < 64 && (s.jobWord j 7).getLsbD q

/-- The job counter (R291, R292). -/
def State.jobCtr (s : State) (j : Nat) : Nat := bitsOf (s.jobWord j 8).toNat 12 0

/-! ### Homes -/

/-- Parity of a number's low 64 bits. -/
def parity (n : Nat) : Bool := (List.range 64).foldl (fun a i => a != bitOf n i) false

/-- The interleave domain of a physical address: the lowest enabled domain that holds it, else 0 (R382). -/
def State.domainOf (s : State) (pa : Nat) : Nat :=
  match (List.range 4).find? (fun d => (SMap.get s.dombase 0 d).toNat ≤ pa && pa ≤ (SMap.get s.domlim 0 d).toNat) with
  | some d => d
  | none => 0

/-- The home slice of a physical address (R382). Masks are held at 16 · domain + bit. -/
def State.homeOf (s : State) (pa : Nat) : Nat :=
  let d := s.domainOf pa
  (List.range 5).foldl (fun a k =>
    let h := (SMap.get s.hmask 0 (16 * d + k)).toNat
    a + 2 ^ k * (parity (bitsOf pa 47 9 * 512 &&& bitsOf h 47 9 * 512) != bitOf h 63).toNat) 0

/-- Whether a physical address lies in the frozen range (R384, R385). -/
def State.frozen (s : State) (pa : Nat) : Bool :=
  s.fz && (s.raw 0x800008).toNat ≤ pa && pa ≤ (s.raw 0x800010).toNat

/-- Whether the home slice and the channel of a physical address are ready (R392, R461). -/
def State.memUp (s : State) (pa : Nat) : Bool :=
  s.ready.getLsbD (46 + s.homeOf pa / 8) && s.ready.getLsbD (42 + pa / 512 % 24 / 6)

/-- Whether a core is ready (R461). -/
def State.coreUp (s : State) (core : Nat) : Bool :=
  if core < 32 then s.ready.getLsbD (56 + core / 4) else if core < 80 then s.ready.getLsbD (50 + (core - 32) / 8) else true

/-! ### Second-tier memory under keys -/

/-- The byte that a key finds at an address not written since initialisation (R463). -/
def State.unwrittenByte (s : State) (key pa : Nat) : Byte := (unwritten (s.keyBytes key) (pa / 128)).getD (pa % 128) 0

/-- The byte a plain read under the key of the sector's own writer finds. -/
def State.plainByte (s : State) (wkey pa : Nat) : Byte :=
  match Memory.read? s.mem pa with
  | some b => b
  | none => s.unwrittenByte wkey pa

/-- The byte that a key finds in a sector held under another one (R393). -/
def State.crossByte (s : State) (wkey key pa : Nat) : Byte :=
  (crossKey (s.keyBytes wkey) (s.keyBytes key) (pa / 128)
    ((List.range 128).map (fun i => s.plainByte wkey (pa / 128 * 128 + i)))).getD (pa % 128) 0

/-- A byte of second-tier memory as a read under a key returns it (R393, R463). -/
def State.memByte (s : State) (key pa : Nat) : Byte :=
  match SMap.find s.memKey (pa / 128) with
  | none => s.unwrittenByte key pa
  | some wk => if wk = key then s.plainByte wk pa else s.crossByte wk key pa

/-- Bytes put at rising addresses. -/
def putBytes (m : Memory) (a : Nat) : List Byte → Memory
  | [] => m
  | b :: bs => putBytes (Memory.put m a b) (a + 1) bs

/-- One byte written under a key. A sector held under another key is refilled under this one first (R393). -/
def State.memPut (s : State) (key pa : Nat) (b : Byte) : State :=
  let sec := pa / 128
  match SMap.find s.memKey sec with
  | none => { s with memKey := SMap.put s.memKey sec key, mem := Memory.put s.mem pa b }
  | some wk =>
    if wk = key then { s with mem := Memory.put s.mem pa b }
    else
      let old := (List.range 128).map (fun i => s.memByte key (sec * 128 + i))
      { s with memKey := SMap.put s.memKey sec key, mem := Memory.put (putBytes s.mem (sec * 128) old) pa b }

/-! ### Cache lines -/

/-- The key of a built run: the launch or other domain it was built for, and its page (R402). -/
def runKey (dom page : Nat) : Nat := 2 ^ 32 * dom + page

/-- The runs of a domain. Launch n is domain n; a job's own tables, for its supervisor extents and its shared map, are
domain 8192 + j; the extents of a service task are domain 8448. -/
def jobDom (j : Nat) : Nat := 8192 + j

/-- Whether any unit pins a line (R256). -/
def State.pinned (s : State) (line : Nat) : Bool := s.units.any (fun u => u.2.pins.any (fun p => p.2 == line))

/-- The set of a line within a slice (R394). -/
def lineSet (line : Nat) : Nat := bitsOf (line * 512) 23 14 ^^^ bitsOf (line * 512) 33 24

/-- The tag of a sector that no access has marked (R314). -/
def tagNone : BitVec 24 := 0x1FFE0

/-- The checked page that holds a physical address: its job, and the shadow place of the tag of the address's sector
(R401). -/
def State.checkedAt (s : State) (pa : Nat) : Option (Nat × Nat) :=
  s.checked.findSome? (fun c => match c.2.2 with
    | some p => if p ≤ pa ∧ pa < p + 65536 then some (c.1 / 2 ^ 32 - 8192, c.2.1 + 2 * ((pa - p) / 128)) else none
    | none => none)

/-- The shadow place of the tag of a physical sector, if its page is checked (R401). -/
def State.tagPlace (s : State) (pa : Nat) : Option Nat := (s.checkedAt pa).map (·.2)

/-- Bytes written under a key at rising addresses. -/
def State.memPuts (s : State) (key a : Nat) : List Byte → State
  | [] => s
  | b :: bs => (s.memPut key a b).memPuts key (a + 1) bs

/-- A shadow word: the generation of a line, and ATOM, WID and RID of its sectors (R317). -/
def shadowWord (gen : BitVec 6) (sectors : List (BitVec 13)) : Nat :=
  2 ^ 58 * gen.toNat + (sectors.zipIdx.map (fun t => 2 ^ (13 * t.2) * t.1.toNat)).sum

/-- The shadow word of a line without a record: no writer and no reader in generation 0. -/
def shadowNone : Nat := shadowWord 0 (List.replicate 4 0xFFF)

/-- The 8 bytes at a physical address under a key. -/
def State.memWord (s : State) (key pa : Nat) : Nat := ofBytes ((List.range 8).map (fun i => s.memByte key (pa + i)))

/-- The tag that a shadow word gives sector `i` of its line (R317). -/
def wordTag (w i : Nat) : BitVec 24 := BitVec.ofNat 6 (w / 2 ^ 58) ++ BitVec.ofNat 13 (w / 2 ^ (13 * i)) ++ 0#5

/-- Whether the tags of a line are held with it, apart from its shadow word: by a place of the shadow (R317). -/
def State.tagsHeld (s : State) (k : Nat) : Bool := (SMap.find s.tagLast (k / 8)).isSome

/-- The job of the checked page that has a shadow place. -/
def State.shadowJob (s : State) (k : Nat) : Option Nat :=
  (s.checked.find? (fun c => c.2.1 == k / 1024 * 1024)).map (fun c => c.1 / 2 ^ 32 - 8192)

/-- A sector's tag by its shadow place (R314): as the line holds it, else as the shadow word of the line has it (R317). -/
def State.tag (s : State) (k : Nat) : BitVec 24 :=
  if s.tagsHeld k then SMap.get s.tags tagNone k
  else match s.shadowJob k with
    | some j => wordTag (s.memWord (s.jobKey j) (k / 8 * 8)) (k / 2 % 4)
    | none => SMap.get s.tags tagNone k

/-- A line's tags rebuilt from its shadow word, by a place of the shadow (R317, R401; log 96). -/
def State.loadTags (s : State) (k : Nat) : State :=
  if s.tagsHeld k then s
  else { s with
    tags := (List.range 4).foldl (fun m i => SMap.set m tagNone (k / 8 * 8 + 2 * i) (s.tag (k / 8 * 8 + 2 * i))) s.tags
    tagLast := SMap.put s.tagLast (k / 8) 0 }

/-- The state with a tag set; its line's most recently tagged sector is noted (R317). -/
def State.setTag (s : State) (k : Nat) (t : BitVec 24) : State :=
  let s1 := s.loadTags k
  { s1 with tags := SMap.set s1.tags tagNone k t, tagLast := SMap.put s1.tagLast (k / 8) (k / 2 % 4) }

/-- A line's tags spilled to the shadow, which lies under the job's key: a sector of another generation than the line's loses
its record (R317, R401). -/
def State.spillTags (s : State) (line : Nat) : State :=
  match s.checkedAt (line * 512) with
  | none => s
  | some (j, k0) =>
    let k := k0 / 8 * 8
    if !s.tagsHeld k then s
    else
      let gen := (s.tag (k + 2 * SMap.get s.tagLast 0 (k / 8))).extractLsb' 18 6
      let sectors : List (BitVec 13) := (List.range 4).map (fun i =>
        let t := s.tag (k + 2 * i)
        if t.extractLsb' 18 6 = gen then t.extractLsb' 5 13 else 0xFFF#13)
      let s1 := s.memPuts (s.jobKey j) k (bytesOf 8 (shadowWord gen sectors))
      { s1 with tags := s.tags.filter (fun t => t.1 / 8 ≠ k / 8), tagLast := SMap.erase s.tagLast (k / 8) }

/-- Every tag of a shadow set to none (R318). -/
def State.clearShadow (s : State) (j shadow : Nat) : State :=
  let s1 := s.memPuts (s.jobKey j) shadow ((List.range 128).flatMap (fun _ => bytesOf 8 shadowNone))
  { s1 with tags := s.tags.filter (fun t => t.1 < shadow || shadow + 1024 ≤ t.1),
            tagLast := s.tagLast.filter (fun t => 8 * t.1 < shadow || shadow + 1024 ≤ 8 * t.1) }

/-- The tags of a line that a slice fills rebuilt, where its page is checked (R317). -/
def State.fillTags (s : State) (line : Nat) : State :=
  match s.checkedAt (line * 512) with
  | some (_, k) => s.loadTags k
  | none => s

/-- Whether a physical address lies in the shadow of a checked page. -/
def State.inShadow (s : State) (pa : Nat) : Bool := s.checked.any (fun c => c.2.1 ≤ pa && pa < c.2.1 + 1024)

/-- The lines with one removed. -/
def dropLine (ls : List Line) (line slice : Nat) : List Line := ls.filter (fun l => !(l.line == line && l.slice == slice))

/-- Growth counter of slice bypasses (R395). -/
def gBypass : Nat := 1000

/-- A request served at its home: the line becomes most recent, its sector valid, and dirty after a write; an
overfull set gives up its least recent line that is not pinned (R394, R395). -/
def State.touch (s : State) (key pa : Nat) (write : Bool) : State :=
  let line := pa / 512
  let slice := s.homeOf pa
  let sec := pa / 128 % 4
  let bit : BitVec 4 := 1#4 <<< sec
  let old := s.lines.find? (fun l => l.line == line && l.slice == slice)
  let rest := dropLine s.lines line slice
  let behind := (List.range 128).map (fun i => s.memByte key (pa / 128 * 128 + i))
  let fresh : Line := ⟨line, slice, key, bit, if write then bit else 0, if write then [(sec, behind)] else []⟩
  match old with
  | some l =>
    let l' := if l.key = key then
        { l with valid := l.valid ||| bit, dirty := l.dirty ||| fresh.dirty,
                 old := if write && l.dirty &&& bit == 0 then SMap.put l.old sec behind else l.old } else fresh
    { s with lines := l' :: rest }
  | none =>
    let inSet (l : Line) : Bool := l.slice == slice && lineSet l.line == lineSet line
    if (rest.filter inSet).length < 16 then { (s.fillTags line) with lines := fresh :: rest }
    else
      match (rest.reverse).find? (fun l => inSet l && !s.pinned l.line) with
      | none => s.grow (gBypass + slice) 1
      | some v => { (s.spillTags v.line).fillTags line with lines := fresh :: dropLine rest v.line v.slice }

/-- A byte of the memory behind the slices as a read under a key would find it: what a dirty sector has not yet replaced. -/
def State.storedByte (s : State) (key pa : Nat) : Byte :=
  match s.lines.findSome? (fun l => if l.line = pa / 512 then SMap.find l.old (pa / 128 % 4) else none) with
  | some bs => bs.getD (pa % 128) 0
  | none => s.memByte key pa

/-! ### Page tables and runs -/

/-- The end of physical memory (R392). -/
def paEnd : Nat := 0x30000000000

/-- Growth counter of the translator's builds of runs (R402, R462). -/
def gRunBuild : Nat := 1101

/-- A refused page. -/
def Run.refusedRun : Run := ⟨.refused, false, false, 0⟩

/-- What an entry at a level gives (R400): the next table, or the run of the 64 KiB page that holds `va`. -/
inductive WalkStep where
  | down (table : Nat)
  | done (r : Run)
  deriving DecidableEq, Repr

/-- Reads one entry: reserved bits, the level's L, alignment and range (R400). `shadow` is the entry's shadow pointer
at level 3. -/
def entryStep (level e va shadow : Nat) : WalkStep :=
  let p := bitOf e 0
  let leaf := bitOf e 2
  let rmt := bitOf e 1
  let addr := bitsOf e 47 12 * 4096
  let size := if level = 1 then 2 ^ 30 else if level = 2 then 2 ^ 21 else 2 ^ 16
  let chkShadow : Option Nat :=
    if level = 3 ∧ bitOf e 5 then
      (if bitsOf shadow 63 48 = 0 ∧ bitsOf shadow 9 0 = 0 then some (bitsOf shadow 47 10 * 1024) else none)
    else some 0
  if bitsOf e 63 48 ≠ 0 ∨ bitsOf e 11 6 ≠ 0 then .done Run.refusedRun
  else
    match chkShadow with
    | none => .done Run.refusedRun
    | some sh =>
      let chk := level == 3 && bitOf e 5
      if !p then .done ⟨if bitOf e 4 then .discarded else .absent, bitOf e 3, chk, sh⟩
      else if !leaf then
        (if level = 3 then .done Run.refusedRun else .down addr)
      else if level = 0 then .done Run.refusedRun
      else if level ≠ 3 ∧ bitOf e 5 then .done Run.refusedRun
      else if rmt then
        (if bitsOf e 47 28 ≠ 0 then .done Run.refusedRun else .done ⟨.remote (bitsOf e 27 12), bitOf e 3, chk, sh⟩)
      else if addr % size ≠ 0 ∨ addr + size > paEnd then .done Run.refusedRun
      else .done ⟨.present (addr + va % size / 65536 * 65536), bitOf e 3, chk, sh⟩

/-- The walk of a job address from a level's table, one level for each unit of fuel (R399). -/
def State.walkFrom (s : State) (key va : Nat) : Nat → Nat → Run
  | 0, _ => Run.refusedRun
  | k + 1, table =>
    let level := 3 - k
    let idx := if level = 0 then bitsOf va 47 39 else if level = 1 then bitsOf va 38 30
      else if level = 2 then bitsOf va 29 21 else bitsOf va 20 16
    match entryStep level (s.memWord key (table + 8 * idx)) va
        (if level = 3 then s.memWord key (table + 256 + 8 * idx) else 0) with
    | .done r => r
    | .down t => s.walkFrom key va k t

/-- The page of a job address by the job's tables as they stand (R399). -/
def State.walk (s : State) (j va : Nat) : Run :=
  let root := (s.jobWord j 1).toNat
  if bitsOf root 63 48 ≠ 0 ∨ bitsOf root 11 0 ≠ 0 then Run.refusedRun
  else s.walkFrom (s.jobKey j) va 4 root

/-- A page of a job known as checked, by its key, or as not checked; the tags of one that has gained the attribute, or a
shadow, are set to none (R318). -/
def State.setChecked (s : State) (k : Nat) (new : Option (Nat × Option Nat)) : State :=
  let old := SMap.find s.checked k
  if new = old then s
  else match new with
    | none => { s with checked := SMap.erase s.checked k }
    | some c =>
      let s1 := { s with checked := SMap.put s.checked k c }
      if old.any (fun o => o.1 == c.1) then s1 else s1.clearShadow (k / 2 ^ 32 - 8192) c.1

/-- What a page's entry says of its CHK attribute is noted (R318, R401). A refused entry says nothing of it. -/
def State.noteChecked (s : State) (j page : Nat) (r : Run) : State :=
  let k := runKey (jobDom j) page
  if r.chk then s.setChecked k (some (r.shadow, match r.state with | .present pa => some pa | _ => none))
  else if r.state = .refused then s
  else s.setChecked k none

/-- The run built for a page in a domain of a job. -/
def State.putPageRun (s : State) (dom j page : Nat) (r : Run) : State :=
  let s1 := s.noteChecked j page r
  { s1 with runs := SMap.put s1.runs (runKey dom page) r }

/-- The state with what an access that waits has found of its pages in another: the runs built, the page requests and the
CHK attributes. -/
def State.keepPages (s s1 : State) : State :=
  let s2 := ((s.checked ++ s1.checked).map (·.1)).foldl (fun (t : State) k => t.setChecked k (SMap.find s1.checked k)) s
  { s2 with runs := s1.runs, runUse := s1.runUse, xl := s1.xl, growth := SMap.set s.growth 0 gRunBuild (SMap.get s1.growth 0 gRunBuild) }

/-- The run of a job address: as built, else by a walk (R402). -/
def State.runOf (s : State) (dom j va : Nat) : Run :=
  match SMap.find s.runs (runKey dom (va / 65536)) with
  | some r => r
  | none => s.walk j va

/-! ### Extent entries (R398) -/

/-- The entry of an extent table image at an index. -/
def xEntry (x : SMap (BitVec 128)) (i : Nat) : BitVec 128 := SMap.get x 0 i

/-- SIZE. -/
def xSize (e : BitVec 128) : Nat := bitsOf e.toNat 119 64

/-- BASE. -/
def xBase (e : BitVec 128) : Nat := bitsOf e.toNat 47 0

/-- Whether the entry is taken as valid (R398). -/
def xValid (e : BitVec 128) : Bool :=
  e.getLsbD 127 && bitsOf e.toNat 123 120 == 0 && bitsOf e.toNat 63 48 == 0 && xBase e % 65536 == 0 &&
    xBase e + xSize e ≤ 2 ^ 48

/-- W: units may store. -/
def xW (e : BitVec 128) : Bool := e.getLsbD 126

/-- SEAL: SEAL accepts the extent though W is 0. -/
def xSeal (e : BitVec 128) : Bool := e.getLsbD 124

/-- CHK: the dispatch clears the extent's tags. -/
def xChk (e : BitVec 128) : Bool := e.getLsbD 125

/-! ### Locations -/

/-- Where one byte of an access lives (R302). -/
inductive Loc where
  | mem (pa key : Nat)
  | spad (core off : Nat)
  | scratch (lane off : Nat)
  | bank (lane bank row byte : Nat)
  | reg (off : Nat)
  /-- A byte of a discarded page: it reads as zero (R125). -/
  | zero
  /-- A byte of a remote page: member and job address (R304). -/
  | remote (member addr : Nat)
  /-- A byte of the firmware's own memory (R281; log 6). -/
  | fw (addr : Nat)
  deriving DecidableEq, Repr

/-- A column's bank byte as an address of `bank`: lane, bank index, row, byte. -/
def bankAddr (lane bank row byte : Nat) : Nat := ((lane * 64 + bank) * 16384 + row) * 2048 + byte

/-- The entry of a column's write buffers for a row, if any (R333). -/
def Lane.wbuf (l : Lane) (bank row : Nat) : Option WBuf := l.wbufs.find? (fun w => w.bank == bank && w.row == row)

/-- A byte of a bank row as the column's lane reads it: from the write buffer where it holds the byte (R333). -/
def State.bankByte (s : State) (lane bank row byte : Nat) : Byte :=
  match (s.laneOf lane).wbuf bank row with
  | some w => (Memory.read? w.data byte).getD (Memory.read s.bank (bankAddr lane bank row byte))
  | none => Memory.read s.bank (bankAddr lane bank row byte)

/-- A scratchpad byte's address. -/
def spadAddr (core off : Nat) : Nat := core * 0x400000 + off

/-- A lane-scratch byte's address. -/
def scratchAddr (lane off : Nat) : Nat := lane * 0x40000 + off

/-- The byte that a read of a location returns. -/
def State.readLoc (s : State) : Loc → Byte
  | .mem pa key => s.memByte key pa
  | .spad c o => Memory.read s.spad (spadAddr c o)
  | .scratch l o => Memory.read s.scratch (scratchAddr l o)
  | .bank _ _ _ _ => 0
  | .reg _ => 0
  | .zero => 0
  | .remote _ _ => 0
  | .fw a => Memory.read s.fwMem a

/-- The error record of a location: ECC words of 32 bytes of each region (R18, R392). -/
def Loc.ecc : Loc → Nat
  | .mem pa _ => pa / 32
  | .spad c o => 2 ^ 64 + spadAddr c o / 32
  | .scratch l o => 2 ^ 65 + scratchAddr l o / 32
  | .bank l b r y => 2 ^ 66 + bankAddr l b r y / 32
  | .reg _ => 2 ^ 67
  | .zero => 2 ^ 67
  | .remote _ _ => 2 ^ 67
  | .fw _ => 2 ^ 67

/-- The error record of a byte of an activation buffer (R240). -/
def bufEcc (lane buf off : Nat) : Nat := 2 ^ 68 + ((lane * 4 + buf) * 16384 + off) / 32

/-- Whether a location holds an uncorrectable error (R18). -/
def State.poisoned (s : State) (l : Loc) : Bool := s.poison.contains l.ecc

/-- A write buffer entry with a byte put. -/
def wbufPut (w : WBuf) (byte : Nat) (b : Byte) : WBuf := { w with data := Memory.put w.data byte b }

/-- Whether a fill to a row of a column finds an entry or room for one among its six (R333). -/
def Lane.fillRoom (l : Lane) (bank row : Nat) : Bool :=
  (l.wbuf bank row).isSome || (l.wbufs.filter (fun w => !w.lane && w.bank / 4 == bank / 4)).length < 6

/-- Whether a WRROW of the column is sending its units, which go up before any fill of a core (R332). -/
def Lane.sending (l : Lane) : Bool := l.later.any (fun a => match a.2 with | .unit .. => true | _ => false)

/-- Whether a fill to a row of a column may go up: no WRROW sends, it finds an entry or room for one, and no earlier fill
to that row waits (R332, R333). -/
def Lane.fillNow (l : Lane) (bank row : Nat) : Bool :=
  !l.sending && l.fillRoom bank row && l.fills.all (fun f => f.bank != bank || f.row != row)

/-- The 16-byte unit of a bank row that a byte lies in. -/
def fillUnit (bank row byte : Nat) : Nat := (bank * 16384 + row) * 128 + byte / 16

/-- The way up taken by a tick for a byte of a fill unit: one unit goes up in a tick. A fill that has waited goes in the first
tick that was free, another one in the present tick (R332). -/
def Lane.bus (l : Lane) (waited : Bool) (clk key : Nat) : Option Lane :=
  let a := if waited then l.upAt else max l.upAt clk
  if l.upUnit = (a - 1, key) ∧ 0 < a ∧ (waited ∨ a = clk + 1) then some l
  else if a ≤ clk then some { l with upAt := a + 1, upUnit := (a, key) }
  else none

/-- Whether no stream runs on a lane, nor is the rest of a faulted one still to be discarded. -/
def Lane.idle (l : Lane) : Bool := !l.running && !l.discarding

/-- A byte arriving in the bank write buffer (R333). `own` is the lane's WRROW. -/
def Lane.arrive (l : Lane) (own : Bool) (bank row byte : Nat) (b : Byte) : Lane :=
  match l.wbuf bank row with
  | some _ => { l with wbufs := l.wbufs.map (fun w => if w.bank == bank && w.row == row then wbufPut w byte b else w) }
  | none => { l with wbufs := l.wbufs ++ [⟨bank, row, own, [(byte, b)]⟩] }

/-- A fill byte that has gone up arrives in its row's entry; on a lane that runs no stream an entry drains as it arrives
(R333, R334). -/
def State.fillArrive (s : State) (lane : Nat) (x : Lane) (bank row byte : Nat) (b : Byte) : State :=
  let y := { x with banks := SMap.set x.banks BankT.init bank { SMap.get x.banks BankT.init bank with
    fillAt := (s.stackOf (lane / 64)).cclk.toNat } }
  if !y.idle ∨ (y.wbuf bank row).isSome then s.setLane lane (y.arrive false bank row byte b)
  else { s.setLane lane y with bank := Memory.write s.bank (bankAddr lane bank row byte) b }

/-- One byte written at a location. A fill byte that cannot go up now waits (R332). The value that a scratch byte had at the
beginning of the tick is kept for its lane (R209). -/
def State.writeLoc (s : State) (l : Loc) (b : Byte) : State :=
  match l with
  | .mem pa key => s.memPut key pa b
  | .spad c o =>
    let cr := s.core c
    { (s.setCore c { cr with written := if cr.written.contains (o / 65536) then cr.written else o / 65536 :: cr.written })
      with spad := Memory.write s.spad (spadAddr c o) b }
  | .scratch ln o =>
    let a := scratchAddr ln o
    { s with
      scratch := Memory.write s.scratch a b
      scratchWas := if s.scratchWas.any (fun x => x.1 == a) then s.scratchWas else (a, Memory.read s.scratch a) :: s.scratchWas }
  | .bank ln bk r y =>
    let x := s.laneOf ln
    match (if x.fillNow bk r then x.bus false (s.stackOf (ln / 64)).cclk.toNat (fillUnit bk r y) else none) with
    | some x1 => s.fillArrive ln x1 bk r y b
    | none => s.setLane ln { x with fills := x.fills ++ [⟨bk, r, y, [b], none, none⟩] }
  | .fw a => { s with fwMem := Memory.write s.fwMem a b }
  | _ => s

/-- Bytes written at locations, in order. -/
def State.writeLocs (s : State) : List Loc → List Byte → State
  | l :: ls, b :: bs => State.writeLocs (s.writeLoc l b) ls bs
  | _, _ => s

/-- The bank-fill stores that wait in the columns and did not in `s0` are marked as a unit's, or as a record's (R166, R322,
R324). -/
def State.markFills (s s0 : State) (uid seq : Option Nat) : State :=
  if s.lanes = s0.lanes then s else
  { s with lanes := s.lanes.map (fun l =>
      let n := (s0.laneOf l.1).fills.length
      if l.2.fills.length ≤ n then l
      else (l.1, { l.2 with fills := l.2.fills.take n ++ (l.2.fills.drop n).map (fun (f : FillWait) =>
        if f.uid.isNone && f.seq.isNone then { f with uid := uid, seq := seq } else f) })) }

/-- Bytes read at locations; each home serves the read (R394). -/
def State.readLocs (s : State) (ls : List Loc) : List Byte := ls.map s.readLoc

/-- The lines that a read of second-tier memory makes resident, one touch for each sector (R394). -/
def State.touchReads (s : State) (ls : List Loc) : State :=
  ls.foldl (fun s l => match l with
    | .mem pa key => if pa % 128 = 0 ∨ ls.head? = some l then s.touch key pa false else s
    | _ => s) s

/-- The lines that a write of second-tier memory makes resident and dirty, one touch for each sector (R394, R395). -/
def State.touchWrites (s : State) (ls : List Loc) : State :=
  ls.foldl (fun s l => match l with
    | .mem pa key => if pa % 128 = 0 ∨ ls.head? = some l then s.touch key pa true else s
    | _ => s) s

/-- An interrupt raised: function and vector (R459). -/
def State.irq (s : State) (fn vec : Nat) : State := { s with irqs := (fn, vec) :: s.irqs }

end Sys2Proof.Machine
end

