-- ==== Sys2Proof/Machine/Access.lean ====
section
/-! DEFINITION. Accesses: for whom they are made, the checks of R122 in their order, translation, page requests, race
tags and uncorrectable errors. -/

namespace Sys2Proof.Machine

/-- What an access does at its bytes. AMO, CAS and RED are `atomic`; a barrier operation is checked as a store that
windows 0x3 and 0x4 do not take (R171). -/
inductive AccKind where
  | load | store | atomic | barrier
  deriving DecidableEq, Repr

/-- For whom an access is made (R122, R301, R393). -/
structure Party where
  level  : Level
  core   : Nat
  job    : Nat
  key    : Nat
  /-- The extent table, and the runs it resolves through. -/
  xtab   : SMap (BitVec 128)
  dom    : Nat
  /-- SCODE and SDATA at supervisor level (R369). -/
  sup    : Option (BitVec 128 × BitVec 128)
  /-- Race id and epoch of the unit acted for (R314). -/
  race   : Option (Nat × Nat)
  /-- A record's access (R406 kinds 4 and 5). -/
  engine : Bool
  /-- Extents of a service task, which lie in the firmware's own memory (log 6). -/
  task   : Bool
  deriving DecidableEq, Repr

/-- A failed check: its number in R122 (9 for alignment), the faulting address and, for check 7, the tag. -/
structure AccFault where
  check : Nat
  addr  : Word
  extra : Nat
  deriving DecidableEq, Repr

/-- The trap cause of a failing check (R122, R368). -/
def checkCause (c : Nat) : Nat :=
  match c with
  | 2 => 3 | 3 => 4 | 5 => 6 | 7 => 7 | 8 => 8 | 9 => 5 | _ => 2

/-- What becomes of an access before it is performed. -/
inductive Acc where
  /-- A check failed. -/
  | fault (f : AccFault)
  /-- A page it needs is absent, or discarded where it writes (R125); the tag places of its sectors. -/
  | absent (tags : List Nat)
  /-- It is held: by a freeze at its requester port (R385) if `frz`, else by a frame that is being moved (R356); the tag
  places of its sectors. -/
  | held (frz : Bool) (tags : List Nat)
  /-- It may perform at these bytes; the tag places of its checked sectors. -/
  | ok (locs : List Loc) (tags : List Nat)
  deriving DecidableEq, Repr

/-- Whether an access is held by a freeze. -/
def Acc.frozen : Acc → Bool
  | .held z _ => z
  | _ => false

/-- Growth counter of discarded-page reads (R125). -/
def gDiscarded : Nat := 1100

/-- What several reads of a unit have come to: a value, a failed check, or a wait. Each carries its state: a read that waits
has posted its page request. -/
inductive Reads (α : Type) where
  | got (s : State) (a : α)
  | fault (s : State) (f : AccFault)
  | wait (s : State) (frz : Bool)

/-! ### Extents and pages -/

/-- The extent entry that an index names for a party, and the run domain it resolves through (R369, R398). -/
def Party.extent (p : Party) (x : Nat) : BitVec 128 × Nat :=
  match p.sup with
  | some (sc, sd) => if x = 14 then (sc, jobDom p.job) else if x = 15 then (sd, jobDom p.job) else (xEntry p.xtab x, p.dom)
  | none => (xEntry p.xtab x, p.dom)

/-- Whether a page's run lets the access through (R400, R403). -/
def Run.permits (r : Run) (k : AccKind) : Bool :=
  match r.state with
  | .refused => false
  | .remote _ => k == .atomic
  | .present _ => k == .load || r.w
  | _ => true

/-- Whether a page goes on the run of the page before it: in one state, with contiguous physical addresses and the same W,
CHK and RMT (R402). -/
def Run.goesOn (a b : Run) : Bool :=
  a.w == b.w && a.chk == b.chk && (match a.state, b.state with
    | .present x, .present y => y == x + 65536
    | x, y => x == y)

/-- Pages as built, in ascending order, cut into runs (R402). -/
def runsOf : List (Nat × Run) → List (List (Nat × Run))
  | [] => []
  | x :: xs => match runsOf xs with
    | (y :: g) :: gs =>
      if y.1 = x.1 + 1 ∧ y.1 % 2 ^ 32 ≠ 0 ∧ x.2.goesOn y.2 then (x :: y :: g) :: gs else [x] :: (y :: g) :: gs
    | gs => [x] :: gs

/-- The runs that an extent, with its run domain, holds (R402). -/
def State.extentRuns (s : State) (x : BitVec 128 × Nat) : List (List (Nat × Run)) :=
  runsOf (s.runs.filter (fun r => runKey x.2 (xBase x.1 / 65536) ≤ r.1 && r.1 ≤ runKey x.2 ((xBase x.1 + xSize x.1 - 1) / 65536)))

/-- A page of an extent has been used; while the extent holds fewer runs than it may, none is replaced and no order is kept
(R402). -/
def State.useRun (s : State) (x : BitVec 128 × Nat) (key : Nat) : State :=
  if (s.extentRuns x).length < 256 then s else { s with runUse := key :: s.runUse.erase key }

/-- The least recently used of some runs; of those not used since the order is kept, the lowest (R402; log 38). -/
def leastUsed (use : List Nat) (gs : List (List (Nat × Run))) : List (Nat × Run) :=
  (gs.foldl (fun (best : List (Nat × Run) × Nat) g =>
    let at0 := (g.map (fun r => use.idxOf r.1)).foldl min use.length
    if best.1.isEmpty || best.2 < at0 then (g, at0) else best) ([], 0)).1

/-- Runs of an extent beyond the 256 that it holds replaced, the least recently used first (R402). -/
def State.replaceRuns (s : State) (x : BitVec 128 × Nat) : Nat → State
  | 0 => s
  | n + 1 =>
    let gs := s.extentRuns x
    if gs.length ≤ 256 then s
    else
      let gone := leastUsed s.runUse gs
      { s with runs := s.runs.filter (fun r => !gone.contains r) }.replaceRuns x n

/-- A page's run built for an extent; at most two runs more than before are there, so that two at most are replaced (R402). -/
def State.buildRun (s : State) (x : BitVec 128 × Nat) (j page : Nat) (r : Run) : State :=
  (s.putPageRun x.2 j page r).replaceRuns x 2

/-- The run of a page for an access through an extent and its run domain: one that has not been built is built now and
counted (R402, R462); one that refuses the access is walked once more (R403). -/
def State.pageRun (s : State) (x : BitVec 128 × Nat) (j : Nat) (k : AccKind) (va : Nat) : State × Run :=
  let page := va / 65536
  let w := s.walk j va
  let u := s.useRun x (runKey x.2 page)
  match SMap.find s.runs (runKey x.2 page) with
  | some r => if r.permits k || !w.permits k then (u, r) else (u.buildRun x j page w, w)
  | none => ((u.buildRun x j page w).grow gRunBuild 1, w)

/-- A byte range cut at 64 KiB boundaries: address and length of each part, with fuel for the parts. -/
def pageParts : Nat → Nat → Nat → List (Nat × Nat)
  | 0, _, _ => []
  | f + 1, a, n =>
    if n = 0 then []
    else
      let m := min n (65536 - a % 65536)
      (a, m) :: pageParts f (a + m) (n - m)

/-- The state with the discarded-page reads as they were counted in another: an access that has not performed read
nothing (R125). -/
def State.unread (s s0 : State) : State :=
  { s with growth := SMap.set s.growth 0 gDiscarded (SMap.get s0.growth 0 gDiscarded) }

/-- Whether any byte of a job range is sealed (R397). -/
def State.sealedAny (s : State) (j a n : Nat) : Bool := (s.job j).seals.any (fun r => a < r.1 + r.2 && r.1 < a + n)

/-- A request for a page of a job, unless one is already waiting (R406). It is posted by an event of its own. -/
def State.request (s : State) (j page kind : Nat) : State :=
  if s.xl.wait.any (fun w => w.1 == j && w.2.1 == page) then s
  else { s with xl := { s.xl with wait := s.xl.wait ++ [(j, page, kind)] } }

/-- The kind of a page request (R406). -/
def requestKind (engine : Bool) (k : AccKind) (discarded : Bool) : Nat :=
  if engine then (if k = .load then 4 else 5)
  else if k = .load then 0 else if discarded then 3 else 1

/-- Tag places of the sectors that a part of a checked page touches (R315, R401). -/
def runTags (r : Run) (a n : Nat) : List Nat :=
  if r.chk then
    let s0 := a % 65536 / 128
    (List.range ((a % 65536 + n - 1) / 128 + 1 - s0)).map (fun i => r.shadow + 2 * (s0 + i))
  else []

/-- What the pages of an access have shown so far. -/
structure Pages where
  st     : State
  bad    : Bool
  absent : Bool
  locs   : List Loc
  tags   : List Nat
  deriving DecidableEq, Repr

/-- One part of an access to second-tier memory (R122 check 6, R125, R402). DESIGN CHOICE (log 105): an AMO, CAS or barrier
instruction that meets a discarded page is held and posts a request of kind 3, as one that meets an absent page is held by
R163; R125 states this of stores and R163 speaks of absent pages. -/
def Party.pageStep (p : Party) (k : AccKind) (ext : BitVec 128 × Nat) (x : Pages) (part : Nat × Nat) : Pages :=
  let (a, n) := part
  let (s, r) := x.st.pageRun ext p.job k a
  if !r.permits k then { x with st := s, bad := true }
  else
    let tags := x.tags ++ runTags r a n
    match r.state with
    | .present pa =>
      { x with st := s, tags := tags, locs := x.locs ++ (List.range n).map (fun i => Loc.mem (pa + a % 65536 + i) p.key) }
    | .remote m => { x with st := s, locs := x.locs ++ (List.range n).map (fun i => Loc.remote m (a + i)) }
    | .discarded =>
      if k = .load then
        { x with st := s.grow gDiscarded 1, tags := tags, locs := x.locs ++ List.replicate n Loc.zero }
      else { x with st := s.request p.job (a / 65536) (requestKind p.engine k true), absent := true, tags := tags }
    | _ => { x with st := s.request p.job (a / 65536) (requestKind p.engine k false), absent := true, tags := tags }

/-- Whether a fatal fault of a unit of the core waits for the scratchpad to freeze (R376, R378). -/
def State.freezeDue (s : State) (core : Nat) : Bool :=
  !(s.core core).frozen && classOf core == .tile &&
    s.units.any (fun u => u.2.ending == some .faulted && u.2.lastCore == core)

/-- Whether the homes and channels of the sectors among some bytes are ready (R461). -/
def State.locsUp (s : State) (ls : List Loc) : Bool :=
  ls.all (fun l => match l with
    | .mem pa _ => (pa % 128 ≠ 0 && ls.head? ≠ some l) || s.memUp pa
    | _ => true)

/-! ### The checks -/

/-- A failed check of an access at `a`. -/
def Acc.bad (c : Nat) (a : Word) : Acc := .fault ⟨c, a, 0⟩

/-- An access to a scratchpad of a core, through window 0x2 if `peer` (R356, R358, R376, R378). -/
def State.locateSpad (s : State) (p : Party) (k : AccKind) (a : Word) (peer : Bool) (core off n : Nat) : Acc :=
  let c := s.core core
  if off + n > 0x400000 then .bad 3 a
  else if (core ≠ p.core || peer) && (match c.owner with | some o => o ≠ p.job | none => false) then .bad 6 a
  else if c.frozen && k ≠ .load then .bad 6 a
  else if s.freezeDue core || c.spill.any (fun f => off / 65536 ≤ f && f ≤ (off + n - 1) / 65536) then .held false []
  else .ok ((List.range n).map (fun i => Loc.spad core (off + i))) []

/-- Whether a party may reach a lane of window 0x3 or 0x4 (R122 check 6, R330). -/
def State.laneHeld (s : State) (p : Party) (lane : Nat) : Bool :=
  p.level == .management || (s.laneOf lane).job == some p.job

/-- An access to second-tier memory through an extent, from check 2 on. Check 6 is made once no page of it is absent, and a
read of a discarded page is counted once it may perform (R125). -/
def State.locateExtent (s : State) (p : Party) (k : AccKind) (a : Word) (n : Nat) : State × Acc :=
  let off := bitsOf a.toNat 55 0
  let ext := p.extent (bitsOf a.toNat 59 56)
  let e := ext.1
  if !xValid e || xSize e ≤ off then (s, .bad 2 a)
  else if off + n > xSize e then (s, .bad 3 a)
  else if k ≠ .load && !xW e then (s, .bad 4 a)
  else
    let ja := xBase e + off
    if p.task then (s, .ok ((List.range n).map (fun i => Loc.fw (ja + i))) [])
    else if k ≠ .load && s.sealedAny p.job ja n then (s, .bad 5 a)
    else
      let x := (pageParts (n / 65536 + 2) ja n).foldl (p.pageStep k ext) ⟨s, false, false, [], []⟩
      let idle := x.st.unread s
      if x.absent then (idle, .absent x.tags)
      else if x.bad then (idle, .bad 6 a)
      else if x.locs.any (fun l => match l with | .mem pa _ => s.frozen pa | _ => false) then (idle, .held true x.tags)
      else if !s.locsUp x.locs then (idle, .held false x.tags)
      else (x.st, .ok x.locs x.tags)

/-- Checks 1 to 6 of R122 in their order, and alignment to `al` after check 1 (R163, R171). -/
def State.locate (s : State) (p : Party) (k : AccKind) (al : Nat) (a : Word) (n : Nat) : State × Acc :=
  let w := bitsOf a.toNat 63 60
  let tile := classOf p.core == .tile
  let head := classOf p.core == .head
  let lane := bitsOf a.toNat 59 51
  let bad1 : Bool :=
    (5 ≤ w && w ≤ 14) || (w == 15 && p.level != .management) || ((w == 1 || w == 2) && !tile) ||
    (w == 3 && ((head && p.level != .management && !p.engine) || k == .atomic || k == .barrier)) ||
    (w == 2 && 8 ≤ bitsOf a.toNat 59 56) || (w == 4 && k != .store)
  if bad1 then (s, .bad 1 a)
  else if a.toNat % al ≠ 0 then (s, .bad 9 a)
  else if w = 0 then s.locateExtent p k a n
  else if w = 1 then (s, s.locateSpad p k a false p.core (bitsOf a.toNat 59 0) n)
  else if w = 2 then
    (s, s.locateSpad p k a true (32 + (p.core - 32) / 8 * 8 + bitsOf a.toNat 59 56) (bitsOf a.toNat 55 0) n)
  else if w = 3 then
    let off := bitsOf a.toNat 50 0
    if off + n > 0x40000 then (s, .bad 3 a)
    else if !s.laneHeld p lane then (s, .bad 6 a)
    else (s, .ok ((List.range n).map (fun i => Loc.scratch lane (off + i))) [])
  else if w = 4 then
    let row := bitsOf a.toNat 24 11
    let byte := bitsOf a.toNat 10 0
    if bitsOf a.toNat 50 31 ≠ 0 ∨ 12288 ≤ row ∨ byte + n > 2048 then (s, .bad 3 a)
    else if !s.laneHeld p lane then (s, .bad 6 a)
    else (s, .ok ((List.range n).map (fun i => Loc.bank lane (bitsOf a.toNat 30 25) row (byte + i))) [])
  else
    let off := bitsOf a.toNat 47 0
    if bitsOf a.toNat 58 48 ≠ 0 then (s, .bad 3 a)
    else if bitOf a.toNat 59 then
      (if off + n > 0x4000000 then (s, .bad 3 a) else (s, .ok ((List.range n).map (fun i => Loc.reg (off + i))) []))
    else if off + n > paEnd then (s, .bad 3 a)
    else
      let ts := ((List.range n).filterMap (fun i => s.tagPlace (off + i))).eraseDups
      if (List.range n).any (fun i => s.frozen (off + i)) then (s, .held true ts)
      else if !s.memUp off || !s.memUp (off + n - 1) then (s, .held false ts)
      else (s, .ok ((List.range n).map (fun i => Loc.mem (off + i) (s.slotKey ((s.raw 0x900020).toNat % 256)))) ts)

/-! ### Race tags (R315) -/

/-- The step of R315 on one tag for race id `x` in epoch `e`; `none` is a race. `failed` is a failed CAS. -/
def tagStep (k : AccKind) (failed : Bool) (x e : Nat) (t : BitVec 24) : Option (BitVec 24) :=
  let t := if bitsOf t.toNat 23 18 ≠ e % 64 then BitVec.ofNat 24 (setBits 0x1FFE0 23 18 e) else t
  let atom := bitOf t.toNat 17
  let wid := bitsOf t.toNat 16 11
  let rid := bitsOf t.toNat 10 5
  let wo : Bool := wid != 63 && wid != x
  let ro : Bool := rid != 63 && rid != x
  match k with
  | .load => if wo then none else some (BitVec.ofNat 24 (setBits t.toNat 10 5 (if ro then 62 else x)))
  | .store | .barrier =>
    if wo || ro then none else some (BitVec.ofNat 24 (setBits (setBits t.toNat 16 11 x) 17 17 0))
  | .atomic =>
    if (wo && !atom) || ro then none
    else if failed then some t
    else some (BitVec.ofNat 24 (setBits (setBits t.toNat 16 11 x) 17 17 1))

/-- The step on every tag of an access in ascending order. A race leaves every tag as it was, and gives the tag. -/
def State.raceStep (s : State) (k : AccKind) (failed : Bool) (x e : Nat) : List Nat → Except (BitVec 24) State
  | [] => .ok s
  | t :: ts =>
    match tagStep k failed x e (s.tag t) with
    | none => .error (s.tag t)
    | some v => (s.setTag t v).raceStep k failed x e ts

/-- Tags of sectors that a party not acting for a unit writes (R316). -/
def State.clearTags (s : State) (ts : List Nat) : State :=
  ts.foldl (fun s t => s.setTag t (BitVec.ofNat 24 (setBits 0x1FFE0 23 18 (bitsOf (s.tag t).toNat 23 18)))) s

/-- Check 7 for a party at the tags of an access. -/
def State.race (s : State) (p : Party) (k : AccKind) (failed : Bool) (a : Word) (ts : List Nat) :
    Except AccFault State :=
  match p.race with
  | none => .ok (if k = .load then s else s.clearTags ts)
  | some (x, e) =>
    match s.raceStep k failed x e ts with
    | .ok s' => .ok s'
    | .error t => .error ⟨7, a, t.toNat⟩

/-! ### Uncorrectable errors (R18, R312) -/

/-- Whether an error word is wholly overwritten by a store to the bytes. -/
def wholeWord (ls : List Loc) (e : Nat) : Bool := (ls.filter (fun l => l.ecc == e)).eraseDups.length == 32

/-- Whether an access meets an uncorrectable error that it does not overwrite whole. -/
def State.eccBad (s : State) (k : AccKind) (ls : List Loc) : Bool :=
  !s.poison.isEmpty && ls.any (fun l => s.poisoned l && !(k == .store && wholeWord ls l.ecc))

/-- Errors that a store overwrites whole are cleared. -/
def State.eccClear (s : State) (ls : List Loc) : State :=
  if s.poison.isEmpty then s else { s with poison := s.poison.filter (fun e => !wholeWord ls e) }

/-- All the checks of R122 for an access that would perform now. Tags are updated only if it may. -/
def State.access (s : State) (p : Party) (k : AccKind) (al : Nat) (a : Word) (n : Nat) : State × Acc :=
  match s.locate p k al a n with
  | (s1, .ok ls ts) =>
    let idle := s1.unread s
    match s1.race p k false a ts with
    | .error f => (idle, .fault f)
    | .ok s2 => if s1.eccBad k ls then (idle, .bad 8 a) else (s2, .ok ls ts)
  | r => r

/-- A performed store: its lines made dirty, bytes written at their homes, errors overwritten whole cleared. -/
def State.perform (s : State) (ls : List Loc) (bs : List Byte) : State := ((s.touchWrites ls).writeLocs ls bs).eccClear ls

/-- A performed load: the bytes, the lines it makes resident. -/
def State.loadLocs (s : State) (ls : List Loc) : State × List Byte := (s.touchReads ls, s.readLocs ls)

end Sys2Proof.Machine
end

