-- ==== Sys2Proof/Machine/Cancel.lean ====
section
/-! DEFINITION. Units and whom they act as, completion counters, statuses, the ends of units, cancellation and fatal
faults. -/

namespace Sys2Proof.Machine

/-! ### Units -/

/-- The unit that a context is taken to run where none has been bound: unit 0 of launch 0 of job 0 (log 12). -/
def Unit.init : Unit :=
  { job := 0, lctr := 0, index := 0, cls := .tile, prio := 0, strict := false, nodes := [], pins := [], ending := none,
    contributed := false, image := none, lastCore := 0, spadUsed := false, pend := [], trapRec := none, tstat := none, xtab := [], epoch := 0, side := [],
    popBase := [] }

/-- A unit by serial number. -/
def State.unitAt (s : State) (u : Nat) : Unit := (s.unit? u).getD Unit.init

/-- The unit resident in a slot. -/
def State.unitOf (s : State) (slot : Nat) : Unit :=
  match (s.ctx slot).uid with
  | some u => s.unitAt u
  | none => Unit.init

/-- The slot in which a unit is resident. -/
def State.slotOf (s : State) (u : Nat) : Option Nat := (s.ctxs.find? (fun c => c.2.uid == some u)).map (·.1)

/-- Whether a slot belongs to the headwater core, on which only service tasks run (R281). -/
def isTask (slot : Nat) : Bool := classOf (coreOf slot) == .head

/-- The 16 bytes of a trap vector entry's extent, by offset 0 for SCODE and 16 for SDATA (R369). -/
def State.trapExtent (s : State) (j o : Nat) : BitVec 128 :=
  (s.raw (0x700000 + 0x40 * j + o + 8)) ++ (s.raw (0x700000 + 0x40 * j + o))

/-- Race id of a unit (R314). -/
def raceId (index : Nat) : Nat := index % 62

/-- The party of a context at a level (R281, R301, R369, R393). -/
def State.partyAt (s : State) (slot : Nat) (level : Level) : Party :=
  let c := s.ctx slot
  let u := s.unitOf slot
  if isTask slot then
    { level := .management, core := coreOf slot, job := 256, key := s.slotKey ((s.raw 0x900020).toNat % 256), xtab := c.xtab,
      dom := 8448, sup := none, race := none, engine := false, task := true }
  else
    { level := level, core := coreOf slot, job := u.job, key := s.jobKey u.job, xtab := c.xtab, dom := u.lctr,
      sup := if level = .supervisor then some (s.trapExtent u.job 0, s.trapExtent u.job 16) else none,
      race := some (raceId u.index, c.epoch.toNat), engine := false, task := false }

/-- The party of the context that `exec` acts for. -/
def State.party (s : State) : Party := s.partyAt s.slot s.cur.level

/-! ### Interrupts and status -/

/-- A vector of every virtual function of a job (R459). -/
def State.jobIrq (s : State) (j vec : Nat) : State :=
  (List.range 16).foldl (fun s f =>
    if (s.raw (0xE00000 + 0x20 * (f + 1))).toNat % 256 = j then s.irq (f + 1) vec else s) s

/-- A fault's FCODE, CHECK, QUEUE and ADDR with the record. -/
def StatUpd.bad (fcode check queue : Nat) (addr : Word) (recd : Nat) : StatUpd :=
  ⟨0, some (fcode, check, queue, addr.toNat), some recd⟩

/-- Flags alone. -/
def StatUpd.flag (f : Nat) : StatUpd := ⟨f, none, none⟩

/-- COMPLETE and CANCELLED as flag bits (R250). -/
def stComplete : Nat := 64
def stCancelled : Nat := 32

/-- A status with an update (R250). -/
def StatUpd.apply (u : StatUpd) (st : Nat) : Nat :=
  let st := match u.recd with
    | some r => setBits st 127 0 r
    | none => st
  let st := match u.fault with
    | some (f, c, q, a) => setBits (setBits (setBits (setBits st 255 192 a) 183 176 c) 175 168 f) 167 160 q
    | none => st
  setBits st 134 128 (bitsOf st 134 128 ||| u.flags)

/-- Bytes at a job address for the device itself, written where the page is present and may be written (R250, R278); it
acts for no unit, so the tags of checked sectors are cleared (R316). -/
def State.jobWrite (s : State) (dom j a : Nat) (bs : List Byte) : State :=
  match s.runOf dom j a with
  | ⟨.present pa, true, chk, sh⟩ =>
    (s.clearTags (runTags ⟨.present pa, true, chk, sh⟩ a bs.length)).perform
      ((List.range bs.length).map (fun i => Loc.mem (pa + a % 65536 + i) (s.jobKey j))) bs
  | _ => s

/-- What reading bytes at a job address for the device itself gives: the bytes, a page that is not there, a freeze that holds
it (R385), an uncorrectable error (R18), or a fault. -/
inductive DevRead where
  | bytes (bs : List Byte)
  | absent (page : Nat)
  | held
  | bad
  | fault
  deriving DecidableEq, Repr

/-- A byte at a job address for the device itself, or why there is none. -/
def State.devByte (s : State) (dom j a : Nat) : Except DevRead Byte :=
  match (s.runOf dom j a).state with
  | .present pa =>
    let l : Loc := .mem (pa + a % 65536) (s.jobKey j)
    if s.frozen (pa + a % 65536) then .error .held else if s.poisoned l then .error .bad else .ok (s.readLoc l)
  | .discarded => .ok 0
  | .absent => .error (.absent (a / 65536))
  | _ => .error .fault

/-- `n` bytes at a job address for the device itself, byte by byte (R278, R290). -/
def State.devRead (s : State) (dom j : Nat) : Nat → Nat → DevRead
  | 0, _ => .bytes []
  | n + 1, a =>
    match s.devByte dom j a with
    | .error e => e
    | .ok x =>
      match s.devRead dom j n (a + 1) with
      | .bytes bs => .bytes (x :: bs)
      | r => r

/-- A field of a launch packet by its bytes (R278). -/
def Launch.field (l : Launch) (lo n : Nat) : Nat := l.packet / 256 ^ lo % 256 ^ n

/-- Bits of a packet's CTL (R278). -/
def Launch.ctl (l : Launch) (h lo : Nat) : Nat := bitsOf l.packet (896 + h) (896 + lo)

/-- STATUS of a launch (R278). -/
def Launch.status (l : Launch) : Nat := l.field 16 8

/-- Whether the status block of a launch can be written now. -/
def State.statWritable (s : State) (n : Nat) (l : Launch) : Bool :=
  match s.runOf n l.job l.status with
  | ⟨.present _, true, _, _⟩ => l.status ≠ 0
  | _ => false

/-- The status block of a launch, as the launch stood, with an update; a block that has not begun starts from zero (log 16).
One held by a freeze waits for its end (R385). An uncorrectable error in a block that has begun is not written over with what
was read: the job is to be cancelled (R18). -/
def State.statNow (s : State) (n : Nat) (l : Launch) (u : StatUpd) : State :=
  match s.devRead n l.job 32 l.status with
  | .held => { s with heldStats := s.heldStats ++ [(n, l, u)] }
  | .bad => if l.translated then { s with condemned := if s.condemned.contains l.job then s.condemned else l.job :: s.condemned }
      else s.jobWrite n l.job l.status (bytesOf 32 (u.apply 0))
  | .bytes bs => s.jobWrite n l.job l.status (bytesOf 32 (u.apply (if l.translated then ofBytes bs else 0)))
  | _ => s

/-- The launch status with an update. Without a block, fatal and dispatch codes go to LASTERR, and so does a dispatch code whose
block cannot be written (R250, R293). -/
def State.launchStat (s : State) (n : Nat) (u : StatUpd) : State :=
  match SMap.find s.launches n with
  | none => s
  | some l =>
    if s.statWritable n l then
      let s1 := s.statNow n l u
      if l.translated then s1 else { s1 with launches := SMap.put s1.launches n { l with translated := true } }
    else match u.fault with
      | some (f, _, _, _) =>
        if 0x60 ≤ f ∨ (0x40 ≤ f ∧ l.status = 0) then s.setSub l.queue { s.sub l.queue with lasterr := f } else s
      | none => s

/-- An owner of node tables that is a graph image: its counter above all serial numbers of units. -/
def graphOwner (g : Nat) : Nat := 2 ^ 32 + g

/-- The node table of an owner. -/
def State.nodesOf (s : State) (owner : Nat) : SMap Node :=
  if owner < 2 ^ 32 then (s.unitAt owner).nodes
  else match SMap.find s.graphs (owner - 2 ^ 32) with
    | some g => g.nodes
    | none => []

/-- The state with an owner's node table replaced, if the owner exists. -/
def State.setNodes (s : State) (owner : Nat) (ns : SMap Node) : State :=
  if owner < 2 ^ 32 then
    match s.unit? owner with
    | some u => s.setUnit owner { u with nodes := ns }
    | none => s
  else match SMap.find s.graphs (owner - 2 ^ 32) with
    | some g => { s with graphs := SMap.put s.graphs (owner - 2 ^ 32) { g with nodes := ns } }
    | none => s

/-- A node of an owner. -/
def State.node (s : State) (owner nid : Nat) : Node := SMap.get (s.nodesOf owner) Node.init nid

/-- The state with a node replaced. -/
def State.setNode (s : State) (owner nid : Nat) (n : Node) : State :=
  s.setNodes owner (SMap.set (s.nodesOf owner) Node.init nid n)

/-- Whether a node's count is zero and it has not fired. -/
def Node.ripe (n : Node) : Bool := n.declared && n.count == 0 && !n.fired

/-- A node's status updated. -/
def State.nodeStat (s : State) (owner nid : Nat) (u : StatUpd) : State :=
  let n := s.node owner nid
  s.setNode owner nid { n with status := BitVec.ofNat 256 (u.apply n.status.toNat) }

/-- The owner of a record's node (R266, R289). -/
def Rec.owner (r : Rec) : Nat :=
  match r.gctr with
  | some g => graphOwner g
  | none => r.uid.getD 0

/-- NID of a record (R241). -/
def Rec.nid (r : Rec) : Nat := bitsOf r.bits.toNat 104 97

/-- The status that a record reports to: its node's, or else its launch's (R56). -/
def State.recStat (s : State) (r : Rec) (u : StatUpd) : State :=
  if r.nid ≠ 0 then s.nodeStat r.owner r.nid u
  else match r.uid with
    | some x => if (s.unit? x).isSome then s.launchStat (s.unitAt x).lctr u else s
    | none => s

/-! ### Counters (R286, R292) -/

/-- The job whose work a counter counts: that of its launch, phase or graph, and its JOB field where it counts none
(R285, R292; log 84). -/
def State.ctrJob (s : State) (n : Nat) : Nat :=
  match SMap.find s.launches n with
  | some l => l.job
  | none => match SMap.find s.graphs n with
    | some g => g.job
    | none => (s.counter n).job

/-- Whether the work of a counter has been cancelled and has not settled (R293). The cancel of a job settles at its JCTR even
where that is COMPLETE. -/
def State.cancelDue (s : State) (n : Nat) : Bool :=
  let c := s.counter n
  (c.kind == 5 && (s.job (s.ctrJob n)).cancelling) || c.state == 1 &&
    ((match SMap.find s.launches n with | some l => l.cancelling | none => c.kind == 2 || c.kind == 4) ||
     (c.kind == 3 && (SMap.find s.graphs n).isNone) || (s.job (s.ctrJob n)).cancelling) && 2 ≤ c.kind && c.kind ≤ 5

/-! ### Ends of units -/

/-- A lane without the executions that its issued words have still to make; the arrivals of an issued WRROW and the other
writes stand, and no fault record of theirs is delivered any more, which the mark `bad` says (R239). What a word held stays
held to the end that it had at its issue (log 112). -/
def Lane.dropRuns (l : Lane) : Lane :=
  let gone := l.later.filterMap (fun a => match a.2 with | .exec r => some r.pos | _ => none)
  { l with later := l.later.filterMap (fun a => match a.2 with
             | .exec _ => none
             | .unit bank row src h data w pos => some (a.1, .unit bank row src h data { w with bad := true } pos)
             | .scratch .. => some a),
           issued := l.issued.filter (fun w => !gone.contains w.pos) }

/-- A lane's stream stopped at a tick and its words of a unit discarded; another unit's word reaches the head then, at the
earliest (R203, R239). A bank-fill store that has not performed does not perform (R201). -/
def Lane.drop (l : Lane) (u now : Nat) : Lane :=
  let mine : LWord → Bool := fun w => w.uid == some u
  let stops : Bool := l.uid == some u && (l.running || l.fault.isSome)
  let m := { l with
    words := l.words.filter (fun w => !mine w)
    fills := l.fills.filter (fun f => f.uid != some u)
    after := if stops || (!l.running && l.words.head?.any mine) then max l.after now else l.after }
  if l.uid = some u then { m.dropRuns with running := false, discarding := false, fault := none } else m

/-- A collective slot without the work of some records: a parked entry goes with its trigger (R252). -/
def CSlot.without (c : CSlot) (mine : Rec → Bool) : CSlot :=
  let entry : Bool := c.entry.any mine
  ⟨if entry then none else c.entry, if entry || c.trigger.any (fun t => mine t.2) then none else c.trigger⟩

/-- A frame of a number without anything in it (R201; log 95). -/
def voidFrame (f : Frame) : Frame := { f with kind := 0, op := 0, chunk := 0, payload := [], rbar := 0 }

/-- A stream in which the frames that are not acknowledged and that a test chooses are given up: a number that has been used
stays, with an empty frame (R201, R252, R424; log 95). -/
def Stream.giveUp (x : Stream) (mine : Kept → Bool) : Stream :=
  { x with
    kept := x.kept.filterMap (fun f =>
      if !mine f then some f
      else if f.frame.seq ≤ x.freed then none
      else some { f with frame := voidFrame f.frame, owner := none })
    queue := x.queue.map (fun f => if mine f then { f with frame := voidFrame f.frame, owner := none } else f) }

/-- Records stopped in their queues, in flight and in slots, with the holds that they caused, the reductions that they
had set up, and their bank-fill bytes and frames that have not reached their homes (R252). -/
def State.stopRecs (s : State) (mine : Rec → Bool) : State :=
  let gone : List Nat := s.engqs.flatMap (fun q => ((q.2.run ++ q.2.fault.map (·.2)).filter mine).map (·.seq))
  { s with
    lanes := s.lanes.map (fun l => (l.1, { l.2 with fills := l.2.fills.filter (fun f => !f.seq.any gone.contains) }))
    streams := s.streams.map (fun x => (x.1, x.2.giveUp (fun f => f.owner.any gone.contains)))
    engqs := s.engqs.map (fun q => (q.1, { q.2 with
      recs := q.2.recs.filter (fun r => !mine r), run := q.2.run.filter (fun r => !mine r),
      fault := q.2.fault.filter (fun (x : Nat × Rec) => !mine x.2), frz := q.2.frz && !(q.2.recs ++ q.2.run).any mine }))
    cslots := (s.cslots.map (fun c => (c.1, c.2.without mine))).filter (fun c => c.2 ≠ ⟨none, none⟩)
    rafts := s.rafts.filter (fun r => !gone.contains r.seq) }

/-- Whether some records are queued, in flight or parked. -/
def State.anyRec (s : State) (mine : Rec → Bool) : Bool :=
  s.engqs.any (fun q => (q.2.recs ++ q.2.run).any mine) || s.cslots.any (fun c => c.2.entry.any mine)

/-- The remote atomics of a unit given up: none is sent again. One that has not been acknowledged leaves its number to an
empty frame, so that the stream goes on (R201, R424; log 95). -/
def State.dropRemotes (s : State) (u : Nat) : State :=
  let mine (k seq : Nat) : Bool := s.remotes.any (fun r => r.uid == u && r.stream == k && r.seq == seq && r.reply.isNone)
  { s with
    remotes := s.remotes.filter (fun r => r.uid ≠ u)
    streams := s.streams.map (fun x => (x.1, x.2.giveUp (fun f => mine x.1 f.frame.seq))) }

/-- Records, slots, nodes, format words, lane words and remote atomics of a unit stopped as on cancellation (R201, R239,
R252, R363). -/
def State.stopWork (s : State) (u : Nat) : State :=
  let mine : Rec → Bool := fun r => r.uid == some u
  let s := if s.anyRec mine then s.launchStat (s.unitAt u).lctr (StatUpd.flag stCancelled) else s
  { (s.stopRecs mine).dropRemotes u with
    cores := s.cores.map (fun c => (c.1, { c.2 with fmtq := c.2.fmtq.filter (fun w => w.1 ≠ u) }))
    lanes := s.lanes.map (fun l => (l.1, l.2.drop u (s.stackOf (l.1 / 64)).cclk.toNat)) }

/-- A context freed; a bind that waits for it starts to load (R295). The epilogue bank stays with the slot, and the register
files hold what the unit left until the next unit starts (R353). -/
def State.freeCtx (s : State) (slot : Nat) : State :=
  let c := s.ctx slot
  s.setCtx slot { Ctx.init with epi := c.epi, berr := c.berr, forced := c.forced, marker := c.marker,
                                g := c.g, v := c.v, m := c.m, e := c.e, fpst := c.fpst,
                                st := if (SMap.find s.next slot).isSome then .loading else .idle }

/-- A resident unit's context freed. -/
def State.freeUnit (s : State) (u : Nat) : State :=
  match s.slotOf u with
  | some sl => s.freeCtx sl
  | none => s

/-- A unit cancelled: it stops, and makes no contribution (R277, R293). A frozen scratchpad is released (R376). -/
def State.cancelUnit (s : State) (u : Nat) : State :=
  let x := s.unitAt u
  let s := (s.freeUnit u).stopWork u
  let s := { s with units := SMap.erase s.units u }
  if x.ending = some .faulted ∧ !(s.units.any (fun v => v.2.ending == some .faulted && v.2.lastCore == x.lastCore)) then
    s.setCore x.lastCore { s.core x.lastCore with frozen := false }
  else s

/-! ### NEXT taking effect (R287, R294, R295) -/

/-- A unit index added to those that a launch has bound. -/
def State.noteBound (s : State) (n idx : Nat) : State :=
  match SMap.find s.launches n with
  | some l => if l.bound.contains idx then s else
      { s with launches := SMap.put s.launches n { l with bound := idx :: l.bound } }
  | none => s

/-- The request that stands in a slot's NEXT withdrawn: a unit that it was to bind is unbound (R295). -/
def State.unbindNext (s : State) (slot : Nat) : State :=
  match SMap.find s.next slot with
  | some (op, r) =>
    let s1 := { s with next := SMap.erase s.next slot }
    (match SMap.find s.launches r.lctr.toNat with
    | some l => if op = 1 then
        { s1 with launches := SMap.put s1.launches r.lctr.toNat { l with bound := l.bound.erase r.unit.toNat } } else s1
    | none => s1)
  | none => s

/-- PREQ raised on the unit of a slot: the PDL count starts (R295). -/
def State.raisePreq (s : State) (slot : Nat) : State :=
  let c := s.ctx slot
  s.setCtx slot { c with preq := true, st := .preempt, pdlLeft := c.pdl.toNat }

/-- The slots that a pre-emption of a slot's unit takes together: those of all its gang (R287). -/
def State.gangSlots (s : State) (slot : Nat) : List Nat :=
  let n := (s.unitOf slot).lctr
  match (s.ctx slot).uid, SMap.find s.launches n with
  | some _, some l => if l.ctl 16 16 = 1 then
      (s.ctxs.filter (fun c => c.2.uid.any (fun u => (s.unitAt u).lctr == n))).map (·.1) else [slot]
  | _, _ => [slot]

/-- PREQ taken back from a slot's unit, and from the rest of its gang, if no save of them has begun and no other NEXT
pre-empts one of them (R287, R295). -/
def State.lowerPreq (s : State) (slot : Nat) : State :=
  let ys := s.gangSlots slot
  let n := (s.unitOf slot).lctr
  let begun : Bool := ys.any (fun y => (s.ctx y).st == .saving) ||
    (ys != [slot] && s.units.any (fun u => u.2.lctr == n && u.2.image.isSome && u.2.ending.isNone))
  let other : Bool := ys.any (fun y => y != slot && (SMap.find s.next y).any (fun x => x.2.pre && x.2.save != 0))
  if begun || other then s
  else ys.foldl (fun (s : State) y =>
    let c := s.ctx y
    if c.st = .preempt then s.setCtx y { c with preq := false, st := .running } else s) s

/-- A NEXT record with OP 001 or 010 takes effect (R295): one that asks for no pre-emption replaces one that did. -/
def State.takeNextRec (s : State) (slot op : Nat) (r : NextRec) : State :=
  let c := s.ctx slot
  let s0 := s.unbindNext slot
  let s1 := { s0 with next := SMap.put s0.next slot (op, r) }
  let s2 := if op = 1 then s1.noteBound r.lctr.toNat r.unit.toNat else s1
  match c.st with
  | .idle => s2.setCtx slot { c with st := .loading }
  | .running | .preempt => if r.pre && r.save ≠ 0 && !isTask slot then s2.raisePreq slot else s2.lowerPreq slot
  | _ => s2

/-- A NEXT that was written while the slot was saved or loaded takes effect (R295). -/
def State.takeLater (s : State) (slot : Nat) : State :=
  match SMap.find s.nextLater slot with
  | some (op, r) =>
    let s1 := { s with nextLater := SMap.erase s.nextLater slot }
    if op = 0 then s1 else s1.takeNextRec slot op r
  | none => s

/-! ### Cancellation (R293) -/

/-- Bind records of a launch that have not started are dropped. -/
def State.dropNext (s : State) (n : Nat) : State :=
  let s := { s with nextLater := s.nextLater.filter (fun p => p.2.2.lctr.toNat ≠ n ∨ p.2.1 = 0) }
  let gone := (s.next.filter (fun p => p.2.2.lctr.toNat = n)).map (·.1)
  let s := { s with next := s.next.filter (fun p => p.2.2.lctr.toNat ≠ n) }
  gone.foldl (fun s y =>
    let c := s.ctx y
    match c.st with
    | .loading => (s.setCtx y { c with st := .idle }).takeLater y
    | .preempt => s.lowerPreq y
    | _ => s) s

/-- A launch cancelled: its units end, the rest of it is never bound. -/
def State.launchDown (s : State) (n : Nat) : State :=
  match SMap.find s.launches n with
  | none => s
  | some l =>
    let s := { s with launches := SMap.put s.launches n { l with cancelling := true },
                      sums := s.sums.filter (fun x => x.2.lctr ≠ n) }
    let s := s.dropNext n
    (s.units.filter (fun u => u.2.lctr = n)).foldl (fun s u => s.cancelUnit u.1) s

/-- Hub records of a graph stopped (R252). -/
def State.stopGraph (s : State) (g : Nat) : State := s.stopRecs (fun r => r.gctr == some g)

/-- A graph cancelled: unfired nodes go, what it has fired is cancelled, a phase among it with its current graph; one level
of graphs for each unit of fuel. -/
def State.graphDownN : Nat → State → Nat → State
  | 0, s, _ => s
  | f + 1, s, g =>
    let ls := (s.launches.filter (fun l => (s.counter l.1).parent = g)).map (·.1)
    let s := { s with graphs := SMap.erase s.graphs g }
    ls.foldl (fun s n =>
      let gs := (s.graphs.filter (fun x => x.2.phase.map (·.1) == some n)).map (·.1)
      gs.foldl (State.graphDownN f) ({ s with phases := SMap.erase s.phases n }.launchDown n)) (s.stopGraph g)

/-- A graph cancelled, with all that stands below it. -/
def State.graphDown (s : State) (g : Nat) : State := State.graphDownN 8192 s g

/-- A phase cancelled: its current graph is cancelled, later graphs never start. -/
def State.phaseDown (s : State) (p : Nat) : State :=
  let s := { s with phases := SMap.erase s.phases p,
                    launches := match SMap.find s.launches p with
                      | some l => SMap.put s.launches p { l with cancelling := true }
                      | none => s.launches }
  ((s.graphs.filter (fun g => g.2.phase.map (·.1) == some p)).map (·.1)).foldl State.graphDown s

/-- A graph cancelled, and the phase it belongs to. -/
def State.cancelGraphN (s : State) (g : Nat) : State :=
  match SMap.find s.graphs g with
  | none => s
  | some x =>
    let s := s.graphDown g
    match x.phase with
    | some (p, _) => s.phaseDown p
    | none => s

/-- A launch cancelled, and the graph it belongs to. -/
def State.cancelLaunchN (s : State) (n : Nat) : State :=
  let p := (s.counter n).parent
  let s := s.launchDown n
  if p ≠ 0x1FFF ∧ (s.counter p).kind = 3 then s.cancelGraphN p else s

/-- A job cancelled: all its phases, graphs, launches and records (R293). -/
def State.cancelJobN (s : State) (j : Nat) : State :=
  if (s.job j).cancelling then s
  else
    let s := s.setJob j { s.job j with cancelling := true }
    let s := ((s.phases.filter (fun p => p.2.job = j)).map (·.1)).foldl State.phaseDown s
    let s := ((s.graphs.filter (fun g => g.2.job = j)).map (·.1)).foldl State.graphDown s
    let s := ((s.launches.filter (fun l => l.2.job = j)).map (·.1)).foldl State.launchDown s
    let s := ((s.units.filter (fun u => u.2.job = j)).map (·.1)).foldl State.cancelUnit s
    (s.jobIrq j 1).irq 0 2

/-! ### Retirement, faults of records, and counters (R251, R266, R286) -/

/-- Decrements a successor: credit of an undeclared node, count of a declared one. `false` is an underflow (R266). -/
def State.decrement (s : State) (owner nid : Nat) : State × Bool :=
  let n := s.node owner nid
  if !n.declared then (s.setNode owner nid { n with credit := n.credit + 1 }, true)
  else if n.count = 0 then (s, false)
  else ({ (s.setNode owner nid { n with count := n.count - 1, ready := s.seq }) with seq := s.seq + 1 }, true)

/-- An asynchronous trap left with a unit (R373). -/
def State.pend (s : State) (u : Nat) (p : Pend) : State :=
  match s.unit? u with
  | some x => if x.ending = none then s.setUnit u { x with pend := x.pend ++ [p] } else s
  | none => s

/-- INFO of an engine-record trap (R368). -/
def recInfo (check queue fcode : Nat) : Nat := 4096 * (check % 16) + 256 * (queue % 8) + fcode

/-- The cause and INFO with which a record fault is delivered (R368). -/
def recCause (fcode check queue : Nat) : Nat × Nat :=
  if fcode = 0x2C then (8, 0x2C) else (0x0E, recInfo check queue fcode)

/-- The job that a record acts for, if it stands. -/
def State.recJob (s : State) (r : Rec) : Option Nat :=
  match r.gctr with
  | some g => (SMap.find s.graphs g).map (·.job)
  | none => ((r.uid.bind s.unit?).map (·.job)).filter (· < 256)

/-- A record fault: its queue is held, its status written and its unit given the trap (R56, R251). An uncorrectable error that
no unit is left to be told of cancels the job (R18). `shown` is the record that the status and the trap show. -/
def State.recFaultAs (s : State) (q : Nat) (r : Rec) (shown : BitVec 128) (fcode check : Nat) (addr : Word) : State :=
  let e := s.engq q
  let s := s.setEngq q { e with fault := e.fault ++ [(fcode, r)] }
  let s := s.recStat r (StatUpd.bad fcode check (q % 8) addr shown.toNat)
  match r.uid.filter (fun u => (s.unit? u).any (fun x => x.ending == none)) with
  | some u =>
    let ci := recCause fcode check (q % 8)
    s.pend u ⟨ci.1, ci.2, addr, shown, q, r.seq⟩
  | none => if fcode = 0x2C then (match s.recJob r with
    | some j => s.cancelJobN j
    | none => s) else s

/-- A fault of a record that is shown as it was pushed, as the walker entered it, or as a chain read it (R251, R257). -/
def State.recFault (s : State) (q : Nat) (r : Rec) (fcode check : Nat) (addr : Word) : State :=
  s.recFaultAs q r (r.raw.getD r.bits) fcode check addr

/-- The successors of a retiring node decremented in list order; an underflow holds the node walker (R266). DESIGN CHOICE
(log 124): those that stand after it in the list are not decremented, whatever the handler's disposition. -/
def State.decrements (s : State) (owner nid : Nat) : List Nat → State
  | [] => s
  | t :: ts =>
    match s.decrement owner t with
    | (s', true) => s'.decrements owner nid ts
    | (s', false) =>
      let s' := s'.nodeStat owner nid (StatUpd.bad 0x2E 0 3 0 (bitsOf (s'.node owner nid).status.toNat 127 0))
      if owner < 2 ^ 32 then
        let q := 8 * (s'.unitAt owner).lastCore + 3
        { s'.recFault q ⟨(s'.node owner nid).status.extractLsb' 0 128, 0, some owner, s'.seq, none, false, [], none, 0, [], none, [], true, false, false, none, none⟩
            0x2E 0 0 with seq := s'.seq + 1 }
      else s'

/-- A node retires: COMPLETE, its successors are decremented, its entry is freed (R266). The entry's status stays until
the entry is declared again (R250). -/
def State.retireNode (s : State) (owner nid : Nat) : State :=
  let n := s.node owner nid
  if !n.declared then s
  else
    let s := s.nodeStat owner nid (StatUpd.flag stComplete)
    let s := s.decrements owner nid (n.succ.takeWhile (· ≠ 0))
    s.setNode owner nid { Node.init with status := (s.node owner nid).status }

/-- A counter advances by 1; reaching its TARGET completes it, and its parent advances (R286, R292). -/
def State.advance : Nat → State → Nat → State
  | 0, s, _ => s
  | f + 1, s, n =>
    let c := s.counter n
    let v := min (2 ^ 48 - 1) (c.value + 1)
    let s := s.setCounter n { c with value := v }
    if c.state = 1 ∧ 2 ≤ c.kind ∧ c.kind ≤ 5 ∧ c.target ≠ 0 ∧ c.target ≤ v ∧ !s.cancelDue n then
      let l := SMap.find s.launches n
      let j := s.ctrJob n
      let s := s.launchStat n (StatUpd.flag stComplete)
      let s := s.setCounter n { c with value := v, state := 2 }
      let s := if c.ien then s.jobIrq j 0 else s
      let s := match l with
        | some l => (match l.node with
          | some (o, i) => s.retireNode o i
          | none => s)
        | none => s
      let s := match SMap.find s.graphs n with
        | some g => (match g.phase with
          | some (p, _) => (match SMap.find s.phases p with
            | some ph => { s with phases := SMap.put s.phases p { ph with done := ph.done + 1 } }
            | none => s)
          | none => s)
        | none => s
      let s := { s with launches := SMap.erase s.launches n, phases := SMap.erase s.phases n,
                        graphs := SMap.erase s.graphs n }
      if c.parent ≠ 0x1FFF then s.advance f c.parent
      else if c.kind = 2 ∨ c.kind = 4 then s.advance f (s.jobCtr j)
      else s
    else s


/-- Depth of counters: no more than there are, a phase that a graph fires having graphs of its own (R286, R290). -/
def ctrDepth : Nat := 8192

/-! ### Barrier records (R170) -/

/-- The 16-byte record of a generic pointer for a party, if it stands in memory that can be reached now. -/
def State.recordAt (s : State) (p : Party) (a : Word) : Option (List Loc) :=
  match (s.locate p .barrier 16 a 16).2 with
  | .ok ls _ => some ls
  | _ => none

/-- The party that a FAILED is set for. DESIGN CHOICE (log 121): a watch-list entry is resolved as a unit-level pointer, by the
unit's own extents, at whatever level it was registered. -/
def State.failParty (s : State) (d : FailDue) : Party :=
  { level := .unit, core := d.core, job := d.job, key := s.jobKey d.job, xtab := d.xtab, dom := d.dom, sup := none,
    race := none, engine := false, task := false }

/-- FAILED set in a record, now or once its home can be reached (R178); and whether the record meets an uncorrectable
error, so that it is not written and the job is to be cancelled (R312). -/
def State.failRecord (s : State) (d : FailDue) : State × Bool :=
  match s.locate (s.failParty d) .barrier 16 d.addr 16 with
  | (s1, .ok ls ts) =>
    if s1.eccBad .barrier ls then (s1, true)
    else
      let r := ofBytes (s1.readLocs ls)
      ((s1.clearTags ts).perform ls (bytesOf 16 (setBits (setBits r 56 56 1) 63 59 0)), false)
  | (s1, .fault _) => (s1, false)
  | (s1, _) => ({ s1 with failing := if s1.failing.contains d then s1.failing else s1.failing ++ [d] }, false)

/-- Records in which FAILED is still to be set are tried again. -/
def State.retryFails (s : State) : State :=
  s.failing.foldl (fun (t : State) d =>
    let r := t.failRecord d
    if r.2 then r.1.cancelJobN d.job else r.1) { s with failing := [] }

/-- The jobs in whose own data the device met an uncorrectable error are cancelled (R18). -/
def State.condemn (s : State) : State := s.condemned.foldl State.cancelJobN { s with condemned := [] }

/-- The effective priority of the unit of a slot (R177, R298); watch-list entries are resolved as by `failParty` (log 121). -/
def State.effPrio (s : State) (slot : Nat) : Nat :=
  let c := s.ctx slot
  let p := s.partyAt slot .unit
  let inh := c.watch.foldl (fun m w =>
    match s.recordAt p w.addr with
    | some ls =>
      let r := ofBytes (s.readLocs ls)
      if w.arrived = bitsOf r 15 0 + 1 then m else max m (bitsOf r 55 48)
    | none => m) c.prio
  if isTask slot then inh else min inh (s.jobCeil (s.unitOf slot).job)

/-! ### Fatal faults (R376, R377) and the end of a service task (R281) -/

/-- A task has ended: the next held service request becomes the one to run, and its request has ended with a result. A task
of the firmware's own ends no request. -/
def State.taskEnded (s : State) (last : Nat) : State :=
  if s.svc.own then { s with svc := { s.svc with running := false, own := false } }
  else
    { s with svc := { s.svc with held := s.svc.held.drop 1, running := false, done := (s.svc.done + 1) % 2 ^ 32, last := last } }

/-- A service task ended by a trap: its context freed, its records stopped as on cancellation (R281). -/
def State.endTask (s : State) (slot last : Nat) : State :=
  let c := s.ctx slot
  let s := match c.uid with
    | some u => { (s.stopWork u) with units := SMap.erase s.units u }
    | none => s
  (s.freeCtx slot).taskEnded last

/-- A service task ended by HALT: its context freed; records that it pushed go on, for the unit that it was (R196, R281). -/
def State.haltTask (s : State) (slot : Nat) : State :=
  let s := match (s.ctx slot).uid with
    | some u => s.setUnit u { s.unitAt u with ending := some .halted }
    | none => s
  (s.freeCtx slot).taskEnded 0

/-- Peer faults for the other units of the launch bound or saved on tile cores of the cluster (R377). -/
def State.peerFaults (s : State) (u lctr core : Nat) : State :=
  if classOf core ≠ .tile then s
  else
    (s.units.filter (fun v => v.1 ≠ u ∧ v.2.lctr = lctr ∧ v.2.ending = none ∧ classOf v.2.lastCore = .tile ∧
        (v.2.lastCore - 32) / 8 = (core - 32) / 8)).foldl (fun s v => s.pend v.1 ⟨0x0F, core, 0, 0, 0, 0⟩) s

/-- A fatal fault of the unit of a slot, with its cause and the frame's ADDR, PC and STATUS (R376). -/
def State.fatal (s : State) (slot cause : Nat) (addr pc status : Word) : State :=
  if isTask slot then s.endTask slot 1
  else
    let c := s.ctx slot
    let core := coreOf slot
    match c.uid with
    | none => s.freeCtx slot
    | some u =>
      let x := s.unitAt u
      let s := s.stopWork u
      let (s, bad) := c.watch.foldl (fun (r : State × Bool) w =>
        let t := r.1.failRecord ⟨x.job, core, x.lctr, c.xtab, w.addr⟩
        (t.1, r.2 || t.2)) (s, false)
      let s := s.setUnit u { s.unitAt u with ending := some .faulted, pins := [], nodes := [], pend := [], lastCore := core }
      let s := s.launchStat x.lctr (StatUpd.bad (0x40 + cause) 0 0 addr ((status ++ pc : BitVec 128).toNat))
      let s := (s.peerFaults u x.lctr core).freeCtx slot
      if cause = 8 ∨ bad then s.cancelJobN x.job else s

end Sys2Proof.Machine
end

