-- ==== Sys2Proof/Machine/Ops.lean ====
section
/-! DEFINITION. The named operations of a control core: retirement and counted loops, taking a trap and returning
from one, unit loads and stores with the side log, waits, saves and fetch. -/

namespace Sys2Proof.Machine

/-- The outcome of a step. -/
abbrev Out := Host.Outcome State Fault Refusal

/-- An instruction as the core executes it: IWORDS of the trap frame (R371) and its size in bytes (R99). -/
structure Ins where
  words : Nat
  size  : Nat
  deriving DecidableEq, Repr

/-- The words and size of an instruction. With a prefix, the trapping word stands in bits 31:0, the prefix above. -/
def ins (i : Instr) : Ins :=
  match encode i with
  | some (64, w) => ⟨w / 2 ^ 32 + w % 2 ^ 32 * 2 ^ 32, 8⟩
  | some (_, w) => ⟨w, 4⟩
  | none => ⟨0, 4⟩

/-! ### Retirement (R99, R113 to R115) -/

/-- The active loop entries of the level, innermost first (R370). -/
def Ctx.entries (c : Ctx) : List LoopEntry := if c.level = .supervisor then c.sloops else c.loops

/-- The context with the level's loop entries replaced. -/
def Ctx.setEntries (c : Ctx) (l : List LoopEntry) : Ctx :=
  if c.level = .supervisor then { c with sloops := l } else { c with loops := l }

/-- The address of the next sequential instruction (R99). -/
def Ctx.nextPc (c : Ctx) (size : Nat) : Word := c.pc + BitVec.ofNat 64 size

/-- The context at a PC, no longer waiting. -/
def Ctx.at (c : Ctx) (pc : Word) : Ctx := { c with pc := pc, held := false, frz := false, frzAt := 0, fetched := none, entered := 0, pushing := [] }

/-- Retirement of an instruction that transfers no control, with the test of the innermost entry (R113). -/
def Ctx.fall (c : Ctx) (size : Nat) : Ctx :=
  match c.entries with
  | e :: es =>
    if e.stop = c.pc ∨ (size = 8 ∧ e.stop = c.pc + 4) then
      if e.count - 1 = 0 then (c.setEntries es).at (e.stop + 4)
      else (c.setEntries ({ e with count := e.count - 1 } :: es)).at e.start
    else c.at (c.nextPc size)
  | [] => c.at (c.nextPc size)

/-- Whether a target lies outside an entry's range (R114). -/
def LoopEntry.leaves (e : LoopEntry) (t : Word) : Bool := t.toNat < e.start.toNat || e.stop.toNat < t.toNat

/-- Retirement of a taken branch or jump: entries that it leaves deactivate, inner first (R114). -/
def Ctx.goto (c : Ctx) (t : Word) : Ctx := (c.setEntries (c.entries.dropWhile (fun e => e.leaves t))).at t

/-- The current context's instruction retires. -/
def State.retire (s : State) (c : Ctx) (i : Ins) : Out := .next (s.setCur (c.fall i.size))

/-- The current context's instruction transfers control and retires. -/
def State.jump (s : State) (c : Ctx) (t : Word) : Out := .next (s.setCur (c.goto t))

/-- The instruction waits: nothing of it has taken effect, and it is tried again at the unit's next turn. One that a freeze holds
takes its place in issue order (R385). -/
def State.wait (s : State) (frz : Bool) : Out :=
  let c := s.cur
  if frz && c.frzAt = 0 then .next { s.setCur { c with held := true, frz := true, frzAt := s.seq + 1 } with seq := s.seq + 1 }
  else .next (s.setCur { c with held := true, frz := frz, frzAt := if frz then c.frzAt else 0 })

/-! ### Locations of a unit's bytes for the side log (R126) -/

/-- A number for the byte at a generic pointer that two pointers to one byte share: a job address, a scratchpad byte
or the pointer itself. -/
def Party.place (p : Party) (a : Word) : Nat :=
  let w := bitsOf a.toNat 63 60
  if w = 0 then xBase (p.extent (bitsOf a.toNat 59 56)).1 + bitsOf a.toNat 55 0
  else if w = 1 then 2 ^ 60 + spadAddr p.core (bitsOf a.toNat 59 0)
  else if w = 2 then 2 ^ 60 + spadAddr (32 + (p.core - 32) / 8 * 8 + bitsOf a.toNat 59 56) (bitsOf a.toNat 55 0)
  else a.toNat

/-- The party that a side-log entry is made for. -/
def State.entryParty (s : State) (slot : Nat) (e : SideEntry) : Party :=
  s.partyAt slot (if e.sup then .supervisor else .unit)

/-- Whether an access overlaps a store that stands in the slot's side log (R126). -/
def State.logOverlap (s : State) (slot : Nat) (p : Party) (a : Word) (n : Nat) : Bool :=
  (s.ctx slot).side.any (fun e =>
    let x := (s.entryParty slot e).place e.addr
    let y := p.place a
    x < y + n && y < x + e.data.length)

/-! ### Stores of a unit (R125, R408) -/

/-- What a unit's access has come to. -/
inductive Res where
  | ok (s : State) (bs : List Byte)
  | fault (s : State) (f : AccFault)
  | wait (s : State) (frz : Bool)
  deriving DecidableEq, Repr

/-- Entries at the tail of a slot's side log. -/
def State.logPut (s : State) (slot : Nat) (es : List SideEntry) : State :=
  let c := s.ctx slot
  s.setCtx slot { c with side := c.side ++ es }

/-- Whether `n` more entries find room in the side log (R407). -/
def State.logRoom (s : State) (slot n : Nat) : Bool := (s.ctx slot).side.length + n ≤ 32

/-- Data cut into entries of at most 256 bytes (R408), with fuel for the entries. -/
def cutEntries (sup atom : Bool) : Nat → Word → List Byte → List SideEntry
  | 0, _, _ => []
  | _ + 1, _, [] => []
  | f + 1, a, bs => ⟨a, false, 0, false, atom, sup, false, bs.take 256⟩ :: cutEntries sup atom f (a + 256) (bs.drop 256)

/-- A store at one address retires into the side log, its tags stepped as it enters; a full log stalls it (R316, R408). -/
def State.storeLog (s : State) (slot : Nat) (p : Party) (a : Word) (bs : List Byte) (atom : Bool) (ts : List Nat) : Res :=
  let es := cutEntries (p.level == .supervisor) atom (bs.length / 256 + 1) a bs
  if !s.logRoom slot es.length then .wait s false
  else match s.race p .store false a ts with
    | .error f => .fault s f
    | .ok s1 => .ok (s1.logPut slot es) []

/-- A store of a slot's unit at one address: at its home, or into the side log where a page is absent or the log is not
empty (R125). `atom` marks a single-copy atomic part (R124). -/
def State.store (s : State) (slot : Nat) (p : Party) (a : Word) (bs : List Byte) (atom : Bool) : Res :=
  match s.locate p .store 1 a bs.length with
  | (s1, .fault f) => .fault s1 f
  | (s1, .held z ts) => if (s1.ctx slot).side.isEmpty then .wait s1 z else s1.storeLog slot p a bs atom ts
  | (s1, .absent ts) => s1.storeLog slot p a bs atom ts
  | (s1, .ok ls ts) =>
    if (s1.ctx slot).side.isEmpty then
      match s1.race p .store false a ts with
      | .error f => .fault s1 f
      | .ok s2 => if s1.eccBad .store ls then .fault s1 ⟨8, a, 0⟩ else .ok (s2.perform ls bs) []
    else s1.storeLog slot p a bs atom ts

/-- A load of a slot's unit at one address (R125, R126). -/
def State.load (s : State) (slot : Nat) (p : Party) (a : Word) (n : Nat) : Res :=
  match s.locate p .load 1 a n with
  | (s1, .fault f) => .fault s1 f
  | (s1, .held z _) => .wait s1 z
  | (s1, .absent _) => .wait s1 false
  | (s1, .ok ls ts) =>
    let idle := s1.unread s
    if s1.logOverlap slot p a n then .wait idle false
    else match s1.race p .load false a ts with
      | .error f => .fault idle f
      | .ok s2 => if s1.eccBad .load ls then .fault idle ⟨8, a, 0⟩ else .ok (s2.touchReads ls) (s2.readLocs ls)

/-! ### Taking a trap (R368 to R371) -/

/-- Bits of a trap frame's STATUS (R371). -/
def frameStatus (info cause rcount : Nat) (async : Bool) (level : Level) : Word :=
  BitVec.ofNat 64 (2 ^ 48 * (info % 65536) + 2 ^ 40 * (cause % 256) + 2 ^ 20 * async.toNat +
    2 ^ 18 * (if level = .supervisor then 1 else 0) + rcount % 32)

/-- The 24 bytes of a replay entry in a frame (R371). -/
def Replay.bytes (r : Replay) : List Byte :=
  wordBytes 8 r.pc ++ bytesOf 4 r.word.toNat ++ bytesOf 4 0 ++ wordBytes 8 r.ea

/-- The 512 bytes of a trap frame (R371). -/
def frameBytes (c : Ctx) (pc status addr : Word) (words : Nat) (extra : BitVec 128) (rs : List Replay) : List Byte :=
  wordBytes 8 pc ++ wordBytes 8 status ++ wordBytes 8 addr ++ bytesOf 8 words ++ bytesOf 16 extra.toNat ++
    bytesOf 16 0 ++ (List.range 8).flatMap (fun i => wordBytes 8 (c.rd (i + 1))) ++
    (rs.take 16).flatMap Replay.bytes ++ bytesOf (24 * (16 - rs.length)) 0

/-- What a trap reports (R368). -/
structure TrapInfo where
  cause : Nat
  info  : Nat
  addr  : Word
  extra : BitVec 128
  deriving DecidableEq, Repr

/-- Bit 63:60 0x0 extent 14, the supervisor code (R369). -/
def scodePtr : Word := 0x0E00000000000000

/-- Extent 15, the supervisor data (R369). -/
def sdataPtr : Word := 0x0F00000000000000

/-- A slot's trap frame written at its TFRAME: a store that performs before the handler's first instruction, so that it
waits for its pages and for the side log (R370). -/
def State.writeFrame (s : State) (slot : Nat) (a : Word) (bs : List Byte) : Res :=
  let p := s.partyAt slot .supervisor
  match s.locate p .store 1 a bs.length with
  | (s1, .fault f) => .fault s1 f
  | (s1, .held z _) => .wait s1 z
  | (s1, .absent _) => .wait s1 false
  | (s1, .ok ls ts) =>
    if !(s1.ctx slot).side.isEmpty then .wait s1 false
    else match s1.race p .store false a ts with
      | .error f => .fault s1 f
      | .ok s2 => if s1.eccBad .store ls then .fault s1 ⟨8, a, 0⟩ else .ok (s2.perform ls bs) []

/-- TAKING A TRAP: in a service task its frame is written in the firmware's own data and the task ends (R281); at supervisor
level, for an uncorrectable error, without
a handler, or when the frame cannot be written it is fatal (R375, R376); at unit level the frame is written at TFRAME
and the handler starts at HENTRY of extent 14 at supervisor level (R370). `pc` is the frame's PC. A frame whose write has to
wait: `back` stands, and the trap is raised again at a later turn (log 113). -/
def State.takeTrap (back s : State) (slot : Nat) (t : TrapInfo) (words : Nat) (async : Bool) (pc : Word)
    (rs : List Replay) : State :=
  let c := s.ctx slot
  let j := (s.unitOf slot).job
  let status := frameStatus t.info t.cause rs.length async c.level
  if isTask slot then
    { s with fwMem := Memory.writeN s.fwMem Config.taskFrame (frameBytes c pc status t.addr words t.extra rs) }.fatal slot
      t.cause t.addr pc status
  else if c.level ≠ .unit ∨ t.cause = 8 ∨ xSize (s.trapExtent j 0) = 0 then
    s.fatal slot t.cause t.addr pc status
  else
    match s.writeFrame slot c.tframe (frameBytes c pc status t.addr words t.extra rs) with
    | .fault s1 _ => s1.fatal slot t.cause t.addr pc status
    | .wait s1 z => (back.keepPages s1).setCtx slot { back.ctx slot with frz := z }
    | .ok s1 _ =>
      let c1 := s1.ctx slot
      let s2 := s1.setCtx slot { c1 with
        level := .supervisor, pc := pcOf (scodePtr + BitVec.ofNat 64 (s1.raw (0x700000 + 0x40 * j + 32)).toNat),
        sloops := [], held := false, frz := false, frzAt := 0, fetched := none, entered := 0, replay := [] }
      match c1.uid with
      | some u => s2.setUnit u { s2.unitAt u with tstat := some (c.tframe, status, rs) }
      | none => s2

/-- A synchronous trap of the instruction that the current context executes. -/
def State.trap (s : State) (i : Ins) (t : TrapInfo) : Out :=
  .next (s.takeTrap s s.slot t i.words false s.cur.pc s.cur.replay)

/-- An illegal-instruction trap (R59). -/
def State.illegal (s : State) (i : Ins) (extra : BitVec 128) : Out := s.trap i ⟨1, 0, s.cur.pc, extra⟩

/-- A permission trap that is of no access: an instruction below its privilege, or one that names a counter or a queue that
is not of its job (R59, R179, R189, R190). The spec gives no INFO and no ADDR for it: DESIGN CHOICE (log 13), both 0. -/
def State.denied (s : State) (i : Ins) : Out := s.trap i ⟨2, 0, 0, 0⟩

/-- The trap of a failed check of R122. -/
def AccFault.trap (f : AccFault) : TrapInfo := ⟨checkCause f.check, f.check, f.addr, BitVec.ofNat 128 f.extra⟩

/-- A failed access check of the instruction being executed. -/
def State.faulted (s : State) (i : Ins) (f : AccFault) : Out := s.trap i f.trap

/-- Runs `k` on the state and bytes of an access that succeeded; else waits or traps. -/
def Res.thenDo (r : Res) (i : Ins) (k : State → List Byte → Out) : Out :=
  match r with
  | .ok s bs => k s bs
  | .fault s f => s.faulted i f
  | .wait s z => s.wait z

/-- The order in which traps pending together are delivered: peers, lanes, then records (R373). -/
def Pend.rank (p : Pend) : Nat :=
  if p.cause = 0x0F then 0
  else if p.cause = 0x0E ∨ (p.cause = 8 ∧ p.info ≠ 0x0C) then 2 ^ 20 * 2 + p.ord % 8
  else 2 ^ 20 + p.ord

/-- Whether a pending trap is delivered before another: records of one queue in pop order (R373). -/
def Pend.before (p q : Pend) : Bool := p.rank < q.rank || (p.rank == q.rank && p.seq < q.seq)

/-- The pending trap to be delivered first: of equal rank, the oldest. -/
def firstPend : List Pend → Option Pend
  | [] => none
  | p :: ps =>
    match firstPend ps with
    | some q => if q.before p then some q else some p
    | none => some p

/-- The bytes that a store of `n` bytes takes from its source (R120). -/
def Ctx.storeFrom (c : Ctx) (r n : Nat) : List Byte :=
  if n = 16 then wordBytes 8 (c.rd r) ++ wordBytes 8 (c.rd (r + 1)) else wordBytes n (c.rd r)

/-- The replay entry of a scalar access at PC by its size code and offset; a store's holds its data (R128, R371). -/
def Ctx.scalarReplay (c : Ctx) (w : BitVec 32) (a : BitVec 5) (sz : BitVec 3) (m : Imm) (src : Option Nat) : Option Replay :=
  (accessSize sz).map (fun (n : Nat) => ⟨c.pc, w, c.rd a.toNat + BitVec.ofInt 64 (m.int * n),
    match src with
    | some r => BitVec.ofNat 128 (ofBytes (c.storeFrom r n))
    | none => 0, 0, 0⟩)

/-- The replay entry of a scalar access or vector load that waits at PC (R128, R146, R371). -/
def accessReplay (c : Ctx) (w next : BitVec 32) : Option Replay :=
  match decodeWord w next with
  | .ok (.ld _ a sz off) => c.scalarReplay w a sz (.plain off) none
  | .ok (.st r a sz off) => c.scalarReplay w a sz (.plain off) (some r.toNat)
  | .ok (.vld _ a mk _) => some ⟨c.pc, w, c.rd a.toNat, 0, 0, c.rdM mk.toNat⟩
  | .ok (.vlds _ a b mk _) => some ⟨c.pc, w, c.rd a.toNat, (c.rd b.toNat).setWidth 128, 0, c.rdM mk.toNat⟩
  | .ok (.vgath _ a b mk _) => some ⟨c.pc, w, c.rd a.toNat, 0, c.rdV b.toNat, c.rdM mk.toNat⟩
  | .ok (.xPrefix hi n2) =>
    (match decodeWord n2 0 with
    | .ok (.ld _ a sz off) => c.scalarReplay n2 a sz (.joined hi off) none
    | .ok (.st r a sz off) => c.scalarReplay n2 a sz (.joined hi off) (some r.toNat)
    | _ => none)
  | _ => none

/-! ### Fetch (R116, R117) -/

/-- What fetching a word gives: a fault with its cause and failing check, a wait, or the word. -/
inductive Fetch where
  | fault (cause info : Nat)
  | wait (frz : Bool)
  | word (w : BitVec 32)
  deriving DecidableEq, Repr

/-- Fetches the word at an address for a slot, with the checks of R117 in their order. DESIGN CHOICE (log 116): from a
discarded page the word is zero, and the read is counted, as R125 states of a load. -/
def State.fetchWord (s : State) (slot : Nat) (pc : Word) : State × Fetch :=
  let p := s.partyAt slot (s.ctx slot).level
  let ext := p.extent (bitsOf pc.toNat 59 56)
  let e := ext.1
  let off := bitsOf pc.toNat 55 0
  if bitsOf pc.toNat 63 60 ≠ 0 then (s, .fault 2 1)
  else if !xValid e || xSize e ≤ off then (s, .fault 3 2)
  else if xW e || xSeal e then (s, .fault 2 3)
  else
    let ja := xBase e + off
    if p.task then (s, .word (BitVec.ofNat 32 (ofBytes (Memory.readN s.fwMem ja 4))))
    else
      let (s1, r) := s.pageRun ext p.job .load ja
      match r.state with
      | .present pa =>
        let a := pa + ja % 65536
        let ls := (List.range 4).map (fun i => Loc.mem (a + i) p.key)
        if s1.frozen a then (s1, .wait true)
        else if !s1.memUp a then (s1, .wait false)
        else if s1.eccBad .load ls then (s1, .fault 8 8)
        else (s1.touchReads ls, .word (BitVec.ofNat 32 (ofBytes (s1.readLocs ls))))
      | .absent => (s1.request p.job (ja / 65536) 2, .wait false)
      | .discarded => (s1.grow gDiscarded 1, .word 0)
      | _ => (s1, .fault 2 6)

/-- The instruction word at PC, with the word after it where it is a prefix (R39, R117). -/
inductive FetchIns where
  | fault (cause info : Nat)
  | wait (frz : Bool)
  | words (w next : BitVec 32)
  deriving DecidableEq, Repr

/-- Fetches the instruction at an address for a slot. A prefix whose second word lies beyond the extent is an extent-bound
fault. -/
def State.fetchAt (s : State) (slot : Nat) (pc : Word) : State × FetchIns :=
  match s.fetchWord slot pc with
  | (s1, .fault c i) => (s1, .fault c i)
  | (s1, .wait z) => (s1, .wait z)
  | (s1, .word w) =>
    if isX w then
      match s1.fetchWord slot (pc + 4) with
      | (s2, .fault c i) => (s2, .fault c i)
      | (s2, .wait z) => (s2, .wait z)
      | (s2, .word n) => (s2, .words w n)
    else (s1, .words w 0)

/-- The instruction at a slot's PC: of one that has issued and waits the words that it was fetched as, else fetched now. -/
def State.fetchIns (s : State) (slot : Nat) : State × FetchIns :=
  let c := s.ctx slot
  match c.held, c.fetched with
  | true, some (w, n) => (s, .words w n)
  | _, _ => s.fetchAt slot c.pc

/-- The frame's INSTR field of the words at PC (R50): the word, under a prefix the prefixed word below it. -/
def rawWords (w n : BitVec 32) : Nat := if isX w then w.toNat <<< 32 + n.toNat else w.toNat

/-- The decode trap of the words at PC, if they are no instruction (R50, R117). -/
def decodeTrap (pc : Word) (w n : BitVec 32) : Option (TrapInfo × Nat) :=
  match decodeWord w n with
  | .error _ => some (⟨1, 0, pc, 0⟩, rawWords w n)
  | .ok _ => none

/-- The trap that the fetch or the decoding of a slot's next instruction raises, if any. -/
def State.fetchTrap (s : State) (slot : Nat) : Option (TrapInfo × Nat) :=
  let pc := (s.ctx slot).pc
  match (s.fetchIns slot).2 with
  | .fault k i => some (⟨k, i, pc, 0⟩, 0)
  | .words w n => decodeTrap pc w n
  | .wait _ => none

/-! ### Asynchronous traps and saves -/

/-- The instruction at a slot's PC as a replay entry, if it is a scalar access or a vector load that has issued and waits
(R128, R146). -/
def State.heldAccess (s : State) (slot : Nat) : Option (Replay × Nat) :=
  let c := s.ctx slot
  if !c.held then none
  else match (s.fetchIns slot).2 with
    | .words w n => (accessReplay c w n).map (fun r => (r, if isX w then 8 else 4))
    | _ => none

/-- Whether a replay entry is a scalar load's. -/
def Replay.isLoad (r : Replay) : Bool :=
  match decodeWord r.word 0 with
  | .ok (.ld ..) => true
  | _ => false

/-- A slot with a waiting access made the last replay entry and PC moved past it; `forced` says at a forced save, where
stores and vector loads are captured as loads are (R128, R370, R379). DESIGN CHOICE: an entry counts as retired at a loop's
end word and is not tested there again (log 114), and a scalar store that a full side log stalls is captured (log 115). -/
def State.captureAccess (s : State) (slot : Nat) (forced : Bool) : State :=
  let c := s.ctx slot
  match (s.heldAccess slot).filter (fun x => forced || x.1.isLoad) with
  | some (r, n) => s.setCtx slot { (c.fall n) with replay := (c.replay ++ [r]).take 16 }
  | none => s.setCtx slot { c with held := false, frz := false, frzAt := 0 }

/-- The asynchronous trap that is due first at a boundary of a slot's unit is taken (R370, R373). -/
def State.asyncTrap (s : State) (slot : Nat) : State :=
  match (s.ctx slot).uid with
  | none => s
  | some u =>
    let x := s.unitAt u
    match firstPend x.pend with
    | none => s
    | some p =>
      let s1 := (s.captureAccess slot false).setUnit u { x with
        pend := x.pend.erase p, trapRec := if p.cause = 0x0E then some (p.ord, p.seq) else none }
      let c1 := s1.ctx slot
      s.takeTrap s1 slot ⟨p.cause, p.info, p.addr, p.extra⟩ 0 true c1.pc c1.replay

/-- Whether seals cover a range wholly, one entry for each unit of fuel (R397). -/
def covered (seals : List (Nat × Nat)) : Nat → Nat → Nat → Bool
  | 0, a, e => e ≤ a
  | f + 1, a, e =>
    if e ≤ a then true
    else match seals.find? (fun r => r.1 ≤ a && a < r.1 + r.2) with
      | some r => covered seals f (r.1 + r.2) e
      | none => false

/-- Whether seals of a job cover a range of job addresses (R397). -/
def State.sealed (s : State) (j a n : Nat) : Bool := covered (s.job j).seals ((s.job j).seals.length + 1) a (a + n)

/-- The decoded instruction that has issued at a slot's PC and waits there. -/
def State.heldIns (s : State) (slot : Nat) : Option Instr :=
  if !(s.ctx slot).held then none
  else match (s.fetchIns slot).2 with
    | .words w n => (decodeWord w n).toOption
    | _ => none

/-- Whether an instruction that waits is past the point where a save could abandon it: a vector store or VQST whose
checks have passed (R146, R157), or a SEAL whose seal stands at its home (R168, R199). -/
def State.bindingWait (s : State) (slot : Nat) : Bool :=
  match s.heldIns slot with
  | some (.vst ..) | some (.vsts ..) | some (.vscat ..) | some (.vqstI8 ..) | some (.vqstN8 ..) | some (.vqstI16 ..)
  | some (.vqstBf ..) | some (.vqstMxi8 ..) | some (.vqstMxf4 ..) | some (.vqstMxf8 ..) | some (.vqstRi32 ..) => true
  | some (.seal d a) =>
    let c := s.ctx slot
    let p := s.partyAt slot c.level
    let ea := c.rd a.toNat
    s.sealed p.job (xBase (p.extent (bitsOf ea.toNat 59 56)).1 + bitsOf ea.toNat 55 0) (c.rd d.toNat).toNat
  | _ => false

/-- Whether an atomic or barrier request of a unit is held at a slice port: a home operation in flight (R389). -/
def State.heldAtSlice (s : State) (u : Nat) : Bool := s.frozenAt.any (fun h => h.req.op.isSome && h.req.owner == some u)

/-- Whether the instruction at a slot's PC must finish before a save or an asynchronous trap: one that waits for the reply
of a remote AMO or CAS, has a request held at a slice, has partly entered the side log or a lane's queue, or can no longer be abandoned (R146, R157,
R199). -/
def State.awaiting (s : State) (slot : Nat) : Bool :=
  (s.ctx slot).entered ≠ 0 || !(s.ctx slot).pushing.isEmpty || s.bindingWait slot || match (s.ctx slot).uid with
  | some u => s.remotes.any (fun (r : Remote) => r.uid == u && r.awaits) || s.heldAtSlice u
  | none => false

/-- Whether a save of a slot's unit must wait: for the instruction at PC, or for the acknowledgment of a RED that has been
sent to another package, from the side log too (R195, R199, R410). -/
def State.saveHeld (s : State) (slot : Nat) : Bool :=
  s.awaiting slot || (s.ctx slot).side.any (·.sent) || match (s.ctx slot).uid with
  | some u => s.remotes.any (fun (r : Remote) => r.uid == u)
  | none => false

/-- Whether an asynchronous trap is due at the slot's boundary: its unit runs at unit level (R373). -/
def State.asyncDue (s : State) (slot : Nat) : Bool :=
  let c := s.ctx slot
  !s.awaiting slot && (c.st == .running || c.st == .preempt) && c.level == .unit &&
    (match c.uid with | some u => !(s.unitAt u).pend.isEmpty | none => false)

/-- A slot's unit gives up its context: the save begins (R195, R295). -/
def State.startSave (s : State) (slot : Nat) (forced : Bool) : State :=
  let s1 := if forced then s.captureAccess slot true else s
  let c := s1.ctx slot
  s1.setCtx slot { c with st := .saving, forced := forced, held := false, frz := false, frzAt := 0, preq := false,
                          replay := if forced then c.replay else [] }

/-- A yield point waits; a pending pre-emption request is answered by a save (R199, R200). -/
def State.yieldPoint (s : State) (frz : Bool) : Out :=
  if s.cur.preq && !s.saveHeld s.slot then .next (s.startSave s.slot false) else s.wait frz

/-- Whether a slot's unit waits at a yield point (R200). -/
def State.atYieldPoint (s : State) (slot : Nat) : Bool :=
  match s.heldIns slot with
  | some (.barwait ..) | some (.cwait ..) | some (.waitt ..) => true
  | _ => false

/-! ### Returning from a trap (R194, R372) -/

/-- Whether a faulted record did not fault at its pop: it is the node walker's, at a fire or a retirement. -/
def Rec.notPopped (r : Rec) (q : Nat) : Bool := q % 8 == 3 && r.fired

/-- The queue that a faulted record of a unit holds, and the record: the one whose trap the unit was given last, in its own
queue, though the unit may have been resumed on another core since (R251, R360). -/
def State.heldQueue (s : State) (n : Nat) (uid : Option Nat) : Option (Nat × (Nat × Rec)) :=
  match uid.bind (fun u => (s.unitAt u).trapRec) with
  | some (q, seq) => if q % 8 = n then
      ((s.engq q).fault.find? (fun x => x.2.uid == uid && x.2.seq == seq)).map (fun x => (q, x)) else none
  | none => none

/-- A held queue after a unit's handler returns: the record is popped again, or dropped (R251, R372). What faulted at a fire
fires again, or never; what faulted at a retirement has retired. DESIGN CHOICE (log 122): a format word that a dropped MTILE
takes with it is removed and not popped, so POPPED of q = 5 does not count it. -/
def State.releaseHold (s : State) (n : Nat) (uid : Option Nat) (drop : Bool) : State :=
  match s.heldQueue n uid with
  | none => s
  | some (q, f, r) =>
    let e := s.engq q
    let s1 := s.setEngq q { e with fault := e.fault.erase (f, r), recs := if drop ∨ r.notPopped q then e.recs else r :: e.recs }
    if drop then
      let s2 := s1.recStat r (StatUpd.flag stCancelled)
      if r.notPopped q then s2.setNode r.owner r.nid { s2.node r.owner r.nid with fired := true }
      else if bitsOf r.bits.toNat 127 122 = 2 then
        match r.uid with
        | some u =>
          let c := s2.core (q / 8)
          s2.setCore (q / 8) { c with fmtq := match c.fmtq.find? (fun w => w.1 == u) with
            | some w => c.fmtq.erase w
            | none => c.fmtq }
        | none => s2
      else s2
    else s1

/-- The replay entries that a frame holds, with the operands captured beside them (R371, R379). -/
def frameReplays (ops : List Replay) (bs : List Byte) (n : Nat) : List Replay :=
  (List.range (min n 16)).map (fun k =>
    let b := bs.drop (0x80 + 24 * k)
    let old := ops[k]?.getD ⟨0, 0, 0, 0, 0, BitVec.allOnes 256⟩
    { old with pc := bytesWord (b.take 8), word := BitVec.ofNat 32 (ofBytes ((b.drop 8).take 4)),
               ea := bytesWord ((b.drop 16).take 8) })

/-- RETURNING FROM A TRAP: the frame at TFRAME is read as a supervisor load, its disposition applied, PC, g1 to g8 and
the level restored (R372). `reinj` re-issues the frame's replay entries (R194). -/
def State.trapReturn (s : State) (i : Ins) (reinj : Bool) : Out :=
  let c := s.cur
  (s.load s.slot s.party c.tframe 512).thenDo i (fun s bs =>
    let mem := ofBytes ((bs.drop 8).take 8)
    let kept : Option (Word × Word × List Replay) := match c.uid with
      | some u => (s.unitAt u).tstat.filter (fun t => t.1 == c.tframe)
      | none => none
    let ro := match kept with
      | some (_, st, _) => st.toNat
      | none => mem
    let ops := match kept with
      | some (_, _, rs) => rs
      | none => []
    let disp := bitsOf mem 23 22
    let cause := bitsOf ro 47 40
    let rcount := bitsOf ro 4 0
    let pc := pcOf (bytesWord (bs.take 8))
    if disp = 3 ∨ (!reinj ∧ rcount ≠ 0) then s.illegal i 0
    else if disp = 2 then
      .next (s.fatal s.slot cause (bytesWord ((bs.drop 16).take 8)) pc (BitVec.ofNat 64 ro))
    else
      let g := (List.range 8).foldl (fun c k => c.wr (k + 1) (bytesWord ((bs.drop (0x40 + 8 * k)).take 8))) c
      let c1 := { (g.at pc) with
        level := if isTask s.slot then .management else if bitsOf ro 19 18 = 1 then .supervisor else .unit,
        sloops := [], replay := if reinj then frameReplays ops bs rcount else [] }
      let s1 := s.setCur c1
      .next (if cause = 0x0E then s1.releaseHold (bitsOf ro 58 56) c.uid (disp = 1) else s1))

end Sys2Proof.Machine
end

