-- ==== Sys2Proof/Machine/Jobs.lean ====
section
/-! DEFINITION. Launch packets and their acceptance, submission windows, jobs, cancellation's completion, phases,
graphs, contributions and firmware services (R277 to R293). -/

namespace Sys2Proof.Machine

/-! ### Launches -/

/-- NUNIT of a packet, units minus 1. -/
def Launch.nunit (l : Launch) : Nat := l.ctl 10 0
/-- CLASS of a packet. -/
def Launch.cls (l : Launch) : Nat := l.ctl 15 13
/-- GANG of a packet. -/
def Launch.gang (l : Launch) : Bool := l.ctl 16 16 == 1
/-- STRICT of a packet. -/
def Launch.strict (l : Launch) : Bool := l.ctl 17 17 == 1
/-- PRIO of a packet. -/
def Launch.prio (l : Launch) : Nat := l.ctl 31 24
/-- DEADLINE of a packet. -/
def Launch.deadline (l : Launch) : Nat := l.field 24 8
/-- PMASK of a packet. -/
def Launch.pmask (l : Launch) : Nat := l.field 64 8
/-- XTAB of a packet. -/
def Launch.xtab (l : Launch) : Nat := l.field 8 8

/-- Whether a launch has units still to be bound, or is a phase not yet entered (R284 USED). -/
def State.waiting (s : State) (n : Nat) (l : Launch) : Bool :=
  !l.cancelling && (if l.cls = 2 then (SMap.find s.phases n).isNone else l.bound.length < l.nunit + 1)

/-- USED of a queue (R284). -/
def State.used (s : State) (q : Nat) : Nat := (s.launches.filter (fun l => l.2.queue = q && s.waiting l.1 l.2)).length

/-- SQCFG of a queue (R284). -/
def State.sqcfg (s : State) (q : Nat) : Nat := (s.raw (0x200000 + 0x100 * q)).toNat

/-- Whether a queue is of class L. -/
def State.classL (s : State) (q : Nat) : Bool := bitOf (s.sqcfg q) 62

/-- SQCFG.JOB. -/
def State.queueJob (s : State) (q : Nat) : Nat := bitsOf (s.sqcfg q) 55 48

/-- TICKETS of a queue. -/
def State.tickets (s : State) (q : Nat) : Nat := bitsOf (s.sqcfg q) 47 32

/-- What submitting a packet gives. -/
inductive Accept where
  | full
  | refused (reason : Nat)
  | accepted (ctr : Nat)
  deriving DecidableEq, Repr

/-- One bits among the low `n` of a number. -/
def popCount (v : Nat) : Nat → Nat
  | 0 => 0
  | n + 1 => (bitOf v n).toNat + popCount v n

/-- The reason for which a packet is refused, 0 for none (R280). -/
def State.packetReason (s : State) (l : Launch) (byUnit : Bool) : Nat :=
  let phase : Bool := l.cls == 2
  let resv : Bool := l.field 72 40 != 0 || l.ctl 127 61 != 0 || l.ctl 47 45 != 0 || l.ctl 23 19 != 0 ||
    l.ctl 12 11 != 0 || bitsOf l.pmask 63 48 != 0 || (l.cls == 0 && bitsOf l.pmask 47 32 != 0) ||
    (phase && (l.xtab != 0 || l.field 32 32 != 0 || l.pmask != 0))
  let ctr := l.ctl 44 32
  let parent := l.ctl 60 48
  let pc := s.counter parent
  if resv then 1
  else if 3 ≤ l.cls || (phase && byUnit) then 2
  else if l.gang && 2 * popCount l.pmask 64 < l.nunit + 1 then 3
  else if !s.ctrOfJob l.job ctr || (s.counter ctr).state = 1 then 4
  else if l.ctl 18 18 = 1 && !(s.ctrOfJob l.job parent && pc.kind = 3 && pc.state = 1) then 5
  else if !phase && l.pmask = 0 then 6
  else if (if phase then l.field 0 8 % 64 ≠ 0 else l.field 0 8 % 4 ≠ 0 ∨ l.xtab % 256 ≠ 0) ∨ l.status % 32 ≠ 0 then 7
  else if (s.counter (s.jobCtr l.job)).state = 2 then 8
  else 0

/-- A packet submitted to a queue for a job (R280, R286). One accepted while the job's cancel settles is cancelled with it
(R293). Its counter's runs are those of no earlier launch (R402). -/
def State.submit (s : State) (q job packet : Nat) (byUnit : Bool) (node : Option (Nat × Nat)) (graph : Option Nat) :
    State × Accept :=
  let l : Launch := { queue := q, job := job, packet := packet, seq := s.seq, translated := false, bound := [],
                      overdue := false, cancelling := (s.job job).cancelling, node := node, graph := graph }
  if !bitOf (s.sqcfg q) 63 || 64 ≤ s.used q then (s, .full)
  else
    let r := s.packetReason l byUnit
    if r ≠ 0 then (s, .refused r)
    else
      let n := l.ctl 44 32
      let c := s.counter n
      let s1 := s.setCounter n { c with
        kind := if l.cls = 2 then 4 else 2, value := 0, state := 1,
        target := if l.cls = 2 then 2 ^ 48 - 1 else l.nunit + 1,
        parent := if l.ctl 18 18 = 1 then l.ctl 60 48 else 0x1FFF }
      ({ s1 with seq := s.seq + 1, launches := SMap.put s1.launches n l,
                 runs := s1.runs.filter (fun r => r.1 / 2 ^ 32 ≠ n) }, .accepted n)

/-! ### Host submission (R282) -/

/-- The job of a function (R457). -/
def State.fnJob (s : State) (f : Nat) : Nat := (s.raw (0xE00000 + 0x20 * f)).toNat % 256

/-- Whether a function may reach a submission queue (R282, R456). -/
def State.fnQueue (s : State) (f q : Nat) : Bool := q < 64 && (f == 0 || (f ≤ 16 && s.queueOfJob (s.fnJob f) q))

/-- An access of a function that is dropped, or an Unsupported Request, is counted (R282, R457). -/
def State.fnError (s : State) (f : Nat) : State := { s with fnErr := SMap.set s.fnErr 0 f (SMap.get s.fnErr 0 f + 1) }

/-- A committed packet accepted or refused (R280, R282). -/
def State.commit (s : State) (q packet : Nat) : State :=
  let bad (s : State) (e : Nat) : State :=
    s.setSub q { s.sub q with refused := ((s.sub q).refused + 1) % 2 ^ 32, lasterr := e }
  match s.submit q (s.queueJob q) packet false none none with
  | (s1, .full) => bad s1 0xFF
  | (s1, .refused r) => bad s1 r
  | (s1, .accepted _) => s1

/-- Whether a commit must wait: a BAR4 write of its function has not performed, or an earlier commit to its queue waits
(R282, R324; log 85). -/
def State.commitHeld (s : State) (fn q : Nat) : Bool :=
  s.heldReq.any (fun r => r.1 == fn && r.2.write) || s.heldCommit.any (fun c => c.2.1 == q)

/-- Whether a write covers window bytes 112 to 127. -/
def covers (off n : Nat) : Bool := off ≤ 112 && 128 ≤ off + n

/-- SUBMISSION_COMMIT (R282, R324). -/
def execSubmissionCommit (fn q off : Nat) (data : List Byte) (s : State) : Out :=
  if off + data.length ≤ 128 ∧ covers off data.length then
    if !s.fnQueue fn q then .next (s.fnError fn)
    else
      let s1 := { s with subWin := Memory.writeN s.subWin (128 * q + off) data }
      let packet := ofBytes (Memory.readN s1.subWin (128 * q) 128)
      if s.commitHeld fn q then .next { s1 with heldCommit := s1.heldCommit ++ [(fn, q, packet)] }
      else .next (s1.commit q packet)
  else .next s

/-- SUBMISSION_WINDOW_WRITE (R282). -/
def execSubmissionWindowWrite (fn q off : Nat) (data : List Byte) (s : State) : Out :=
  if off + data.length ≤ 128 ∧ !covers off data.length then
    if !s.fnQueue fn q then .next (s.fnError fn)
    else .next { s with subWin := Memory.writeN s.subWin (128 * q + off) data }
  else .next s

/-! ### Jobs (R291 to R293) -/

/-- The offset of a job table entry. -/
def jobOff (j : Nat) : Nat := 0x100000 + 0x100 * j

/-- Reserved bits of CTL taken out (R291). -/
def jobCtl (v : Word) : Word := v &&& 0xC00000000003FFFF

/-- Work of the job that has been accepted and has not ended (R293). -/
def State.jobBusy (s : State) (j : Nat) : Bool :=
  s.launches.any (fun l => l.2.job == j) || s.units.any (fun u => u.2.job == j) ||
    s.graphs.any (fun g => g.2.job == j) || s.phases.any (fun p => p.2.job == j)

/-- VALID set in an entry that is not valid: JCTR is taken ACTIVE with VALUE 0 (R292). -/
def State.activateJob (s : State) (job : Nat) (ctl : Word) : State :=
  let s1 := s.setRaw (jobOff job) (jobCtl ctl &&& 0xBFFFFFFFFFFFFFFF)
  let n := s1.jobCtr job
  let s2 := { s1.setCounter n { s1.counter n with state := 1, value := 0, parent := 0x1FFF } with
    streams := s1.streams.filter (fun x => x.1 / 131072 ≠ job), txq := s1.txq.filter (fun x => x.1 / 131072 ≠ job)
    runs := s1.runs.filter (fun r => r.1 / 2 ^ 32 ≠ jobDom job) }
  s2.setJob job { s2.job job with active := true, cancelling := false, clearing := false }

/-- JOB_ACTIVATE. -/
def execJobActivate (job : Nat) (ctl : Word) (s : State) : Out :=
  if job < 256 ∧ ctl.getLsbD 63 ∧ !s.jobValid job then .next (s.activateJob job ctl) else .next s

/-- JOB_CANCEL_WRITE: 1 written to CANCEL of a VALID entry (R293). -/
def execJobCancelWrite (job : Nat) (s : State) : Out :=
  if job < 256 ∧ s.jobValid job then .next (s.cancelJobN job) else .next s

/-- VALID cleared: the entry is no longer a job, and its streams end (R424). -/
def State.endJob (s : State) (j : Nat) : State :=
  { (s.setRaw (jobOff j) (s.jobWord j 0 &&& 0x3FFFFFFFFFFFFFFF)).setJob j
      { s.job j with active := false, clearing := false, cancelling := false } with
    streams := s.streams.filter (fun x => x.1 / 131072 ≠ j), txq := s.txq.filter (fun x => x.1 / 131072 ≠ j)
    failing := s.failing.filter (fun d => d.job ≠ j), checked := s.checked.filter (fun c => c.1 / 2 ^ 32 ≠ jobDom j) }

/-- VALID cleared by a write: accepted work is cancelled first (R293). -/
def State.invalidateJob (s : State) (job : Nat) : State :=
  if s.jobBusy job || (s.job job).cancelling then
    let s1 := s.cancelJobN job
    s1.setJob job { s1.job job with clearing := true }
  else s.endJob job

/-- JOB_INVALIDATE. -/
def execJobInvalidate (job : Nat) (s : State) : Out :=
  if job < 256 ∧ s.jobValid job then .next (s.invalidateJob job) else .next s

/-- The counters of a job that are ACTIVE move to CANCELLED (R293). -/
def State.cancelCounters (s : State) (j : Nat) : State :=
  (s.counters.filter (fun c => s.ctrJob c.1 = j && c.2.state = 1 && c.2.kind ≠ 1)).foldl (fun s c =>
    let s := s.setCounter c.1 { c.2 with state := 3 }
    if c.2.ien then s.jobIrq j 0 else s) s

/-- Whether the issued WRROWs of some cancelled work have completed their arrivals (R239, R293). -/
def State.arrived (s : State) (mine : Nat → Bool) : Bool :=
  s.lanes.all (fun l => l.2.later.all (fun a => match a.2 with
    | .unit _ _ _ _ _ w _ => !(w.uid.isSome && mine w.lctr)
    | _ => true))

/-- CANCEL_COMPLETE: the work of a counter has stopped and settled (R293). Naming JCTR it settles the job's cancel. -/
def execCancelComplete (ctr : Nat) (s : State) : Out :=
  let c := s.counter ctr
  let job : Bool := c.kind = 5 ∧ (s.job c.job).cancelling
  if !s.cancelDue ctr || !s.arrived (fun n => n == ctr || (job && s.ctrJob n == c.job)) then .next s
  else if c.kind = 5 ∧ (s.job c.job).cancelling then
    let s0 := (s.launches.filter (fun l => l.2.job = c.job)).foldl (fun (s : State) l =>
      s.launchStat l.1 (StatUpd.flag stCancelled)) s
    let s1 := s0.cancelCounters c.job
    let s2 := { s1 with launches := s1.launches.filter (fun l => l.2.job ≠ c.job) }
    let s3 := s2.setJob c.job { s2.job c.job with cancelling := false }
    .next (if (s3.job c.job).clearing then s3.endJob c.job else s3)
  else
    let s1 := s.launchStat ctr (StatUpd.flag stCancelled)
    let s2 := s1.setCounter ctr { c with state := 3 }
    let s3 := if c.ien then s2.jobIrq (s.ctrJob ctr) 0 else s2
    .next { s3 with launches := SMap.erase s3.launches ctr }

/-! ### Launches that are overdue (R296) -/

/-- LAUNCH_OVERDUE: TIME has passed the deadline of a waiting launch of class D; counted once. -/
def execLaunchOverdue (ctr : Nat) (s : State) : Out :=
  match SMap.find s.launches ctr with
  | some l =>
    if l.cls ≠ 2 ∧ s.waiting ctr l ∧ !s.classL l.queue ∧ !l.overdue ∧ l.deadline < s.time.toNat then
      let s1 := { s with launches := SMap.put s.launches ctr { l with overdue := true } }
      .next (s1.setSub l.queue { s1.sub l.queue with overdue := (s1.sub l.queue).overdue + 1 })
    else .next s
  | none => .next s

/-! ### Phases and graph images (R289, R290) -/

/-- A fault in a read of dispatch: its code reported, the work cancelled (R293). -/
def State.dispatchFault (s : State) (n code : Nat) : State :=
  (s.launchStat n (StatUpd.bad code 0 0 0 0)).cancelLaunchN n

/-- STATUS of a launch or phase translated at dispatch (R293, R402); a freeze holds its block (R385). -/
def State.statusWalk (s : State) (l : Launch) : DevRead :=
  if l.status = 0 then .bytes []
  else match s.walk l.job l.status with
    | ⟨.present pa, w, _, _⟩ => if !w then .fault else if s.frozen (pa + l.status % 65536) then .held else .bytes []
    | ⟨.absent, _, _, _⟩ => .absent (l.status / 65536)
    | ⟨.discarded, _, _, _⟩ => .absent (l.status / 65536)
    | _ => .fault

/-- A phase that cannot go on is cancelled with 0x62. -/
def State.phaseFault (s : State) (p : Nat) : State := (s.launchStat p (StatUpd.bad 0x62 0 0 0 0)).phaseDown p

/-- The variant of a phase for a budget: among those present with FOOT at most the budget the one of largest FOOT,
of equal FOOT the lowest; its GLIST (R290). -/
def chooseVariant (desc : List Byte) (budget : Nat) : Option Nat :=
  ((List.range 4).foldl (fun (best : Option (Nat × Nat)) v =>
    let foot := ofBytes ((desc.drop (16 * v)).take 8)
    let gl := ofBytes ((desc.drop (16 * v + 8)).take 8)
    if gl = 0 ∨ budget < foot then best
    else match best with
      | some (f, g) => if f < foot then some (foot, gl) else some (f, g)
      | none => some (foot, gl)) none).map (·.2)

/-- Whether a phase packet stands at the head of its queue (R290). -/
def State.atHead (s : State) (n : Nat) (l : Launch) : Bool :=
  s.waiting n l && !(s.launches.any (fun m => m.2.queue == l.queue && m.2.seq < l.seq && s.waiting m.1 m.2))

/-- PHASE_ENTRY (R290). -/
def execPhaseEntry (ctr : Nat) (s : State) : Out :=
  match SMap.find s.launches ctr with
  | none => .next s
  | some l =>
    if l.cls ≠ 2 ∨ !s.atHead ctr l ∨ s.boot.code ≠ 2 then .next s
    else
      match s.statusWalk l, s.devRead ctr l.job 64 (l.field 0 8) with
      | .fault, _ => .next ((s.launchStat ctr (StatUpd.bad 0x61 0 0 0 0)).phaseDown ctr)
      | .absent p, _ => .next (s.request l.job p 0)
      | .held, _ => .next s
      | .bad, _ => .next (s.cancelJobN l.job)
      | .bytes _, .fault => .next (s.phaseFault ctr)
      | .bytes _, .absent p => .next (s.request l.job p 0)
      | .bytes _, .held => .next s
      | .bytes _, .bad => .next (s.cancelJobN l.job)
      | .bytes _, .bytes desc =>
        match chooseVariant desc (s.jobBudget l.job).toNat with
        | none => .next s
        | some gl =>
          match s.devRead ctr l.job 16 gl with
          | .fault => .next (s.phaseFault ctr)
          | .absent p => .next (s.request l.job p 0)
          | .held => .next s
          | .bad => .next (s.cancelJobN l.job)
          | .bytes h =>
            let n := ofBytes (h.take 2)
            if n = 0 ∨ 1024 < n ∨ (h.drop 2).any (· ≠ 0) then .next (s.phaseFault ctr)
            else
              match s.devRead ctr l.job (8 * n) (gl + 16) with
              | .fault => .next (s.phaseFault ctr)
              | .absent p => .next (s.request l.job p 0)
              | .held => .next s
              | .bad => .next (s.cancelJobN l.job)
              | .bytes gs =>
                let c := s.counter ctr
                let s1 := s.setCounter ctr { c with target := n }
                let ph : Phase := { ctr := ctr, job := l.job, done := 0,
                                    graphs := (List.range n).map (fun i => bytesWord ((gs.drop (8 * i)).take 8)) }
                .next { s1 with phases := SMap.put s1.phases ctr ph }

/-- A node of a graph image from its NODE record (R265, R266, R289): NID 0, a queue that an image may not name, or a record
that is no NODE, is a fault of that node; a NID declared before is one of the later record, and the earlier node stands. -/
def imageNode (base : Nat) (nodes : SMap Node) (r : BitVec 128) : SMap Node :=
  let nid := bitsOf r.toNat 104 97
  let bad (f : Nat) : SMap Node :=
    let n := SMap.get nodes Node.init nid
    let st := BitVec.ofNat 256 ((StatUpd.bad f 0 3 0 r.toNat).apply n.status.toNat)
    SMap.put nodes nid { n with fired := n.fired || !n.declared, status := st }
  match decodeRecord 3 r with
  | .error e => bad e.fcode
  | .ok (.node _ q p b) =>
    if nid = 0 then bad 0x2E
    else if q.toNat ≠ 0 ∧ q.toNat ≠ 4 ∧ q.toNat ≠ 7 then bad 0x24
    else
      let n := SMap.get nodes Node.init nid
      if n.declared ∨ p.toNat < n.credit then bad 0x2E
      else SMap.put nodes nid { n with
        declared := true, count := p.toNat - n.credit, credit := 0, target := q.toNat, blk := b, status := r.setWidth 256,
        ready := base + nodes.length }
  | .ok _ => bad 0x22

/-- GRAPH_START: the next graph of a phase starts once the one before has completed (R289, R290). -/
def execGraphStart (ctr : Nat) (s : State) : Out :=
  match SMap.find s.phases ctr with
  | none => .next s
  | some p =>
    if s.graphs.any (fun g => g.2.phase.map (·.1) == some ctr) then .next s
    else
      match p.graphs[p.done]? with
      | none => .next s
      | some a =>
        match s.devRead ctr p.job 16 a.toNat with
        | .fault => .next (s.phaseFault ctr)
        | .absent pg => .next (s.request p.job pg 0)
        | .held => .next s
        | .bad => .next (s.cancelJobN p.job)
        | .bytes h =>
          let nn := ofBytes (h.take 2)
          let gc := ofBytes ((h.drop 2).take 2)
          if nn = 0 ∨ 255 < nn ∨ 8192 ≤ gc ∨ (h.drop 4).any (· ≠ 0) ∨ !s.ctrOfJob p.job gc ∨
              (s.counter gc).state = 1 then .next (s.phaseFault ctr)
          else
            match s.devRead ctr p.job (16 * nn) (a.toNat + 16) with
            | .fault => .next (s.phaseFault ctr)
            | .absent pg => .next (s.request p.job pg 0)
            | .held => .next s
            | .bad => .next (s.cancelJobN p.job)
            | .bytes rs =>
              let recs := (List.range nn).map (fun i => BitVec.ofNat 128 (ofBytes ((rs.drop (16 * i)).take 16)))
              let s1 := s.setCounter gc { s.counter gc with kind := 3, state := 1, value := 0, target := nn, parent := ctr }
              let g : Graph := { gctr := gc, job := p.job, nodes := recs.foldl (imageNode s.seq) [], phase := some (ctr, p.done) }
              .next { s1 with graphs := SMap.put s1.graphs gc g, seq := s1.seq + nn }

/-! ### Contributions (R277) -/

/-- Whether everything that a unit pushed has completed (R277). -/
def State.unitDrained (s : State) (u : Nat) : Bool :=
  let mine : Rec → Bool := fun r => r.uid == some u
  !(s.engqs.any (fun q => (q.2.recs ++ q.2.run).any mine || q.2.fault.any (fun x => mine x.2))) &&
  !(s.cslots.any (fun c => (match c.2.entry with | some r => mine r | none => false) ||
    (match c.2.trigger with | some (_, r) => mine r | none => false))) &&
  !(s.lanes.any (fun l => l.2.words.any (fun w => w.uid == some u) || l.2.issued.any (fun w => w.uid == some u))) &&
  !(s.remotes.any (fun r => r.uid == u)) && !((s.unitAt u).nodes.any (fun n => n.2.ripe)) &&
  s.lanes.all (fun l => l.2.fills.all (fun (f : FillWait) => f.uid != some u))

/-- UNIT_CONTRIBUTION: a halted unit's work has all performed; its counter advances and what is left of it goes. A service
task has no counter (R281). -/
def execUnitContribution (unit : Nat) (s : State) : Out :=
  match s.unit? unit with
  | none => .next s
  | some x =>
    if x.ending ≠ some .halted ∨ !s.unitDrained unit then .next s
    else
      let s1 := { s with units := SMap.erase s.units unit,
                         cores := s.cores.map (fun c => (c.1, { c.2 with fmtq := c.2.fmtq.filter (fun w => w.1 ≠ unit) })) }
      .next (if x.cls = .head then s1 else State.advance ctrDepth s1 x.lctr)

/-! ### Firmware services (R281) -/

/-- SVCREQ: a request is held, or dropped while 16 are. -/
def execSvcreq (value : Word) (s : State) : Out :=
  if 16 ≤ s.svc.held.length then
    .next { s with svc := { s.svc with done := (s.svc.done + 1) % 2 ^ 32, last := 0xFE } }
  else .next { s with svc := { s.svc with held := s.svc.held ++ [value] } }

/-- An extent table image of 256 bytes (R398). -/
def xtabOf (bs : List Byte) : SMap (BitVec 128) :=
  (List.range 16).foldl (fun m i => SMap.set m 0 i (BitVec.ofNat 128 (ofBytes ((bs.drop (16 * i)).take 16)))) []

/-- Entries that each queue of a core has popped so far, by its QSTAT number (R188, R209). -/
def State.popped (s : State) (core q : Nat) : Nat :=
  if q < 5 then (s.engq (8 * core + q)).popped
  else if q = 5 then (s.core core).fmtPopped
  else if q = 6 then (List.range 16).foldl (fun n i => n + (s.laneOf (16 * core + i)).popped) 0
  else (s.quadOf core).popped

/-- The counts of all queues of a core when a context is created (R188). -/
def State.popBases (s : State) (core : Nat) : SMap Nat :=
  (List.range 8).foldl (fun m q => SMap.set m 0 q (s.popped core q)) []

/-- The bytes of the loaded firmware image. -/
def Boot.bytes (b : Boot) : List Byte := b.image.map (·.2)

/-- A task of the image's service table starts on context 1 of the headwater core for a request, its own or a held one
(R281). A code that is not in the table ends a held request. -/
def State.startTask (s : State) (r : Word) (own : Bool) : State :=
  match Config.service s.boot.bytes (bitsOf r.toNat 63 48) with
  | none => if own then s else s.taskEnded 0xFF
  | some (entry, img) =>
    let u : Unit := { Unit.init with job := 256, lctr := 8448, cls := .head, lastCore := 80, xtab := xtabOf img }
    let s1 := { (s.setUnit s.nextUid u) with nextUid := s.nextUid + 1, svc := { s.svc with running := true, own := own } }
    s1.setCtx 161 { Ctx.init with
      g := SMap.set [] 0 1 (r &&& 0xFFFFFFFFFFFF), pc := pcOf entry, level := .management, xtab := xtabOf img,
      uid := some s.nextUid, st := .running, popBase := s.popBases 80 }

/-- SERVICE_TASK_START: while verified firmware runs, the next held request starts a task, or else an event of the
firmware's own does (R14, R281). -/
def execServiceTaskStart (s : State) : Out :=
  if s.boot.code ≠ 2 ∨ s.svc.running ∨ (s.ctx 161).st ≠ .idle then .next s
  else
    match s.svc.held with
    | r :: _ => .next (s.startTask r false)
    | [] => (match Config.firmwareTask s.boot.bytes s.tick with
      | some r => .next (s.startTask r true)
      | none => .next s)

/-- SERVICE_TASK_TRAP: a trap of the task, of a record that it pushed or of its next instruction, ends it as by a fatal
fault (R281). -/
def execServiceTaskTrap (s : State) : Out :=
  let c := s.ctx 161
  if !s.svc.running ∨ c.st ≠ .running then .next s
  else
    match firstPend (s.unitOf 161).pend with
    | some p => .next (s.takeTrap s 161 ⟨p.cause, p.info, p.addr, p.extra⟩ 0 true c.pc c.replay)
    | none => (match s.fetchTrap 161 with
      | some (t, w) => .next (s.takeTrap s 161 t w false c.pc c.replay)
      | none => .next s)

end Sys2Proof.Machine
end

