-- ==== Sys2Proof/Machine/Sched.lean ====
section
/-! DEFINITION. The slot table, context images, saves, binds and resumes, scratchpad owners, and the firmware's
decisions (R276, R294 to R298, R350 to R357, R379, R402, R464). -/

namespace Sys2Proof.Machine

/-! ### Context images (R379) -/

/-- The image that an eddy register is held as (R91). -/
def eddyBytes (e : Eddy) : List Byte := bytesOf 16 (2 ^ 64 * e.tag.toNat + 2 ^ 32 * e.idx.toNat + e.res.toNat)

/-- The register that an image restores, and whether it breaks (R91). -/
def eddyFrom (bs : List Byte) : Eddy × Bool :=
  let v := ofBytes bs
  if bitsOf v 127 80 ≠ 0 ∨ bitsOf v 30 23 = 255 then (⟨0, 0, 0⟩, true)
  else (⟨BitVec.ofNat 32 v, BitVec.ofNat 16 (v / 2 ^ 64), BitVec.ofNat 32 (v / 2 ^ 32)⟩, false)

/-- The 24 bytes of a loop entry, an inactive one zero. -/
def loopBytes : Option LoopEntry → List Byte
  | some e => wordBytes 8 e.start ++ wordBytes 8 e.stop ++ wordBytes 8 e.count
  | none => bytesOf 24 0

/-- Outer and inner entry of a list with the innermost first. -/
def loopPair (l : List LoopEntry) : Option LoopEntry × Option LoopEntry :=
  match l with
  | [] => (none, none)
  | [o] => (some o, none)
  | i :: o :: _ => (some o, some i)

/-- The 288 bytes of a side-log entry (R407). -/
def SideEntry.bytes (e : SideEntry) : List Byte :=
  wordBytes 8 e.addr ++ bytesOf 2 e.data.length ++ bytesOf 1 e.red.toNat ++
    bytesOf 1 (if e.red then 16 * e.aop + (if e.wide then 3 else 2) else 0) ++ bytesOf 1 e.atom.toNat ++ bytesOf 19 0 ++
    e.data ++ bytesOf (256 - e.data.length) 0

/-- The 288 bytes of a replay operand slot. -/
def Replay.slotBytes (r : Replay) : List Byte :=
  (if r.index = 0 then bytesOf 16 r.oper.toNat ++ bytesOf 240 0 else bytesOf 256 r.index.toNat) ++ bytesOf 32 r.mask.toNat

/-- Bytes 0x0000 to 0x5FFF of the image of a context. -/
def imageBytes (c : Ctx) (forced : Bool) : List Byte :=
  let st := frameStatus 0 0 (min c.replay.length 16) false c.level ||| (if forced then 0x200000 else 0)
  let u := loopPair c.loops
  let v := loopPair c.sloops
  frameBytes c c.pc st 0 0 0 c.replay ++
  (List.range 23).flatMap (fun i => wordBytes 8 (c.rd (i + 9))) ++
  wordBytes 8 c.fpst ++ wordBytes 8 c.tframe ++ bytesOf 8 (c.epoch.toNat + 256 * c.spadUsed.toNat) ++
  wordBytes 8 c.guard ++ bytesOf 8 0 ++
  loopBytes u.1 ++ loopBytes u.2 ++ loopBytes v.1 ++ loopBytes v.2 ++
  (List.range 4).flatMap (fun i => match c.watch[i]? with
    | some w => wordBytes 8 w.addr ++ bytesOf 8 w.arrived
    | none => bytesOf 16 0) ++ bytesOf 128 0 ++
  (List.range 16).flatMap (fun i => bytesOf 16 (xEntry c.xtab i).toNat) ++
  (List.range 7).flatMap (fun i => bytesOf 32 (c.rdM (i + 1)).toNat) ++ bytesOf 32 0 ++
  (List.range 64).flatMap (fun i => eddyBytes (c.rdE i)) ++
  (List.range 32).flatMap (fun i => bytesOf 256 (c.rdV i).toNat) ++
  (List.range 16).flatMap (fun i => match c.replay[i]? with
    | some r => r.slotBytes
    | none => bytesOf 288 0) ++
  (List.range 32).flatMap (fun i => match c.side[i]? with
    | some e => e.bytes
    | none => bytesOf 288 0)

/-- A number of `n` bytes at an offset of an image. -/
def imgNat (bs : List Byte) (o n : Nat) : Nat := ofBytes ((bs.drop o).take n)

/-- A loop entry of an image, if active; its start is an address that PC takes (R28; log 87). -/
def imgLoop (bs : List Byte) (o : Nat) : List LoopEntry :=
  if imgNat bs (o + 16) 8 = 0 then []
  else [⟨pcOf (toWord (imgNat bs o 8)), toWord (imgNat bs (o + 8) 8), toWord (imgNat bs (o + 16) 8)⟩]

/-- The context that an image restores, in the slot of a context whose bank stays (R350, R379). -/
def imageCtx (bs : List Byte) (base : Ctx) : Ctx :=
  let st := imgNat bs 8 8
  let rc := min (bitsOf st 4 0) 16
  let level : Level := if bitsOf st 19 18 = 1 then .supervisor else .unit
  let es := (List.range 64).map (fun i => (i, eddyFrom ((bs.drop (0x600 + 16 * i)).take 16)))
  { base with
    g := ((List.range 8).foldl (fun m i => SMap.set m 0 (i + 1) (toWord (imgNat bs (0x40 + 8 * i) 8))) [] |>
      fun m => (List.range 23).foldl (fun m i => SMap.set m 0 (i + 9) (toWord (imgNat bs (0x200 + 8 * i) 8))) m)
    v := (List.range 32).foldl (fun m i => SMap.set m 0 i (BitVec.ofNat 2048 (imgNat bs (0xA00 + 256 * i) 256))) []
    m := (List.range 7).foldl (fun m i => SMap.set m 0 (i + 1) (BitVec.ofNat 256 (imgNat bs (0x500 + 32 * i) 32))) []
    e := es.foldl (fun m x => SMap.set m ⟨0, 0, 0⟩ x.1 x.2.1) []
    pc := pcOf (toWord (imgNat bs 0 8))
    fpst := (toWord (imgNat bs 0x2B8 8) &&& 0xFF) ||| (if es.any (fun x => x.2.2) then 0x40 else 0)
    level := level
    loops := imgLoop bs 0x2F8 ++ imgLoop bs 0x2E0
    sloops := imgLoop bs 0x328 ++ imgLoop bs 0x310
    xtab := (List.range 16).foldl (fun m i => SMap.set m 0 i (BitVec.ofNat 128 (imgNat bs (0x400 + 16 * i) 16))) []
    side := (List.range 32).flatMap (fun i =>
      let o := 0x3C00 + 288 * i
      let n := min (imgNat bs (o + 8) 2) 256
      if n = 0 then []
      else [{ addr := toWord (imgNat bs o 8), red := imgNat bs (o + 10) 1 == 1, aop := imgNat bs (o + 11) 1 / 16,
              wide := imgNat bs (o + 11) 1 % 4 == 3, atom := imgNat bs (o + 12) 1 == 1, sup := level == .supervisor, sent := false,
              data := (bs.drop (o + 32)).take n }])
    watch := (List.range 4).flatMap (fun i =>
      let a := imgNat bs (0x340 + 16 * i) 8
      if a = 0 then [] else [⟨toWord a, imgNat bs (0x348 + 16 * i) 8 % 65537⟩])
    guard := toWord (imgNat bs 0x2D0 8)
    epoch := BitVec.ofNat 6 (imgNat bs 0x2C8 8)
    spadUsed := bitOf (imgNat bs 0x2C8 8) 8
    tframe := toWord (imgNat bs 0x2C0 8 / 512 * 512)
    replay := (List.range rc).map (fun k =>
      let o := 0x80 + 24 * k
      let p := 0x2A00 + 288 * k
      { pc := toWord (imgNat bs o 8), word := BitVec.ofNat 32 (imgNat bs (o + 8) 4), ea := toWord (imgNat bs (o + 16) 8),
        oper := BitVec.ofNat 128 (imgNat bs p 16), index := BitVec.ofNat 2048 (imgNat bs p 256),
        mask := BitVec.ofNat 256 (imgNat bs (p + 256) 32) })
    held := false, frz := false, preq := false }

/-- The device as it reads and writes the system window for the slot table (R294). -/
def sysParty (s : State) : Party :=
  { level := .management, core := 80, job := 256, key := s.slotKey ((s.raw 0x900020).toNat % 256), xtab := [], dom := 8448,
    sup := none, race := none, engine := false, task := false }

/-- A unit's serial number by launch and index, if it is saved. -/
def State.savedUnit (s : State) (n idx : Nat) : Option Nat :=
  (s.units.find? (fun u => u.2.lctr = n && u.2.index = idx && u.2.image.isSome && u.2.ending = none)).map (·.1)

/-! ### Owners of scratchpads (R356) -/

/-- The address in the spill areas of a byte of a frame of a core. -/
def spillAddr (job core f b : Nat) : Nat := ((job * 48 + (core - 32)) * 64 + f) * 65536 + b

/-- Whether a job has a spill area with a frame of a core. -/
def State.spilled (s : State) (job core f : Nat) : Bool :=
  s.spillMem.any (fun c => spillAddr job core f 0 ≤ c.1 && c.1 < spillAddr job core f 0 + 65536)

/-- The bytes of a spilled frame as its job's key gives them: under another key than they were spilled under, what that key
makes of them (R356, R393). -/
def State.spillRead (s : State) (job core f : Nat) : List Byte :=
  let a := spillAddr job core f 0
  let bs := Memory.readN s.spillMem a 65536
  let k := s.jobKey job
  match SMap.find s.spillKey (a / 65536) with
  | some wk => if wk = k then bs else
      (List.range 512).flatMap (fun i =>
        crossKey (s.keyBytes wk) (s.keyBytes k) (Config.spillSector (a / 128 + i)) ((bs.drop (128 * i)).take 128))
  | none => bs

/-- One frame spilled for the outgoing job, under its key, and restored for the incoming one (R356, R393). -/
def State.moveFrame (s : State) (core f : Nat) : State :=
  let c := s.core core
  let base := spadAddr core (65536 * f)
  let s1 := match c.outgoing with
    | some j => if c.written.contains f then
        { s with spillMem := Memory.writeN s.spillMem (spillAddr j core f 0) (Memory.readN s.spad base 65536)
                 spillKey := SMap.put s.spillKey (spillAddr j core f 0 / 65536) (s.jobKey j) } else s
    | none => s
  let s2 := { s1 with spad := Memory.clear s1.spad base 65536 }
  let s3 := match c.owner with
    | some j => { s2 with spad := Memory.writeN s2.spad base (s2.spillRead j core f) }
    | none => s2
  let rest := c.spill.filter (· ≠ f)
  s3.setCore core { c with spill := rest, written := c.written.filter (· ≠ f),
                           outgoing := if rest.isEmpty then none else c.outgoing }

/-- The owner of a tile core's scratchpad changes: frames to spill or restore are listed, the others zeroed, tiles
set to +0 (R356). -/
def State.changeOwner (s : State) (core : Nat) (new : Option Nat) : State :=
  let c := s.core core
  if classOf core ≠ .tile ∨ c.owner = new then s
  else
    let move := (List.range 64).filter (fun f => (c.owner.isSome && c.written.contains f) ||
      (match new with | some j => s.spilled j core f | none => false))
    let keep := (List.range 64).filter (fun f => !move.contains f)
    let spad := keep.foldl (fun m f => Memory.clear m (spadAddr core (65536 * f)) 65536) s.spad
    { (s.setCore core { c with owner := new, outgoing := c.owner, spill := move, tiles := [],
                               written := if c.owner.isSome then c.written else [] }) with spad := spad }

/-- SCRATCHPAD_SPILL_COMPLETE: a frame has been spilled and restored. -/
def execScratchpadSpillComplete (core frame : Nat) (s : State) : Out :=
  if (s.core core).spill.contains frame then .next (s.moveFrame core frame) else .next s

/-! ### Translation of a launch at dispatch (R278, R318, R402) -/

/-- Runs of a range of pages built until `left` runs have been met; `last` is the page before. -/
def State.buildRuns (s : State) (dom j : Nat) : Nat → Nat → Nat → Option Run → State
  | 0, _, _, _ => s
  | n + 1, page, left, last =>
    let r := s.walk j (65536 * page)
    let same : Bool := match last with
      | none => false
      | some l => l.w == r.w && l.chk == r.chk && (match l.state, r.state with
        | .present a, .present b => b == a + 65536
        | x, y => x == y)
    if !same && left = 0 then s
    else
      (s.putPageRun dom j page r).buildRuns dom j n (page + 1) (if same then left else left - 1) (some r)

/-- Tags of the checked pages of a range of pages set to none (R318). -/
def State.clearPages (s : State) (dom j page n : Nat) : State :=
  (List.range n).foldl (fun s i =>
    let r := s.runOf dom j (65536 * (page + i))
    let s := s.noteChecked j (page + i) r
    if r.chk then s.clearShadow j r.shadow else s) s

/-- The sections of a launch's extents (R272). -/
def State.sectionsOf (s : State) (l : Launch) : List Section := s.sections.filter (fun c => c.job == l.job && c.xtab == l.xtab)

/-- The first page of a section's extent that is not there to be written, with the kind of its request (R272, R406). -/
def State.sectionAbsent (s : State) (n : Nat) (l : Launch) (x : SMap (BitVec 128)) : Option (Nat × Nat) :=
  ((s.sectionsOf l).filterMap (fun c =>
    let e := xEntry x c.ext
    if !xValid e then none
    else ((pageParts (xSize e / 65536 + 2) (xBase e) (xSize e)).filterMap (fun part =>
      match (s.runOf n l.job part.1).state with
      | .absent => some (part.1 / 65536, 1)
      | .discarded => some (part.1 / 65536, 3)
      | _ => none)).head?)).head?

/-- The images of the sections of a launch's extents, and zeros in the rest of those extents, written before its first unit
starts (R272). DESIGN CHOICE (log 128): a page that translation refuses, or that lies in another package, is left out. -/
def State.loadSections (s : State) (n : Nat) (l : Launch) (x : SMap (BitVec 128)) : State :=
  (s.sectionsOf l).foldl (fun s c =>
    let e := xEntry x c.ext
    let bytes := (c.data ++ List.replicate (xSize e - c.data.length) 0).take (xSize e)
    if !xValid e then s
    else
      (pageParts (xSize e / 65536 + 2) (xBase e) (xSize e)).foldl (fun (s : State) part =>
        match (s.runOf n l.job part.1).state with
        | .present pa =>
          s.perform ((List.range part.2).map (fun i => Loc.mem (pa + part.1 % 65536 + i) (s.jobKey l.job)))
            (bytes.drop (part.1 - xBase e))
        | _ => s) s) s

/-- What translating a launch gives. -/
inductive Transl where
  | ok (s : State)
  | absent (page kind : Nat)
  /-- A freeze holds what it reads or writes (R385). -/
  | held
  /-- What it reads has an uncorrectable error (R18). -/
  | bad
  | fault (code : Nat)
  deriving DecidableEq, Repr

/-- A launch's operand ranges translated before its first unit starts; its status begins at zero (log 16). -/
def State.translate (s : State) (n : Nat) (l : Launch) : Transl :=
  match s.devRead n l.job 256 l.xtab with
  | .fault => .fault 0x60
  | .absent p => .absent p 0
  | .held => .held
  | .bad => .bad
  | .bytes bs =>
    match s.statusWalk l with
    | .fault => .fault 0x61
    | .absent p => .absent p 0
    | .held => .held
    | .bad => .bad
    | .bytes _ =>
      if l.translated then .ok s
      else
        let x := xtabOf bs
        let s1 := { s with runs := s.runs.filter (fun r => r.1 / 2 ^ 32 ≠ n) }
        let s2 := s1.buildRuns n l.job 1 (l.xtab / 65536) 1 none
        let s3 := if l.status = 0 then s2 else
          (s2.buildRuns n l.job 1 (l.status / 65536) 1 none).jobWrite n l.job l.status (bytesOf 32 0)
        let s4 := (List.range 16).foldl (fun s i =>
          let e := xEntry x i
          if xValid e && xSize e ≠ 0 then
            let p0 := xBase e / 65536
            let np := (xBase e + xSize e - 1) / 65536 + 1 - p0
            let s := s.buildRuns n l.job np p0 256 none
            if xChk e then s.clearPages n l.job p0 np else s
          else s) s3
        match s4.sectionAbsent n l x with
        | some (p, k) => .absent p k
        | none =>
          let s5 := s4.loadSections n l x
          .ok { s5 with launches := SMap.put s5.launches n { l with translated := true } }

/-! ### NEXT (R294, R295) -/

/-- The island whose HOLD holds binds to a core (R443, R449). -/
def bindIsland (core : Nat) : Option Nat :=
  if core < 32 then some (13 * (core / 4) + 8 + core % 4) else if core < 80 then some (104 + (core - 32) / 8) else none

/-- Whether an island lets units be bound to a core. -/
def State.bindable (s : State) (core : Nat) : Bool :=
  match bindIsland core with
  | some i => !(s.island i).hold && (s.island i).cur == 0
  | none => true

/-- NEXT of a slot as words, bits 255:192 first (R294). -/
def nextWords (op : Nat) (r : NextRec) : List Word :=
  [toWord (2 ^ 61 * op + 2 ^ 60 * r.pre.toNat + 2 ^ 35 * r.lctr.toNat + 2 ^ 24 * r.unit.toNat + 2 ^ 16 * r.prio.toNat +
    2 ^ 8 * r.job.toNat), r.save, r.load]

/-- The NEXT words of a slot written (R294). -/
def State.writeNext (s : State) (slot op : Nat) (r : NextRec) : State :=
  let b := 0x400000 + 0x80 * slot
  ((s.setRaw (b + 0x18) ((nextWords op r).getD 0 0)).setRaw (b + 0x10) r.save).setRaw (b + 0x08) r.load

/-- A NEXT record with OP 001 or 010 written: while a save or a load is under way it takes effect after it (R294, R295). -/
def State.putNext (s : State) (slot op : Nat) (r : NextRec) : State :=
  if 162 ≤ slot then s
  else
    let s1 := s.writeNext slot op r
    if (s.ctx slot).st = .saving ∨ (s.ctx slot).st = .loading then
      let s2 := { s1 with nextLater := SMap.put s1.nextLater slot (op, r) }
      if op = 1 then s2.noteBound r.lctr.toNat r.unit.toNat else s2
    else s1.takeNextRec slot op r

/-- NEXT_BIND: OP 001 (R295). -/
def execNextBind (slot : Nat) (r : NextRec) (s : State) : Out :=
  if s.boot.code ≠ 2 then .next s else .next (s.putNext slot 1 r)

/-- NEXT_RESUME: OP 010 (R295, R350). -/
def execNextResume (slot : Nat) (r : NextRec) (s : State) : Out :=
  if s.boot.code ≠ 2 then .next s else .next (s.putNext slot 2 r)

/-- A NEXT with every field zero. -/
def NextRec.zero : NextRec := { pre := false, lctr := 0, unit := 0, prio := 0, job := 0, save := 0, load := 0 }

/-- NEXT_WITHDRAW: OP 000; PREQ is cleared if no save has begun, and while one is under way the request is withdrawn after it.
A unit that is being loaded is no pending request any more (R295). -/
def execNextWithdraw (slot : Nat) (s : State) : Out :=
  let c := s.ctx slot
  let off := 0x400000 + 0x80 * slot + 0x18
  let s0 := s.setRaw off (BitVec.ofNat 64 (setBits (s.raw off).toNat 63 61 0))
  if 162 ≤ slot ∨ s.boot.code ≠ 2 then .next s
  else if c.st = .loading then
    .next (if (SMap.find s.nextLater slot).isSome then { s0 with nextLater := SMap.erase s0.nextLater slot } else s)
  else if c.st = .saving then .next { s0 with nextLater := SMap.put s0.nextLater slot (0, NextRec.zero) }
  else .next ((s0.unbindNext slot).lowerPreq slot)

/-- NEXT_REJECT: an OP of 011 to 111 sets BERR (R294). -/
def execNextReject (slot : Nat) (op : BitVec 3) (_ : NextRec) (s : State) : Out :=
  let c := s.ctx slot
  if slot < 162 ∧ 3 ≤ op.toNat ∧ s.boot.code = 2 then
    .next (s.setCtx slot { c with berr := true })
  else .next s

/-- A marker placed at the tail of a tile core's epilogue queue (R367). -/
def State.putMarker (s : State) (slot : Nat) (save : Bool) (image : Word) (fresh : Bool) (key : Nat) : State :=
  if classOf (coreOf slot) ≠ .tile then s
  else
    let q := 8 * coreOf slot + 2
    let e := s.engq q
    let m : Marker := { save := save, slot := slot, image := image, fresh := fresh, key := key, seq := s.seq,
                        uid := (s.ctx slot).uid }
    { (s.setEngq q { e with markers := e.markers ++ [m] }) with seq := s.seq + 1 }

/-- A slot whose save, load or bind a freeze holds at its port (R385). -/
def State.holdSlot (s : State) (slot : Nat) : State := s.setCtx slot { s.ctx slot with frz := true }

/-- CONTEXT_SAVE_COMPLETE: the image is written at SAVE, the unit leaves its context, the incoming unit loads. -/
def execContextSaveComplete (slot : Nat) (s : State) : Out :=
  let c := s.ctx slot
  match c.st, c.uid with
  | .saving, some u =>
    let save := match SMap.find s.next slot with
      | some (_, r) => if r.save = 0 then Config.saveAddr u else r.save
      | none => Config.saveAddr u
    let p := sysParty s
    match s.locate p .store 1 save 0x6000 with
    | (s1, .held z _) => .next (if z then s1.holdSlot slot else s1)
    | (s1, a) =>
      let s2 := match a with
        | .ok ls _ => s1.perform ls (imageBytes c c.forced)
        | _ => s1
      let s3 := s2.putMarker slot true save false p.key
      let x := s3.unitAt u
      let s4 := s3.setUnit u { x with
        image := some save, lastCore := coreOf slot, spadUsed := c.spadUsed, epoch := c.epoch, side := c.side,
        popBase := c.popBase }
      let s5 := if (SMap.find s4.nextLater slot).isSome then s4.unbindNext slot else s4
      .next ((s5.freeCtx slot).takeLater slot)
  | _, _ => .next s

/-- A unit's context at its start (R276). -/
def startCtx (s : State) (slot : Nat) (l : Launch) (bs : List Byte) (prio uid : Nat) : Ctx :=
  let c := s.ctx slot
  { Ctx.init with
    epi := c.epi, berr := c.berr, forced := c.forced, uid := some uid, st := .running, prio := prio,
    pc := pcOf (toWord (l.field 0 8)), xtab := xtabOf bs, pdl := BitVec.ofNat 32 (s.jobPdl l.job),
    g := (List.range 4).foldl (fun m i => SMap.set m 0 (i + 1) (toWord (l.field (32 + 8 * i) 8))) [],
    tframe := sdataPtr + BitVec.ofNat 64 ((s.raw (0x700000 + 0x40 * l.job + 40)).toNat + 512 * slot),
    popBase := s.popBases (coreOf slot) }

/-- Whether a gang may start: all its units are written and each of its contexts is free (R287). -/
def State.gangReady (s : State) (n : Nat) (l : Launch) : Bool :=
  !l.gang || (l.bound.length == l.nunit + 1 &&
    s.next.all (fun x => x.2.2.lctr.toNat != n || (s.ctx x.1).st == .loading))

/-- A load that cannot go on given up: its NEXT goes, the context is idle, and `berr` says that the bind is rejected (R294). -/
def State.dropLoad (s : State) (slot : Nat) (berr : Bool) : State :=
  let c := s.ctx slot
  { (s.setCtx slot { c with st := .idle, berr := c.berr || berr }) with next := SMap.erase s.next slot }.takeLater slot

/-- Whether a unit of a launch may take a tile core's context as its scratchpad stands: one that a fatal fault has frozen takes
units of that launch alone, and the owner changes once the frames of the last change have been moved and no unit of another
job is bound there (R356, R378). -/
def State.spadFree (s : State) (slot n job : Nat) : Bool :=
  let core := coreOf slot
  let c := s.core core
  classOf core != .tile ||
    ((!(c.frozen || s.freezeDue core) ||
        s.units.any (fun u => u.2.ending == some .faulted && u.2.lastCore == core && u.2.lctr == n)) &&
     (c.owner == some job || c.spill.isEmpty) &&
     (match (s.ctx (slot ^^^ 1)).uid with
      | some u => (s.unitAt u).job == job
      | none => true))

/-- CONTEXT_LOAD_COMPLETE: the incoming unit has been loaded and runs (R276, R294, R350). -/
def execContextLoadComplete (slot : Nat) (s : State) : Out :=
  let c := s.ctx slot
  match c.st, SMap.find s.next slot with
  | .loading, some (op, r) =>
    let n := r.lctr.toNat
    let core := coreOf slot
    match SMap.find s.launches n with
    | none => .next (s.dropLoad slot false)
    | some l =>
      if l.cancelling then .next (s.dropLoad slot false)
      else if !s.bindable core ∨ !s.gangReady n l ∨ !s.spadFree slot n l.job then .next s
      else if op = 2 then
        match s.savedUnit n r.unit.toNat with
        | none => .next (s.dropLoad slot true)
        | some u =>
          match s.locate (sysParty s) .load 1 r.load 0x6000 with
          | (s1, .ok ls _) =>
            if s1.eccBad .load ls then .next (s1.cancelJobN l.job)
            else
            let x := s1.unitAt u
            let s2 := { (s1.changeOwner core (some l.job)) with next := SMap.erase s1.next slot }
            let base := { Ctx.init with
              epi := c.epi, berr := c.berr, forced := c.forced, uid := some u, st := .running, prio := r.prio.toNat,
              pdl := BitVec.ofNat 32 (s2.jobPdl l.job), popBase := if x.lastCore = core then x.popBase else s2.popBases core }
            let s3 := s2.setCtx slot (imageCtx (s2.readLocs ls) base)
            let s4 := s3.setUnit u { x with image := none, lastCore := core, prio := r.prio.toNat, side := [] }
            .next ((s4.putMarker slot false (r.load + 0x6000) false (sysParty s).key).takeLater slot)
          | (s1, .held z _) => .next (if z then s1.holdSlot slot else s1)
          | (s1, _) => .next (s1.dropLoad slot true)
      else
        match s.translate n l with
        | .fault k => .next (s.dispatchFault n k)
        | .absent p k => .next (s.request l.job p k)
        | .held => .next (s.holdSlot slot)
        | .bad => .next (s.cancelJobN l.job)
        | .ok s1 =>
          match s1.devRead n l.job 256 l.xtab with
          | .bytes bs =>
            let u := s1.nextUid
            let x : Unit := { Unit.init with
              job := l.job, lctr := n, index := r.unit.toNat, cls := classOf core, prio := r.prio.toNat,
              strict := l.strict, lastCore := core, xtab := xtabOf bs }
            let s2 := s1.changeOwner core (some l.job)
            let s3 := { (s2.setUnit u x) with nextUid := u + 1, next := SMap.erase s2.next slot }
            .next (((s3.setCtx slot (startCtx s3 slot l bs r.prio.toNat u)).putMarker slot false 0 true 0).takeLater slot)
          | _ => .next (s.dispatchFault n 0x60)
  | _, _ => .next s

/-- EPI_SAVE_MARKER: at the head of the epilogue queue, the slot's bank is written to the image (R367). -/
def execEpiSaveMarker (core : Nat) (s : State) : Out :=
  let q := 8 * core + 2
  let e := s.engq q
  match e.markers with
  | m :: ms =>
    if m.save ∧ e.run.isEmpty ∧ e.fault.isEmpty ∧ e.recs.all (fun r => m.seq < r.seq) then
      let bank := (s.ctx m.slot).epi
      let bs := (List.range 256).flatMap (fun i => eddyBytes (SMap.get bank ⟨0, 0, 0⟩ i))
      let s1 := s.setEngq q { e with markers := ms }
      match s1.locate (sysParty s1) .store 1 (m.image + 0x6000) 0x1000 with
      | (s2, .held z _) => .next ((s.setEngq q { e with frz := e.frz || z }).keepPages s2)
      | (s2, .ok ls _) => .next (s2.perform ls bs)
      | (s2, _) => .next s2
    else .next s
  | [] => .next s

/-- EPI_LOAD_MARKER: at the head of the epilogue queue, the slot's bank is loaded (R91, R367). -/
def execEpiLoadMarker (core : Nat) (s : State) : Out :=
  let q := 8 * core + 2
  let e := s.engq q
  match e.markers with
  | m :: ms =>
    if !m.save ∧ e.run.isEmpty ∧ e.fault.isEmpty ∧ e.recs.all (fun r => m.seq < r.seq) then
      let s1 := s.setEngq q { e with markers := ms }
      let c := s1.ctx m.slot
      if m.fresh then .next (s1.setCtx m.slot { c with epi := [] })
      else
        match s1.locate (sysParty s1) .load 1 m.image 0x1000 with
        | (s2, .ok ls _) =>
          if s2.eccBad .load ls then .next (s2.cancelJobN (s2.unitOf m.slot).job)
          else
          let bs := s2.readLocs ls
          let es := (List.range 256).map (fun i => (i, eddyFrom ((bs.drop (16 * i)).take 16)))
          let c1 := { c with epi := es.foldl (fun m x => SMap.set m ⟨0, 0, 0⟩ x.1 x.2.1) [],
                             fpst := c.fpst ||| (if es.any (fun x => x.2.2) then 0x40 else 0) }
          .next (s2.setCtx m.slot c1)
        | (s2, .held z _) => .next ((s.setEngq q { e with frz := e.frz || z }).keepPages s2)
        | (s2, _) => .next s2
    else .next s
  | [] => .next s

/-- SCRATCHPAD_FREEZE: the scratchpad of a core on which a unit took a fatal fault freezes (R376). -/
def execScratchpadFreeze (core : Nat) (s : State) : Out :=
  if s.freezeDue core then .next (s.setCore core { s.core core with frozen := true }) else .next s

/-! ### The firmware's decisions (R296 to R298, R464) -/

/-- The effective priority that a launch waits with: its own, capped by its job (R298). -/
def State.launchPrio (s : State) (l : Launch) : Nat := min l.prio (s.jobCeil l.job)

/-- Cores of a class, by the packet's code. -/
def classCores (cls : UnitClass) : List Nat :=
  match cls with
  | .stack => List.range 32
  | .tile => (List.range 48).map (· + 32)

/-- The bit of PMASK for a core. -/
def maskBit (core : Nat) : Nat := if core < 32 then core else core - 32

/-- Context ticks held by units of class L, over 1,024 µs, and all context ticks, of a class (R298). -/
def State.shareL (s : State) (cls : UnitClass) : Nat × Nat :=
  let k := match cls with | .stack => 0 | .tile => 1
  let held := (s.lheld.filter (fun x => x.1 / 1024 = k)).foldl (fun a x => a + x.2) 0
  (held, min s.tick (1024 * 1400) * (2 * (classCores cls).length))

/-- Whether class L's share on a class of core is below the floor. -/
def State.belowFloor (s : State) (cls : UnitClass) : Bool :=
  let x := s.shareL cls
  x.1 * 256 < s.lfloor.toNat * x.2 || (x.2 == 0 && s.lfloor ≠ 0)

/-- Whether class L holds more than its floor. -/
def State.aboveFloor (s : State) (cls : UnitClass) : Bool :=
  let x := s.shareL cls
  s.lfloor.toNat * x.2 < x.1 * 256

/-- The jobs of the unit in a slot and of those that are to be bound there. -/
def State.slotJobs (s : State) (slot : Nat) : List Nat :=
  (match (s.ctx slot).uid with | some u => [(s.unitAt u).job] | none => []) ++
    ((s.next ++ s.nextLater).filter (fun x => x.1 == slot && x.2.1 != 0)).map (fun x => x.2.2.job.toNat)

/-- Whether the firmware may place a unit of a launch's job on a slot at all: no NEXT is pending there, and on a tile core the
other context is of the same job (R287, R356, R357, R378, R443). -/
def State.allowed (s : State) (n : Nat) (l : Launch) (slot : Nat) : Bool :=
  let core := coreOf slot
  let c := s.core core
  bitOf l.pmask (maskBit core) && s.coreUp core && s.bindable core && (SMap.find s.next slot).isNone &&
    (SMap.find s.nextLater slot).isNone &&
    (classOf core != .tile ||
      ((s.slotJobs (slot ^^^ 1)).all (· == l.job) &&
       (!(c.frozen || s.freezeDue core) ||
          s.units.any (fun u => u.2.ending == some .faulted && u.2.lastCore == core && u.2.lctr == n))))

/-- Whether a unit may be pre-empted at all: a gang is taken whole, once every unit of it runs (R287). -/
def State.gangWhole (s : State) (slot : Nat) : Bool :=
  let n := (s.unitOf slot).lctr
  s.gangSlots slot == [slot] && !((SMap.find s.launches n).any (fun l => l.gang)) ||
    ((s.gangSlots slot).all (fun y => (s.ctx y).st == .running) &&
     s.units.all (fun u => u.2.lctr != n || u.2.ending.isSome || u.2.image.isNone) &&
     !((s.next ++ s.nextLater).any (fun x => x.2.1 != 0 && x.2.2.lctr.toNat == n)))

/-- Whether a waiting launch may pre-empt the unit resident in a slot (R298). -/
def State.mayPreempt (s : State) (l : Launch) (cls : UnitClass) (slot : Nat) : Bool :=
  let c := s.ctx slot
  c.st == .running && s.gangWhole slot && (match c.uid with
    | none => false
    | some u =>
      let x := s.unitAt u
      let lq := match SMap.find s.launches x.lctr with | some m => s.classL m.queue | none => false
      s.effPrio slot < s.launchPrio l || (!s.classL l.queue && lq && s.aboveFloor cls))

/-- Free contexts for a launch, in order (R464). -/
def State.freeSlots (s : State) (n : Nat) (l : Launch) (cls : UnitClass) : List Nat :=
  ((classCores cls).flatMap (fun c => [2 * c, 2 * c + 1])).filter (fun x => (s.ctx x).st == .idle && s.allowed n l x)

/-- Contexts that a launch may take by pre-emption, best first: lowest effective priority, of equals class L beyond
the floor first, then the first (R464). -/
def State.victims (s : State) (n : Nat) (l : Launch) (cls : UnitClass) : List Nat :=
  let all := ((classCores cls).flatMap (fun c => [2 * c, 2 * c + 1])).filter (fun x => s.mayPreempt l cls x && s.allowed n l x)
  let key (x : Nat) : Nat :=
    let lq := match SMap.find s.launches (s.unitOf x).lctr with | some m => s.classL m.queue | none => false
    2 * s.effPrio x + (if lq && s.aboveFloor cls then 0 else 1)
  sortBy (fun a b => key a < key b || (key a == key b && a ≤ b)) all

/-- Unit indices of a launch that are still to be bound. -/
def Launch.unbound (l : Launch) : List Nat := (List.range (l.nunit + 1)).filter (fun i => !l.bound.contains i)

/-- The slots that one decision gives a launch: a gang takes one for each unit or none; another launch takes every
free context it can use, or else one by pre-emption (R287, R464; log 17). -/
def State.placement (s : State) (n : Nat) (l : Launch) (cls : UnitClass) : List Nat :=
  let free := s.freeSlots n l cls
  let need := l.unbound.length
  if l.gang then
    let all := free ++ s.victims n l cls
    if all.length < need then [] else all.take need
  else if free.isEmpty then (s.victims n l cls).take 1
  else free.take need

/-- The bind record that the firmware writes for a unit. -/
def bindRec (l : Launch) (n idx prio : Nat) (pre : Bool) (save : Word) : NextRec :=
  { pre := pre, lctr := BitVec.ofNat 13 n, unit := BitVec.ofNat 11 idx, prio := BitVec.ofNat 8 prio,
    job := BitVec.ofNat 8 l.job, save := save, load := 0 }

/-- Slots whose units belong to a gang that loses one of some slots: pre-emption takes the whole gang together (R287). -/
def State.gangMates (s : State) (slots : List Nat) : List Nat :=
  (slots.flatMap (fun x => s.gangSlots x)).eraseDups.filter (fun y => (s.ctx y).st == .running)

/-- Whether a context is to be pre-empted by an incoming unit, and the address at which its unit is saved. -/
def State.outgoing (s : State) (slot : Nat) : Bool × Word :=
  ((s.ctx slot).st != .idle, match (s.ctx slot).uid with | some u => Config.saveAddr u | none => 0)

/-- Bind records of one decision written, and PREQ raised on the rest of every gang that they pre-empt (R287). -/
def State.writeNexts (s : State) (nexts : List (Nat × Nat × NextRec)) : State :=
  let mates := (s.gangMates (nexts.map (·.1))).filter (fun x => !nexts.any (fun y => y.1 == x))
  mates.foldl State.raisePreq (nexts.foldl (fun (s : State) x => s.putNext x.1 x.2.1 x.2.2) s)

/-- A launch served: the bind records of its placement are written in one decision. -/
def State.serve (s : State) (n : Nat) (l : Launch) (slots : List Nat) : State :=
  s.writeNexts ((slots.zip l.unbound).map (fun x =>
    (x.1, 1, bindRec l n x.2 l.prio (s.outgoing x.1).1 (s.outgoing x.1).2)))

/-- One step of the generator in LSEED (R297). -/
def lotteryStep (x : Word) : Word :=
  let x := x ^^^ (x <<< 13)
  let x := x ^^^ (x >>> 7)
  x ^^^ (x <<< 17)

/-- The first queue, ascending, whose cumulative tickets exceed the threshold (R297). -/
def winner (th : Nat) : Nat → List (Nat × Nat) → Option Nat
  | _, [] => none
  | acc, (q, t) :: r => if th < acc + t then some q else winner th (acc + t) r

/-- CLASS of a packet by class. -/
def classCode (cls : UnitClass) : Nat := match cls with | .stack => 0 | .tile => 1

/-- Waiting launches of a class, in an order by keys. -/
def State.waitingOf (s : State) (cls : UnitClass) (isL : Bool) : List (Nat × Launch) :=
  s.launches.filter (fun x => x.2.cls = classCode cls && s.waiting x.1 x.2 &&
    s.classL x.2.queue == isL)

/-- The first launch of class D, by deadline, queue and acceptance, that can be placed (R296). -/
def State.pickD (s : State) (cls : UnitClass) : Option (Nat × Launch) :=
  let ls := sortBy (fun (a b : Nat × Launch) => a.2.deadline < b.2.deadline || (a.2.deadline == b.2.deadline &&
      (a.2.queue < b.2.queue || (a.2.queue == b.2.queue && a.2.seq ≤ b.2.seq)))) (s.waitingOf cls false)
  ls.find? (fun x => !(s.placement x.1 x.2 cls).isEmpty)

/-- The first launch of each class L queue in acceptance order that has units unbound, if it can be placed (R297). -/
def State.headsL (s : State) (cls : UnitClass) : List (Nat × Nat × Launch) :=
  (List.range 64).filterMap (fun q =>
    match sortBy (fun (a b : Nat × Launch) => a.2.seq ≤ b.2.seq)
        ((s.waitingOf .stack true ++ s.waitingOf .tile true).filter (fun x => x.2.queue = q)) with
    | x :: _ => if x.2.cls ≠ classCode cls ∨ (s.placement x.1 x.2 cls).isEmpty then none else some (q, x)
    | [] => none)

/-- The lottery of class L (R297): LSEED steps only where a queue is eligible. -/
def State.pickL (s : State) (cls : UnitClass) : State × Option (Nat × Launch) :=
  let heads := s.headsL cls
  let elig := heads.filter (fun h => s.tickets h.1 ≠ 0)
  if elig.isEmpty then (s, heads.head?.map (·.2))
  else
    let x := lotteryStep s.lseed
    let t := elig.foldl (fun a h => a + s.tickets h.1) 0
    let th := x.toNat / 2 ^ 32 * t / 2 ^ 32
    let s1 := { s with lseed := x }
    match winner th 0 (elig.map (fun h => (h.1, s.tickets h.1))) with
    | some q => (s1, (elig.find? (fun h => h.1 = q)).map (·.2))
    | none => (s1, none)

/-- The class of core that a class of unit runs on. -/
def coreClassOf (cls : UnitClass) : CoreClass := match cls with | .stack => .stack | .tile => .tile

/-- Contexts in which a saved unit may resume, best first: free ones, that of its last core before the others, then those it
may take by pre-emption; only of its last core where R357 binds it there (R357, R464). -/
def State.resumeSlots (s : State) (x : Unit) (l : Launch) (cls : UnitClass) : List Nat :=
  let free := s.freeSlots x.lctr l cls
  let here (y : Nat) : Bool := coreOf y == x.lastCore
  let all := free.filter here ++ free.filter (fun y => !here y) ++ s.victims x.lctr l cls
  if x.spadUsed then all.filter here else all

/-- A different context for each of some saved units, or nothing. -/
def State.resumeAll (s : State) (l : Launch) (cls : UnitClass) : List (Nat × Unit) → List Nat → Option (List (Nat × Nat × NextRec))
  | [], _ => some []
  | (_, x) :: us, used =>
    match (s.resumeSlots x l cls).find? (fun y => !used.contains y) with
    | none => none
    | some y =>
      (s.resumeAll l cls us (y :: used)).map (fun rs =>
        (y, 2, { bindRec l x.lctr x.index x.prio (s.outgoing y).1 (s.outgoing y).2 with load := x.image.getD 0 }) :: rs)

/-- What one decision resumes with a saved unit: the unit, or all the saved units of its gang once none of it is still to be
saved (R287, R464). -/
def State.resumeWith (s : State) (u : Nat × Unit) (l : Launch) (cls : UnitClass) : Option (List (Nat × Nat × NextRec)) :=
  if l.gang then
    let mates := s.units.filter (fun v => v.2.lctr = u.2.lctr ∧ v.2.ending = none)
    let going : Bool := mates.any (fun v => v.2.image.isNone && (match s.slotOf v.1 with
      | some y => (s.ctx y).st != .running
      | none => true))
    if going then none else s.resumeAll l cls (mates.filter (fun v => v.2.image.isSome)) []
  else s.resumeAll l cls [u] []

/-- A saved unit resumed in the context that R464 gives it, if there is one. -/
def State.resumeOne (s : State) (cls : UnitClass) : State :=
  let marked (u : Nat) : Bool := s.engqs.any (fun q => q.2.markers.any (fun m => m.save && m.uid == some u))
  let saved := s.units.filter (fun u => u.2.image.isSome && u.2.ending = none && u.2.cls = coreClassOf cls && !marked u.1 &&
    !((s.next ++ s.nextLater).any (fun x => x.2.1 == 2 && x.2.2.lctr.toNat == u.2.lctr && x.2.2.unit.toNat == u.2.index)))
  match (saved.filterMap (fun u => (SMap.find s.launches u.2.lctr).bind (fun l => s.resumeWith u l cls))).head? with
  | some nexts => s.writeNexts nexts
  | none => s

/-- DISPATCH_DECISION: the firmware serves class D, class L by lottery where the floor or the want of class D work
says so, and otherwise resumes a saved unit (R296 to R298, R464; log 17). Firmware decides only once it has been verified
(R14). -/
def execDispatchDecision (cls : UnitClass) (s : State) : Out :=
  if s.boot.code ≠ 2 then .next s
  else
  let d := s.pickD cls
  let lFirst := d.isNone || (s.belowFloor cls && !(s.waitingOf cls true).isEmpty)
  let r : State × Option (Nat × Launch) := if lFirst then
      (match s.pickL cls with
      | (s1, some x) => (s1, some x)
      | (s1, none) => (s1, d))
    else (s, d)
  match r with
  | (s1, some (n, l)) => .next (s1.serve n l (s1.placement n l cls))
  | (s1, none) => .next (s1.resumeOne cls)

end Sys2Proof.Machine
end

