-- ==== Sys2Proof/Machine/Recs.lean ====
section
/-! DEFINITION. Engine records: for whom they act, their checks, barrier records as engines and units change them,
reductions into memory, popping and completion (R170 to R175, R241 to R252, R318). -/

namespace Sys2Proof.Machine

/-! ### Attempts -/

/-- What an attempt at a record comes to: it goes on, it waits with nothing done, or it faults (R249). -/
inductive Try (α : Type) where
  | ok (s : State) (a : α)
  | wait (s : State) (frz : Bool)
  | fault (fcode check : Nat) (addr : Word)

/-- One attempt after another. -/
def Try.andThen {α β : Type} (t : Try α) (k : State → α → Try β) : Try β :=
  match t with
  | .ok s a => k s a
  | .wait s z => .wait s z
  | .fault f c a => .fault f c a

/-- A fault where a condition fails. -/
def State.ensure (s : State) (c : Bool) (fcode : Nat) : Try PUnit := if c then .ok s .unit else .fault fcode 0 0

/-- An attempt for each member of a list, in order, with the results. -/
def Try.each {α β : Type} (f : State → α → Try β) : List α → State → Try (List β)
  | [], s => .ok s []
  | x :: xs, s => (f s x).andThen (fun s1 b => (Try.each f xs s1).andThen (fun s2 bs => .ok s2 (b :: bs)))

/-! ### Whom a record acts for (R301, R360) -/

/-- The job's shared extent map (R269, R291). -/
def State.sharedMap (s : State) (j : Nat) : SMap (BitVec 128) :=
  match s.devRead (jobDom j) j 256 (s.jobWord j 10).toNat with
  | .bytes bs => xtabOf bs
  | _ => []

/-- Whether a job's shared extent map can be read now: a record that resolves through it waits for its page (R242, R269). -/
def State.mapReady (s : State) (j : Nat) : Try PUnit :=
  let a := s.jobWord j 10
  match s.devRead (jobDom j) j 256 a.toNat with
  | .absent p => .wait (s.request j p 4) false
  | .held => .wait s true
  | .bad => .fault 0x2C 0 a
  | _ => .ok s .unit

/-- The epoch of a unit, resident or not (R313). -/
def State.epochOf (s : State) (u : Nat) : Nat :=
  match s.slotOf u with
  | some sl => (s.ctx sl).epoch.toNat
  | none => (s.unitAt u).epoch.toNat

/-- The party that a record acts for. A record of a graph image resolves its pointers through the shared extent map of
the graph's job (log 18). -/
def State.recParty (s : State) (core : Nat) (r : Rec) : Party :=
  match r.gctr with
  | some g =>
    let j := match SMap.find s.graphs g with
      | some x => x.job
      | none => (s.counter g).job
    { level := .unit, core := core, job := j, key := s.jobKey j, xtab := s.sharedMap j, dom := jobDom j, sup := none,
      race := none, engine := true, task := false }
  | none =>
    let xt := match r.uid with
      | some u => (s.unitAt u).xtab
      | none => (s.ctx r.slot).xtab
    if isTask r.slot then { s.partyAt r.slot .management with xtab := xt, engine := true }
    else
      let x := match r.uid with
        | some u => s.unitAt u
        | none => Unit.init
      { level := .unit, core := core, job := x.job, key := s.jobKey x.job, xtab := xt, dom := x.lctr, sup := none,
        race := some (raceId x.index, (r.uid.map s.epochOf).getD 0), engine := true, task := false }

/-! ### Reads and checks (R242, R248) -/

/-- A number of 16-byte parts read as LD .q (R242). -/
def State.readParts (p : Party) : Nat → State → Word → Try (List Byte)
  | 0, s, _ => .ok s []
  | k + 1, s, a =>
    match s.access p .load 1 a 16 with
    | (s1, .ok ls _) =>
      (State.readParts p k (s1.touchReads ls) (a + 16)).andThen (fun s2 bs => .ok s2 (s1.readLocs ls ++ bs))
    | (_, .fault f) => .fault 0x26 f.check f.addr
    | (s1, r) => .wait s1 r.frozen

/-- A descriptor, node block or chained record: aligned, then read (R242, R249 step 6). -/
def State.readDesc (s : State) (p : Party) (a : Word) (align n : Nat) : Try (List Byte) :=
  if a.toNat % align ≠ 0 then .fault 0x26 9 a else State.readParts p (n / 16) s a

/-- The first byte of a range that fails a check of its own. -/
def State.firstBad (s : State) (p : Party) (k : AccKind) (a : Word) (n : Nat) : Word :=
  match (List.range n).find? (fun i => match (s.access p k 1 (a + BitVec.ofNat 64 i) 1).2 with
      | .fault _ => true
      | _ => false) with
  | some i => a + BitVec.ofNat 64 i
  | none => a

/-- Operand ranges that have passed their checks: their bytes by address, and whether an absent page, a freeze (`true`)
or a frame that moves makes the record wait (R248). -/
structure Opnd where
  locs : List (Word × List Loc)
  wait : Option Bool
  deriving DecidableEq, Repr

/-- What two of them make together. -/
def orWait (a b : Option Bool) : Option Bool :=
  match a, b with
  | none, b => b
  | a, none => a
  | some x, some y => some (x || y)

/-- The check of one part of an operand: its bytes, and whether it must wait (R248). Uncorrectable errors are met when it
is read. -/
def State.operandPart (s : State) (p : Party) (k : AccKind) (a : Word) (n : Nat) : Try (List Loc × Option Bool) :=
  let tagged (s1 : State) (ts : List Nat) (x : List Loc × Option Bool) : Try (List Loc × Option Bool) :=
    match s1.race p k false a ts with
    | .ok s2 => .ok s2 x
    | .error f => .fault 0x2B f.check (s.firstBad p k a n)
  match s.locate p k 1 a n with
  | (s1, .ok ls ts) => tagged s1 ts (ls, none)
  | (s1, .absent ts) => tagged s1 ts ([], some false)
  | (s1, .held z _) => .ok s1 ([], some z)
  | (_, .fault f) => .fault 0x2B f.check (s.firstBad p k a n)

/-- A range cut into parts of 16 bytes, one for each unit of fuel. -/
def parts16 : Nat → Word → Nat → List (Word × Nat)
  | 0, _, _ => []
  | f + 1, a, n => if n = 0 then [] else (a, min n 16) :: parts16 f (a + 16) (n - 16)

/-- The check of one operand range over the windows that its record permits (R248). A range that does not pass as a whole, or
that waits, is checked part by part, so that it faults at its first faulting byte. -/
def State.operand (s : State) (p : Party) (k : AccKind) (wins : List Nat) (a : Word) (n : Nat) : Try Opnd :=
  if n = 0 then .ok s ⟨[], none⟩
  else if !wins.contains (bitsOf a.toNat 63 60) then .fault 0x2B 1 a
  else
    match s.operandPart p k a n with
    | .ok s1 (ls, none) => .ok s1 ⟨[(a, ls)], none⟩
    | _ => (Try.each (fun s x => s.operandPart p k x.1 x.2) (parts16 (n / 16 + 1) a n) s).andThen (fun s1 xs =>
        .ok s1 ⟨[(a, xs.flatMap (·.1))], xs.foldl (fun w x => orWait w x.2) none⟩)

/-- The check of operand ranges in ascending address (R248). -/
def State.operands (s : State) (p : Party) (k : AccKind) (wins : List Nat) (rs : List (Word × Nat)) : Try Opnd :=
  (Try.each (fun s (x : Word × Nat) => s.operand p k wins x.1 x.2)
    (sortBy (fun x y => x.1.toNat ≤ y.1.toNat) rs) s).andThen (fun s1 xs =>
      .ok s1 ⟨xs.flatMap (·.locs), xs.foldl (fun w x => orWait w x.wait) none⟩)

/-- The bytes checked at an address. -/
def locsAt (m : List (Word × List Loc)) (a : Word) : List Loc := ((m.find? (fun x => x.1 == a)).map (·.2)).getD []

/-- The check of a barrier record that a record names, as one 16-byte store, and whether it must wait (R248). -/
def State.barCheck (s : State) (p : Party) (a : Word) : Try (Option Bool) :=
  if a = 0 then .ok s none
  else match s.access p .barrier 16 a 16 with
    | (s1, .ok _ _) => .ok s1 none
    | (_, .fault f) => .fault 0x2B f.check f.addr
    | (s1, r) => .ok s1 (some r.frozen)

/-- A record whose operands have all passed waits where one of them must (R248). -/
def State.opReady (s : State) (ws : List (Option Bool)) : Try PUnit :=
  match ws.foldl orWait none with
  | some z => .wait s z
  | none => .ok s .unit

/-- The address of the first byte of some ranges that holds an uncorrectable error. -/
def State.poisonAt (s : State) (m : List (Word × List Loc)) : Option Word :=
  if s.poison.isEmpty then none
  else ((m.flatMap (fun x => x.2.zipIdx.map (fun l => (x.1 + BitVec.ofNat 64 l.2, l.1)))).find? (fun x => s.poisoned x.2)).map (·.1)

/-- Data about to be read for a record: an uncorrectable error in it is FCODE 0x2C (R249). -/
def State.dataOk (s : State) (m : List (Word × List Loc)) : Try PUnit :=
  match s.poisonAt m with
  | some a => .fault 0x2C 0 a
  | none => .ok s .unit

/-- Bytes written for a party: one that meets an uncorrectable error it does not overwrite whole does not perform, and
the job is cancelled (R18, R312). -/
def State.writeFor (s : State) (p : Party) (ls : List Loc) (bs : List Byte) : State :=
  if s.eccBad .store ls then s.cancelJobN p.job else s.perform ls bs

/-- Whether a counter that a record names is of its job (R249 step 5). A service task has no job. -/
def State.ctrFits (s : State) (p : Party) (n : Nat) : Bool := p.task || s.ctrOfJob p.job n

/-- CEN and CTR of a record (R241). -/
def Rec.cen (r : Rec) : Bool := r.bits.getLsbD 118
def Rec.ctr (r : Rec) : Nat := bitsOf r.bits.toNat 117 105

/-- Step 5 of R249 for the header. -/
def State.headCtr (s : State) (p : Party) (r : Rec) : Try PUnit := s.ensure (!r.cen || (r.gctr.isSome && !r.link) || s.ctrFits p r.ctr) 0x25

/-- A number in a descriptor by its first byte and its length. -/
def dfield (bs : List Byte) (lo n : Nat) : Nat := ofBytes ((bs.drop lo).take n)

/-- A pointer in a descriptor. -/
def dptr (bs : List Byte) (lo : Nat) : Word := toWord (dfield bs lo 8)

/-! ### Barrier records (R170 to R175, R318) -/

/-- The test of R175, and whether it completed the generation. A saturated PEND never completes (R174). Bits 63:59 are
written as zero (R170). -/
def barTest (r : Nat) : Nat × Bool :=
  let r := setBits r 63 59 0
  if bitsOf r 47 32 = bitsOf r 31 16 ∧ bitsOf r 111 64 = 0 ∧ !bitOf r 56 ∧ !bitOf r 57 then
    (setBits (setBits (setBits r 15 0 (bitsOf r 15 0 + 1)) 47 32 0) 55 48 0, true)
  else (r, false)

/-- The job of a run domain. -/
def State.domJob (s : State) (dom : Nat) : Option Nat :=
  if 8192 ≤ dom then some (dom - 8192) else (SMap.find s.launches dom).map (·.job)

/-- Every tag of generation 0 in a shadow set to none, and every word of it that holds generation 0 (R318). -/
def State.clearGen0At (s : State) (j shadow : Nat) : State :=
  let s1 := (List.range 128).foldl (fun (t : State) i =>
    if t.memWord (t.jobKey j) (shadow + 8 * i) / 2 ^ 58 = 0 then
      t.memPuts (t.jobKey j) (shadow + 8 * i) (bytesOf 8 shadowNone)
    else t) s
  { s1 with tags := s.tags.filter (fun t =>
      !(bitsOf t.2.toNat 23 18 == 0 && shadow ≤ t.1 && t.1 < shadow + 1024)) }

/-- Every tag of generation 0 in the checked pages of a job set to none (R318). -/
def State.clearGen0 (s : State) (j : Nat) : State :=
  (s.checked.filter (fun c => c.1 / 2 ^ 32 == jobDom j)).foldl (fun (t : State) c => t.clearGen0At j c.2.1) s

/-- A barrier record written, after the test where an arrival or a subtraction made the change (R175, R318). -/
def State.putBar (s : State) (j : Nat) (ls : List Loc) (r : Nat) (test : Bool) : State :=
  let x := if test then barTest r else (setBits r 63 59 0, false)
  let s1 := s.perform ls (bytesOf 16 x.1)
  if x.2 && x.1 % 64 == 0 then s1.clearGen0 j else s1

/-- Performed bytes subtracted from PEND (R174). The second component says that the subtraction is settled: applied, out of
reach for good, or abandoned with its job at an uncorrectable error (R312). -/
def State.barSub (s : State) (p : Party) (a : Word) (n : Nat) : State × Bool :=
  match s.locate p .barrier 16 a 16 with
  | (s1, .ok ls _) =>
    if s1.eccBad .barrier ls then (s1.cancelJobN p.job, true) else
    let r := ofBytes (s1.readLocs ls)
    let pend := bitsOf r 111 64
    let r' := if pend < n then setBits (setBits r 111 64 0) 58 58 1 else setBits r 111 64 (pend - n)
    (s1.putBar p.job ls r' true, true)
  | (s1, .fault _) => (s1, true)
  | (s1, _) => (s1, false)

/-! ### Reductions (R96, R253, R255) -/

/-- A function of 32-bit elements on bytes in memory order; what is left over stays with the source. -/
def mapWords (f : Nat → Nat → Nat) : List Byte → List Byte → List Byte
  | a0 :: a1 :: a2 :: a3 :: as, b0 :: b1 :: b2 :: b3 :: bs =>
    bytesOf 4 (f (ofBytes [a0, a1, a2, a3]) (ofBytes [b0, b1, b2, b3])) ++ mapWords f as bs
  | _, bs => bs

/-- Elements by ROP: the old value, then the source. `plane` is the flag plane of an RI32 chunk. -/
def ropElem (rop : Nat) (plane : Bool) (old src : Nat) : Nat :=
  match rop with
  | 1 => (fadd (BitVec.ofNat 32 old) (BitVec.ofNat 32 src)).toNat
  | 2 => (old + src) % 2 ^ 32
  | 3 => if plane then old ||| src else (old + src) % 2 ^ 32
  | 4 => if sint 32 old < sint 32 src then src else old
  | 5 => old ||| src
  | _ => src

/-- A 16-byte part of a row or payload reduced by ROP; `i` is its place (R255). -/
def ropPart (rop i : Nat) (old src : List Byte) : List Byte :=
  if rop = 0 then src else mapWords (ropElem rop (i % 17 == 16)) old src

/-- The ROP of a RAFTX OP (R270, R433). -/
def raftRop (op : Nat) : Nat := match op with | 0 => 3 | 1 => 4 | _ => 5

/-- Bytes of a chunk by a RAFTX OP (R270). -/
def chunkBytes (op : Nat) : Nat := if op = 0 then 272 else 256

/-- Parts of 16 bytes transferred one after another, each reading its source where it now stands (R255). `get` and `put`
read and write bytes at locations. -/
def State.moveParts (get : State → List Loc → State × List Byte) (put : State → List Loc → List Byte → State)
    (rop : Nat) : Nat → Nat → State → List Loc → List Loc → State
  | 0, _, s, _, _ => s
  | k + 1, i, s, src, dst =>
    if dst.isEmpty then s
    else
      let d := dst.take 16
      let x := get s (src.take 16)
      let y := if rop = 0 then (x.1, []) else get x.1 d
      State.moveParts get put rop k (i + 1) (put y.1 d (ropPart rop i y.2 x.2)) (src.drop 16) (dst.drop 16)

/-! ### Popping and completing (R244, R246, R249, R251, R257) -/

/-- Whether the work that a record belongs to still stands: an uncorrectable error that a record's own write meets
cancels its job (R18). -/
def State.recAlive (s : State) (r : Rec) : Bool :=
  match r.gctr, r.uid with
  | some g, _ => (SMap.find s.graphs g).isSome
  | none, some u => (s.unit? u).isSome
  | none, none => true

/-- Whether the pacing register of a queue puts its next pop off (R453). -/
def State.paced (s : State) (q : Nat) : Bool :=
  let core := q / 8
  let gap : Nat :=
    if core < 32 then bitsOf (s.raw (0xD11000 + 8 * core)).toNat 15 0
    else if core < 80 then bitsOf (s.raw (0xD10000 + 0x40 * (core - 32) + 8 * (q % 8))).toNat 15 0
    else 0
  match (s.engq q).lastPop with
  | some t => (s.core core).cyc.toNat < t + gap
  | none => false

/-- A record of a queue waits; it is held at its requester port if a freeze holds it (R385). -/
def State.portHeld (s : State) (q : Nat) (frz : Bool) : State :=
  if frz then s.setEngq q { s.engq q with frz := true } else s

/-- A popped record among those in flight, in its place (R244). -/
def State.putRun (s : State) (q : Nat) (r : Rec) : State :=
  let e := s.engq q
  let run := if e.run.any (fun x => x.seq == r.seq) then e.run.map (fun x => if x.seq == r.seq then r else x) else e.run ++ [r]
  s.setEngq q { e with run := run }

/-- A record no longer in flight. -/
def State.dropRun (s : State) (q seq : Nat) : State :=
  let e := s.engq q
  s.setEngq q { e with run := e.run.filter (fun x => x.seq ≠ seq) }

/-- Steps 1 to 6 of R249: the checks of a record's own bits, then its descriptor, which is read once (R242). A record that
has waited for its descriptor goes on with the later steps as one just popped. -/
def State.readPopped (s : State) (p : Party) (r : Rec) (pre : State → Rec → Party → Try PUnit) (desc : Option Word) : Try Rec :=
  match desc with
  | none => .ok s r
  | some a =>
    if r.todo && !r.desc.isEmpty then .ok s r
    else (if r.gctr.isSome then s.mapReady p.job else .ok s .unit).andThen fun s _ => (pre s r p).andThen fun s _ => (s.readDesc p a 64 64).andThen fun s bs => .ok s { r with desc := bs, todo := false }

/-- Whether a queue's engine can accept a record by the number in flight, and the pacing lets it pop (R244, R453). -/
def State.accepts (s : State) (q limit : Nat) (r : Rec) : Bool :=
  (s.engq q).run.length < limit && (r.chained || !s.paced q)

/-- The head record of the current queue popped, where the engine can accept it: its checks and descriptor by `pre` and
`desc`, then its start by `go`. What is left of it in flight joins the running records; one that must wait has been popped,
stands among them, and is tried again (R242, R244, R248). -/
def State.popHead (s : State) (can : State → Rec → Bool) (pre : State → Rec → Party → Try PUnit) (desc : Option Word)
    (go : State → Rec → Party → Try (Option Rec)) : Out :=
  let q := s.queue
  let e := s.engq q
  match e.recs with
  | [] => .next s
  | r :: rs =>
    if !r.todo ∧ !can s r then .next s
    else
      let s1 := s.setEngq q { e with
        recs := rs, popped := if r.chained ∨ r.todo then e.popped else e.popped + 1,
        lastPop := if r.chained ∨ r.todo then e.lastPop else some (s.core (q / 8)).cyc.toNat }
      let p := s.recParty (q / 8) r
      let waits (s2 : State) (r1 : Rec) (z : Bool) : Out :=
        .next (((s1.putRun q { r1 with todo := true }).portHeld q z).keepPages s2)
      let fails (f c : Nat) (a : Word) : Out :=
        .next ((s1.dropRun q r.seq).recFault q { r with todo := false, desc := [] } f c (match r.chain with
          | some nx => if r.chained && f < 0x2B then nx else a
          | none => a))
      match s1.readPopped p r pre desc with
      | .wait s2 z => waits s2 r z
      | .fault f c a => fails f c a
      | .ok s2 r1 =>
        match go s2 r1 p with
        | .ok s3 none => .next (s3.dropRun q r.seq)
        | .ok s3 (some r') =>
          if !s3.recAlive r && s.recAlive r then .next (s3.dropRun q r.seq)
          else .next ((s3.markFills s1 none (some r.seq)).putRun q { r' with chained := false, todo := false })
        | .wait s3 z => waits s3 r1 z
        | .fault f c a => fails f c a

/-- A record without a descriptor at the head of the current queue. -/
def State.popPlain (s : State) (can : State → Rec → Bool) (go : State → Rec → Party → Try (Option Rec)) : Out :=
  s.popHead can (fun s _ _ => .ok s .unit) none go

/-- The effects of completion, in their order (R246). -/
def State.finishRec (s : State) (r : Rec) (retires : Bool) : State :=
  if !s.recAlive r then s else
  let s1 := if r.flags = 0 then s else s.recStat r (StatUpd.flag r.flags)
  let s2 := match r.gctr, r.link with
    | some g, false => State.advance ctrDepth s1 g
    | _, _ => if r.cen then State.advance ctrDepth s1 r.ctr else s1
  if r.nid ≠ 0 && retires then s2.retireNode r.owner r.nid else s2

/-- A record of a unit or of a node entered at the tail of a queue (R184, R266). -/
def State.enterRec (s : State) (q slot : Nat) (uid gctr : Option Nat) (bits : BitVec 128) : State :=
  let e := s.engq q
  let r : Rec := { bits := bits, slot := slot, uid := uid, seq := s.seq, gctr := gctr, chained := false, subs := [],
                   chain := none, flags := 0, waits := [], ts := none, desc := [], fired := false,
                   todo := false, link := false, prev := none, raw := none }
  { (s.setEngq q { e with recs := e.recs ++ [r] }) with seq := s.seq + 1 }

/-- Bytes of a record that have not performed yet: those of its bank-fill stores that wait, and what a QPW or QPWR has sent
and no acknowledgement covers (R247, R269, R324). -/
def State.onTheWay (s : State) (r : Rec) : Nat :=
  (s.lanes.map (fun l => ((l.2.fills.filter (fun f => f.seq == some r.seq)).map (fun (f : FillWait) => f.data.length)).sum)).sum +
  if bitsOf r.bits.toNat 127 122 = 0x10 ∨ bitsOf r.bits.toNat 127 122 = 0x11 then
    (r.waits.map (fun w => ((((s.stream w.1).kept ++ (s.stream w.1).queue).filter (fun f => f.frame.seq ≤ w.2)).map (fun f =>
      f.frame.payload.length)).sum)).sum
  else 0

/-- BARRIER_SUBTRACT: performed bytes of a running record reach the home of a barrier that it names (R174, R247). -/
def execBarrierSubtract (queue pos bytes : Nat) (s : State) : Out :=
  let e := s.engq queue
  match e.run[pos]? with
  | none => .next s
  | some r =>
    match r.subs.find? (fun b => b.2 ≠ 0) with
    | none => .next s
    | some (bar, left) =>
      if r.todo ∨ bytes = 0 ∨ 4096 < bytes ∨ left < bytes + s.onTheWay r then .next s
      else
        match s.barSub (s.recParty (queue / 8) r) bar bytes with
        | (s1, false) => .next s1
        | (s1, true) =>
          let e1 := s1.engq queue
          let subs := r.subs.map (fun b => if b.1 == bar then (b.1, b.2 - bytes) else b)
          .next (s1.setEngq queue { e1 with run := listSet e1.run pos { r with subs := subs } })

end Sys2Proof.Machine
end

