-- ==== Sys2Proof/Machine/Hub.lean ====
section
/-! DEFINITION. The range translator's commands and page requests, the freeze of cache slices, boot, the host's BAR4,
and the growth record (R384 to R388, R402 to R411, R456 to R463). -/

namespace Sys2Proof.Machine

/-! ### Translator commands (R404 to R406) -/

/-- Whether a page that was built has to wait for the host (R404). -/
def Run.away (r : Run) : Bool := match r.state with | .absent => true | .discarded => true | _ => false

/-- The job of a run's domain. -/
def State.runJob (s : State) (r : Nat × Run) : Option Nat := s.domJob (r.1 / 2 ^ 32)

/-- The runs of a job dropped that overlap a range of pages, each as a whole (R405); and those at which its held accesses wait,
which are tried anew (R404). -/
def State.dropRuns (s : State) (j page n : Nat) : State :=
  let mine (r : Nat × Run) : Bool := s.runJob r == some j
  let inside (r : Nat × Run) : Bool := page ≤ r.1 % 2 ^ 32 && r.1 % 2 ^ 32 < page + n
  { s with runs := ((runsOf s.runs).filter (fun g => !g.any (fun r => mine r && inside r))).flatten.filter (fun r =>
      !(mine r && r.2.away)) }

/-- A command that the translator takes, or drops where 16 are pending (R406). From now on the runs it names are
walked anew. -/
def State.xlAccept (s : State) (mapped : Bool) (j page n : Nat) : State :=
  if 16 ≤ s.xl.cmds.length then { s with xl := { s.xl with err := true } }
  else { (s.dropRuns j page n) with xl := { s.xl with cmds := s.xl.cmds ++ [⟨mapped, j, page, n⟩] } }

/-- XLCMD_INVAL (R405). -/
def execXlcmdInval (job : BitVec 8) (va : BitVec 32) (npage : BitVec 16) (s : State) : Out :=
  .next (s.xlAccept false job.toNat va.toNat (npage.toNat + 1))

/-- XLCMD_MAPPED: runs dropped as for INVAL; the job's held accesses and side logs find the new ones at their next
try, and its page requests are answered (R406). -/
def execXlcmdMapped (job : BitVec 8) (va : BitVec 32) (npage : BitVec 16) (s : State) : Out :=
  .next (s.xlAccept true job.toNat va.toNat (npage.toNat + 1))

/-- XLCMD_BAD: a command with an OP that is neither, or one too many, is dropped (R406). -/
def execXlcmdBad (value : Word) (s : State) : Out :=
  let op := bitsOf value.toNat 63 60
  if (op ≠ 1 ∧ op ≠ 2) ∨ 16 ≤ s.xl.cmds.length then .next { s with xl := { s.xl with err := true } } else .next s

/-- XLCMD_COMPLETE: the oldest command completes. Accesses perform as they resolve, so none is left to wait for
(log 9). -/
def execXlcmdComplete (s : State) : Out :=
  match s.xl.cmds with
  | _ :: cs => .next { s with xl := { s.xl with cmds := cs, done := (s.xl.done + 1) % 2 ^ 32 } }
  | [] => .next s

/-- PRQTAIL.TAIL (R406). -/
def State.prqTail (s : State) : Nat := (s.raw 0x900018).toNat % 256

/-- Entries between TAIL and HEAD of the page-request ring. -/
def State.prqUsed (s : State) : List Nat :=
  (List.range ((s.xl.head + 256 - s.prqTail) % 256)).map (fun i => (s.prqTail + i) % 256)

/-- PAGE_REQUEST_POST: the oldest waiting request is posted, unless the ring is full or holds the page already
(R406). -/
def execPageRequestPost (s : State) : Out :=
  match s.xl.wait with
  | [] => .next s
  | (j, p, k) :: ws =>
    if s.prqUsed.any (fun i => match SMap.find s.xl.ring i with
        | some (j', p', _) => j' == j && p' == p
        | none => false) then .next { s with xl := { s.xl with wait := ws } }
    else if (s.xl.head + 1) % 256 = s.prqTail then .next s
    else
      let x := { s.xl with wait := ws, ring := SMap.put s.xl.ring s.xl.head (j, p, k), head := (s.xl.head + 1) % 256 }
      .next ({ s with xl := x }.irq 0 0)

/-- The domains through which a slot's held accesses resolve: its unit's, and those of the records that wait in the queues of
its core, whose units need not be resident (R360, R404). -/
def State.heldDoms (s : State) (slot : Nat) : List Nat :=
  let core := coreOf slot
  let u := s.unitOf slot
  let recs := (s.engqs.filter (fun q => q.1 / 8 == core)).flatMap (fun q => q.2.recs ++ q.2.run)
  [u.lctr, jobDom u.job] ++ recs.flatMap (fun r => let p := s.recParty core r; [p.dom, jobDom p.job])

/-- HELD_ACCESS_RETRY: a held access, log entry or record of a slot is tried again on its pages as they now stand (R404). -/
def execHeldAccessRetry (slot : Nat) (s : State) : Out :=
  let ds := s.heldDoms slot
  .next { s with runs := s.runs.filter (fun r => !(ds.contains (r.1 / 2 ^ 32) && r.2.away)) }

/-! ### Reductions (R162) -/

/-- A reduction of R162 on an old value of `w` bytes, by its aop. -/
def aopValue (aop w old v : Nat) : Nat :=
  let n := 8 * w
  let a := old % 2 ^ n
  let b := v % 2 ^ n
  match aop with
  | 0 => (a + b) % 2 ^ n
  | 1 => if sint n a ≤ sint n b then a else b
  | 2 => if sint n a ≤ sint n b then b else a
  | 3 => min a b
  | 4 => max a b
  | 5 => a &&& b
  | 6 => a ||| b
  | 7 => a ^^^ b
  | _ => b

/-! ### The freeze (R385 to R387) -/

/-- FZBASE to FZLIM. -/
def State.fzRange (s : State) (pa : Nat) : Bool := (s.raw 0x800008).toNat ≤ pa && pa ≤ (s.raw 0x800010).toNat

/-- The bytes of a request. -/
def reqLocs (r : SliceReq) : List Loc :=
  (List.range (if r.write then r.data.length else r.len)).map (fun i => Loc.mem (r.pa + i) r.key)

/-- Whether a request meets data that is marked bad and that it does not overwrite whole (R18, R312). -/
def State.reqBad (s : State) (r : SliceReq) : Bool := s.eccBad (if r.write then .store else .load) (reqLocs r)

/-- The value that an atomic leaves, by its OP (R162, R422). -/
def areqValue (op w old operand expected : Nat) : Nat :=
  if op / 16 = 1 then (if old = expected % 256 ^ w then operand % 256 ^ w else old) else aopValue (op % 16) w old operand

/-- What an atomic request leaves at its bytes (R162, R173, R386): an arrival at a record that has FAILED, or whose count is
reached, changes nothing. -/
def State.atomReq (s : State) (r : SliceReq) (op : Nat) : State :=
  let ls := (List.range r.len).map (fun i => Loc.mem (r.pa + i) r.key)
  let old := ofBytes (s.readLocs ls)
  if s.eccBad .atomic ls then s
  else if op = 0x30 then
    (if r.len ≠ 16 ∨ bitOf old 56 ∨ bitsOf old 47 32 = bitsOf old 31 16 then s
     else s.putBar (((s.checkedAt r.pa).map (·.1)).getD 256) ls (setBits old 47 32 (bitsOf old 47 32 + 1)) true)
  else s.perform ls (bytesOf r.len (areqValue op r.len old (ofBytes r.data) r.expected))

/-- A request accepted at its home: a read makes its sectors valid, a write or an atomic performs (R386, R394). One that meets
bad data does neither: nothing marked bad is stored or forwarded (R18). -/
def State.serveReq (s : State) (r : SliceReq) : State :=
  match r.op with
  | some op => s.atomReq r op
  | none => if s.reqBad r then s else if r.write then s.perform (reqLocs r) r.data else s.touchReads (reqLocs r)

/-- The tags of the checked sectors that a request writes for no unit are cleared (R316). -/
def State.clearReqTags (s : State) (r : SliceReq) : State :=
  let n := if r.op.isSome then r.len else r.data.length
  if r.owner.isSome || !(r.write || r.op.isSome) then s
  else s.clearTags ((List.range n).filterMap (fun i => s.tagPlace (r.pa + i))).eraseDups

/-- A request of a function performs; a write clears the tags of the checked sectors it writes (R316). One that meets bad
data faults: it is counted as an Unsupported Request, and the job of a virtual function is cancelled (R18; log 93). -/
def State.serveHost (s : State) (fn : Nat) (r : SliceReq) : State :=
  if s.reqBad r then
    let s1 := s.fnError fn
    if fn = 0 then s1 else s1.cancelJobN (s1.fnJob fn)
  else (s.clearReqTags r).serveReq r

/-- A request at a slice port: accepted, or replayed to its home and counted (R386). DESIGN CHOICE (log 129): it stands for an
access that has left its requester; its tags were stepped there, and what it returns goes nowhere else. -/
def State.acceptReq (s : State) (slice : Nat) (r : SliceReq) : State :=
  let s := if s.homeOf r.pa = slice then s else { s with fzReplay := (s.fzReplay + 1) % 2 ^ 32 }
  (s.clearReqTags r).serveReq r

/-- SLICE_REQUEST_ACCEPT: a request arriving at a slice port is held in a freeze, else accepted or replayed
(R385, R386). -/
def execSliceRequestAccept (slice : Nat) (req : SliceReq) (s : State) : Out :=
  if s.fz && s.fzRange req.pa then .next { s with frozenAt := s.frozenAt ++ [⟨req, slice⟩] }
  else .next (s.acceptReq slice req)

/-- FREEZE set: requests that slices had accepted have performed (R385). -/
def State.freezeOn (s : State) : State := { s with fz := true }

/-- One line of the range handled as R387, step 1, lays down. -/
def State.thawLine (s : State) (l : Line) : State :=
  if !s.fzRange (l.line * 512) || s.homeOf (l.line * 512) == l.slice then s
  else if s.pinned l.line then
    { s with lines := s.lines.map (fun m => if m.line == l.line && m.slice == l.slice then
        { m with slice := s.homeOf (l.line * 512) } else m),
             fzMoved := min 255 (s.fzMoved + 1) }
  else
    let s1 := s.spillTags l.line
    { s1 with lines := dropLine s1.lines l.line l.slice, fzOrphan := min 255 (s1.fzOrphan + 1) }

/-- FREEZE cleared: the three steps of R387, but for the frames that fabric ports hold; commits that waited for held writes are
then accepted (R324), and status updates made. Waiting units and records try again at their next turn, those of one core in the
order in which they were issued. -/
def State.freezeOff (s : State) : State :=
  if !s.fz then s
  else
    let s1 := s.lines.foldl State.thawLine s
    let s2 := s1.frozenAt.foldl (fun s h => s.acceptReq h.slice h.req) { s1 with fz := false, frozenAt := [] }
    let s3 := s2.heldReq.foldl (fun s r => s.serveHost r.1 r.2) { s2 with heldReq := [] }
    let s4 := s3.heldStats.foldl (fun s x => s.statNow x.1 x.2.1 x.2.2) { s3 with heldStats := [] }
    let s4 := s4.heldCommit.foldl (fun s c => s.commit c.2.1 c.2.2) { s4 with heldCommit := [] }
    { s4 with ctxs := s4.ctxs.map (fun c => (c.1, { c.2 with frz := false })),
              engqs := s4.engqs.map (fun q => (q.1, { q.2 with frz := false })) }

/-- FREEZE_SET. -/
def execFreezeSet (s : State) : Out := .next s.freezeOn

/-! ### Boot and readiness (R460, R461) -/

/-- Bytes in the boot window. -/
def bootWindow : Nat := 0x2000000

/-- The device reset: everything but the flash, whose counts live on, and what the surroundings do next (R462). -/
def State.deviceReset (s : State) : State :=
  { State.reset with agenda := s.agenda, flash := s.flash, growth := s.flash }

/-- BOOTCMD CMD 01 taken by the boot ROM while it waits for an image (R460). -/
def State.bootRun (s : State) (len : Nat) : State :=
  if s.boot.code = 0 ∨ s.boot.code = 3 ∨ s.boot.code = 4 then { s with boot := { s.boot with code := 1, len := len } } else s

/-- BOOT_VERIFY_RUN. -/
def execBootVerifyRun (len : BitVec 32) (s : State) : Out := .next (s.bootRun len.toNat)

/-- The bytes of the loaded image (R460). -/
def Boot.loaded (b : Boot) : List Byte := (List.range b.len).map (fun i => Memory.read b.image i)

/-- BOOT_VERIFY_COMPLETE: running, or a bad length, or a signature that does not verify over the image's SM3 digest (R14,
R460; log 7). -/
def execBootVerifyComplete (s : State) : Out :=
  if s.boot.code ≠ 1 then .next s
  else if s.boot.len = 0 ∨ bootWindow < s.boot.len then .next { s with boot := { s.boot with code := 4 } }
  else
    let img := s.boot.loaded
    .next { s with boot := { s.boot with code := if Config.imageVerifies img (sm3 img) then 2 else 3 } }

/-- DEVICE_RESET_CMD: BOOTCMD CMD 10, an orderly reset, before which the growth record is written (R460, R462). -/
def execDeviceResetCmd (s : State) : Out := .next { s with flash := s.growth }.deviceReset

/-- DEVICE_RESET. -/
def execDeviceReset (s : State) : Out := .next s.deviceReset

/-- The tasks of a firmware that does not run any more: they stop, and end no request (R14, R281). -/
def State.stopTasks (s : State) : State :=
  let s1 := ([160, 161].filter (fun i => (s.ctx i).uid.isSome)).foldl (fun (s : State) i =>
    let u := (s.ctx i).uid.getD 0
    let s0 := s.stopWork u
    { s0 with units := SMap.erase s0.units u }.freeCtx i) s
  { s1 with svc := { s1.svc with running := false, own := false } }

/-- FIRMWARE_FAULT: CODE 5, vector 2, every job cancelled; nothing of the firmware goes on (R14, R460). -/
def execFirmwareFault (s : State) : Out :=
  let s1 := ({ s with boot := { s.boot with code := 5 } }.irq 0 2).stopTasks
  .next ((List.range 256).foldl (fun s j => if s.jobValid j then s.cancelJobN j else s) s1)

/-- READY bit `b` as a mask. -/
def readyBit (b : Nat) : Word := 1#64 <<< b

/-- Whether a function may report ready: a stack that has not passed 105 °C since its reset once all its columns are
scrubbed, dispatch once verified firmware runs (R14, R331, R338). Whether links and channels are trained stands with the
event. -/
def State.mayReady (s : State) (bit : Nat) : Bool :=
  if 56 ≤ bit then !(s.stackOf (bit - 56)).overt && (List.range 64).all (fun l => !(s.laneOf (64 * (bit - 56) + l)).scrubbing)
  else if bit = 28 then s.boot.code == 2 else true

/-- The four memory-channel groups: that of a physical address (R392). -/
def chanGroup (pa : Nat) : Nat := pa / 512 % 24 / 6

/-- Every sector of a channel group written with zero and valid ECC, under no key (R463). -/
def State.initChannels (s : State) (k : Nat) : State :=
  { s with mem := s.mem.filter (fun c => chanGroup c.1 ≠ k), memKey := s.memKey.filter (fun c => chanGroup (128 * c.1) ≠ k),
           poison := s.poison.filter (fun w => 2 ^ 64 ≤ w ∨ chanGroup (32 * w) ≠ k),
           lines := s.lines.filter (fun l => chanGroup (512 * l.line) ≠ k) }

/-- What bring-up makes of a channel group, its sectors (R463), and of a stack, its repairs (R342). -/
def State.bringUp (s : State) (bit : Nat) : State :=
  if 42 ≤ bit ∧ bit < 46 then s.initChannels (bit - 42)
  else if bit < 56 then s
  else
    let i := bit - 56
    s.setStack i { s.stackOf i with rows := (Config.repairRows i).toNat, buslines := (Config.repairLines i).toNat }

/-- FUNCTION_READY: a bit of READY is set, and vector 3 tells of the change (R459, R461). -/
def execFunctionReady (bit : Nat) (s : State) : Out :=
  if 28 ≤ bit ∧ bit < 64 ∧ !s.ready.getLsbD bit ∧ s.mayReady bit then
    .next ({ s.bringUp bit with ready := s.ready ||| readyBit bit }.irq 0 3)
  else .next s

/-- FUNCTION_FAIL: a bit of READY clears, raising vector 3 (R461). -/
def execFunctionFail (bit : Nat) (s : State) : Out :=
  if 28 ≤ bit ∧ bit < 64 ∧ s.ready.getLsbD bit then .next ({ s with ready := s.ready &&& ~~~(readyBit bit) }.irq 0 3)
  else .next s

/-- GROWTH_RECORD_WRITE: the live counters written to flash (R462). -/
def execGrowthRecordWrite (s : State) : Out := .next { s with flash := s.growth }

/-! ### The host's BAR4 (R456 to R458) -/

/-- A word of FNCFG of a function. -/
def State.fncfg (s : State) (f i : Nat) : Nat := (s.raw (0xE00000 + 0x20 * f + 8 * i)).toNat

/-- The physical address of a BAR4 access of a function, unless it is an Unsupported Request (R457). -/
def State.bar4 (s : State) (f off n : Nat) : Option Nat :=
  let pa := s.fncfg f 1 + off
  if f ≤ 16 ∧ 0 < n ∧ pa + n ≤ s.fncfg f 2 % 2 ^ 48 + 1 ∧ pa + n ≤ paEnd then some pa else none

/-- HOST_BAR4_READ: answered through the slices under the function's key, held in a freeze (R385, R393, R457). -/
def execHostBar4Read (fn off n : Nat) (s : State) : Out :=
  match s.bar4 fn off n with
  | none => .next (s.fnError fn)
  | some pa =>
    let r : SliceReq := ⟨pa, false, n, [], s.slotKey (s.fncfg fn 3 % 256), none, 0, none⟩
    if (List.range n).any (fun i => s.frozen (pa + i)) then .next { s with heldReq := s.heldReq ++ [(fn, r)] }
    else .next (s.serveHost fn r)

/-- HOST_BAR4_WRITE: performs under the function's key; tags of checked sectors it writes are cleared (R316, R457). -/
def execHostBar4Write (fn off : Nat) (data : List Byte) (s : State) : Out :=
  let n := data.length
  match s.bar4 fn off n with
  | none => .next (s.fnError fn)
  | some pa =>
    let r : SliceReq := ⟨pa, true, n, data, s.slotKey (s.fncfg fn 3 % 256), none, 0, none⟩
    if (List.range n).any (fun i => s.frozen (pa + i)) then .next { s with heldReq := s.heldReq ++ [(fn, r)] }
    else .next (s.serveHost fn r)

/-- The column that BFSEL selects: stack and lane as a lane number (R458). -/
def State.bfCol (s : State) : Nat := bitsOf (s.raw 0xE10000).toNat 59 51

/-- BANK_FILL_APERTURE_WRITE: the bank-fill path to the selected column; a row that does not exist, a write across a row's
end, or one that meets bad data and does not overwrite it whole, writes nothing and is counted (R312, R330, R458;
log 93). -/
def execBankFillApertureWrite (off : Nat) (data : List Byte) (s : State) : Out :=
  let row := bitsOf off 24 11
  let byte := bitsOf off 10 0
  if 2 ^ 31 ≤ off ∨ 12288 ≤ row ∨ 2048 < byte + data.length then .next (s.fnError 0)
  else
    let ls := (List.range data.length).map (fun i => Loc.bank s.bfCol (bitsOf off 30 25) row (byte + i))
    .next (if s.eccBad .store ls then s.fnError 0 else s.perform ls data)

/-- BANK_FILL_APERTURE_READ: all ones are returned, and the read is counted (R458). -/
def execBankFillApertureRead (_off _n : Nat) (s : State) : Out := .next (s.fnError 0)

/-- HOST_SPDM_REQUEST: the device answers as responder. It agrees to the algorithm sets of R426 alone; its measurement is the
SM3 digest of the loaded firmware image and its identity the fused key pair; a session is set up and ended by requests of
its own. Inside it the host delivers the keys of second-tier key slots and of session key slots, which running firmware
writes (R14, R393, R423, R426; log 130). -/
def execHostSpdmRequest (code : HostSpdm) (s : State) : Out :=
  match code with
  | .message 0xE0 => .next { s with hostAnswer := sm3 s.boot.loaded }
  | .message 0x82 => .next { s with hostAnswer := Config.identity }
  | .message 0xEC => .next { s with hostSession := false, hostAnswer := [] }
  | .message c =>
    if (c = 0xE4 ∨ c = 0xE5) ∧ s.hostAgreed then .next { s with hostSession := true, hostAnswer := [] }
    else .next { s with hostAnswer := [] }
  | .negotiate offered => .next { s with hostAgreed := offered, hostAnswer := [] }
  | .memoryKey slot key =>
    if s.hostSession ∧ s.boot.code = 2 then
      let n := SMap.get s.keyGen 0 slot.toNat + 1
      .next { s with keyGen := SMap.put s.keyGen slot.toNat n
                     mkeys := SMap.put s.mkeys (slot.toNat + 256 * n) (bytesOf 32 key.toNat), hostAnswer := [] }
    else .next { s with hostAnswer := [] }
  | .sessionKey slot key =>
    if s.hostSession ∧ s.boot.code = 2 then
      .next { s with skeys := SMap.put s.skeys slot.toNat (bytesOf 16 key.toNat), hostAnswer := [] }
    else .next { s with hostAnswer := [] }

end Sys2Proof.Machine
end

