-- ==== Sys2Proof/Machine/Columns.lean ====
section
/-! DEFINITION. Lanes and their columns: ticks, holds and dependences, stream faults, banks, row ports, the refresh
guard and write-buffer drains (R203 to R222, R328 to R340). -/

namespace Sys2Proof.Machine

/-- CCLK of a stack (R337). -/
def State.cclk (s : State) (stack : Nat) : Nat := (s.stackOf stack).cclk.toNat

/-- REFCLK of a stack (R337). -/
def State.refclk (s : State) (stack : Nat) : Nat := (s.stackOf stack).refclk.toNat

/-- CCLK at a lane. -/
def State.laneClk (s : State) (lane : Nat) : Nat := s.cclk (lane / 64)

/-- An address of `bufs`: lane, buffer, byte (R30). -/
def bufAddr (lane b off : Nat) : Nat := (lane * 4 + b) * 16384 + off

/-- An accumulator element of a lane: bank, element (R30). -/
def Lane.accAt (l : Lane) (bank el : Nat) : F32 := SMap.get l.acc 0 (256 * bank + el)

/-- An accumulator element written. -/
def Lane.setAcc (l : Lane) (bank el : Nat) (v : F32) : Lane := { l with acc := SMap.set l.acc 0 (256 * bank + el) v }

/-- Accumulator elements written from an element upward. -/
def Lane.setAccs (l : Lane) (bank el : Nat) : List F32 → Lane
  | [] => l
  | v :: vs => (l.setAcc bank el v).setAccs bank (el + 1) vs

/-- Elements 0 to n − 1 of a bank. -/
def Lane.accs (l : Lane) (bank n : Nat) : List F32 := (List.range n).map (fun i => l.accAt bank i)

/-- A row port of a lane (R217). -/
def Lane.port (l : Lane) (p : Nat) : Port := SMap.get l.ports Port.init p

/-- A row port replaced. -/
def Lane.setPort (l : Lane) (p : Nat) (x : Port) : Lane := { l with ports := SMap.set l.ports Port.init p x }

/-- A bank of the column by 4 · layer + bank. -/
def Lane.bankT (l : Lane) (b : Nat) : BankT := SMap.get l.banks BankT.init b

/-- A bank replaced. -/
def Lane.setBank (l : Lane) (b : Nat) (x : BankT) : Lane := { l with banks := SMap.set l.banks BankT.init b x }

/-! ### Dependences (R205, R208) -/

/-- The tick until which a read, or a write, of a range of lane storage is held by earlier words. -/
def Lane.floor (l : Lane) (write : Bool) (sp : Space) (lo hi : Nat) : Nat :=
  l.deps.foldl (fun m d => if d.space = sp ∧ d.lo < hi ∧ lo < d.hi ∧ (write || d.write) then max m d.till else m) 0

/-- A use of a range of lane storage until a tick. Uses that end by `now` hold nothing any more. -/
def Lane.use (l : Lane) (now : Nat) (write : Bool) (sp : Space) (lo hi till : Nat) : Lane :=
  { l with deps := ⟨sp, lo, hi, till, write, l.pos⟩ :: l.deps.filter (fun d => now < d.till) }

/-- Whether a range of lane scratch waits for a tree result that has not been written (R208, R326). -/
def State.sumPending (s : State) (l : Lane) (lo hi : Nat) : Bool :=
  l.issued.any (fun w => match w.sum with
    | none => false
    | some i => match SMap.find s.sums i with
      | none => false
      | some x =>
        let a := 0x3F000 + 1024 * (x.k % 4)
        let b := 0x3EFE0 + 8 * (x.k % 4)
        !x.written && ((lo < a + 1024 && a < hi) || (lo < b + 8 && b < hi)))

/-! ### Stream faults (R211 to R213) -/

/-- The fault record of a lane at a word of its stream and an execution (R213). The place after an image without HALTL
holds no word: WORD is 0 there (log 89). -/
def faultRecord (lane code word pos exec : Nat) : BitVec 128 :=
  BitVec.ofNat 128 (2 ^ 96 * (exec % 4096) + 2 ^ 64 * (pos % 2 ^ 32) + 2 ^ 56 * (lane % 64) + 2 ^ 48 * code + word)

/-- Cause and INFO with which a lane fault is delivered (R368). -/
def laneCause (code : Nat) : Nat × Nat := if code = 0x0C then (8, 0x0C) else if code = 0x0B then (0x0D, 0x0B) else (0x0C, code)

/-- The lane scratch bytes that a lane's word reads in the present tick: a store of another party in the same tick is not
seen (R209). -/
def State.laneScratch (s : State) (lane off n : Nat) : List Byte :=
  (List.range n).map (fun i =>
    let a := scratchAddr lane (off + i)
    match s.scratchWas.find? (fun x => x.1 == a) with
    | some x => x.2
    | none => Memory.read s.scratch a)

/-- A stream fault at a word, its position and an execution: the stream stops, the record goes to the pushing unit, or to
the status of its launch where the unit has ended; an uncorrectable error cancels the job with the unit's fatal fault, or
at once where the unit has ended (R212, R240, R376). What issued before goes on. Where the stream's HALTL has issued, nothing of it is left to discard. -/
def State.streamFault (s : State) (lane code : Nat) (w : LWord) (pos exec : Nat) : State :=
  let l := s.laneOf lane
  let r := faultRecord lane code w.bits.toNat pos exec
  let s1 := s.setLane lane { l with
    fault := some code, discarding := l.running, running := false,
    issued := l.issued.filter (fun x => x.pos != pos && !x.halt),
    later := l.later.filter (fun a => match a.2 with | .exec x => x.pos != pos | _ => true) }
  let ci := laneCause code
  let ended (s : State) : State :=
    let s2 := s.launchStat w.lctr (StatUpd.bad code 0 0 0 r.toNat)
    match code == 0x0C, l.job with
    | true, some j => s2.cancelJobN j
    | _, _ => s2
  match w.uid with
  | some u => (match s1.unit? u with
    | some x => if x.ending = none then s1.pend u ⟨ci.1, ci.2, 0, r, lane, 0⟩ else ended s1
    | none => ended s1)
  | none => ended s1

/-- The word at a lane's head; of an empty queue, no word of the stream's unit. -/
def Lane.head (l : Lane) : LWord :=
  match l.words with
  | w :: _ => w
  | [] => ⟨0, l.uid, l.strict, l.lctr, 0, l.group, false⟩

/-- A stream fault at the lane's head word. -/
def State.laneFault (s : State) (lane code : Nat) : State :=
  let l := s.laneOf lane
  s.streamFault lane code l.head l.pos 0

/-! ### Issue (R204 to R206) -/

/-- Growth counters of external hold ticks and forced refreshes, by stack. -/
def gHold (stack : Nat) : Nat := 1200 + stack
def gForced (stack : Nat) : Nat := 1220 + stack
def gSkew (stack : Nat) : Nat := 1240 + stack
def gTreeErr (stack : Nat) : Nat := 1260 + stack

/-- External hold ticks counted (R206, R349). -/
def State.countHold (s : State) (stack n : Nat) : State :=
  if n = 0 then s
  else
    let x := s.stackOf stack
    (s.setStack stack { x with exthold := (x.exthold + n) % 2 ^ 64 }).grow (gHold stack) n

/-- Ticks of an interval that lie in none of some intervals. -/
def uncounted : Nat → Nat → List (Nat × Nat) → Nat
  | lo, hi, [] => hi - lo
  | lo, hi, (a, b) :: xs => uncounted lo (min hi a) xs + uncounted (max lo b) hi xs

/-- Ticks from `lo` to `hi` for which an external hold has delayed a lane's word or execution: those are counted that no
other word of the lane was held for (R206, R349). -/
def State.countHeld (s : State) (lane lo hi : Nat) : State :=
  if hi ≤ lo then s
  else
    let l := s.laneOf lane
    (s.setLane lane { l with counted := ((lo, hi) :: l.counted).take 8 }).countHold (lane / 64) (uncounted lo hi l.counted)

/-- The tick at which the next word would issue if it met only the stream's own holds up to its idle ticks (R204,
R453). -/
def Lane.nominal (l : Lane) (idle : Nat) : Nat := l.after + idle + (if l.pos = 0 then 0 else l.gap)

/-- Whether a bank's deadline has passed by a tick of a lane, so that the guard must act first (R220, R331). -/
def State.guardFirst (s : State) (l : Lane) (lane t : Nat) (dueOk : Nat → Bool) : Bool :=
  (List.range 64).any (fun b => !dueOk b &&
    (let x := l.bankT b
     if x.due then decide (x.dueAt ≤ t) else decide (x.deadline + s.laneClk lane ≤ s.refclk (lane / 64) + t)))

/-- Whether the lane's head word may not go on at all at a tick: no stream runs, the stream has faulted, the stack is past
its limit, a forced refresh holds the lane on REFCLK, or the guard must act first (R212, R220, R338, R340). -/
def State.laneStopped (s : State) (l : Lane) (lane t : Nat) (dueOk : Nat → Bool) : Bool :=
  !l.running || l.fault.isSome || (s.stackOf (lane / 64)).overt || (l.refHold != 0 && l.stallAt ≤ t) || s.guardFirst l lane t dueOk

/-- A tick moved by the lane's stall, if it falls within it (R205, R220). -/
def Lane.stalled (l : Lane) (t : Nat) : Nat := if l.stallAt ≤ t then max l.stall t else t

/-- A word at its tick: `stated` from internal holds, `ext` from external ones. It waits while the contract clock has not
come so far; in strict mode an external delay is a contract breach (R205, R206). `dueOk` names banks whose deadline the
word itself meets. -/
def State.atTick (s : State) (dueOk : Nat → Bool) (stated ext : Nat) (k : Lane → Nat → State → Out) : Out :=
  let l := s.laneOf s.lane
  let t := l.stalled (max stated ext)
  if s.laneStopped l s.lane t dueOk || s.laneClk s.lane < t then .next s
  else if l.strict ∧ stated < t then .next (s.laneFault s.lane 0x0B)
  else
    let s1 := s.countHeld s.lane stated t
    k (s1.laneOf s.lane) t s1

/-- The arrival of the head word in the queue (R205). A stream's first word has arrived when the stream starts. -/
def Lane.headAt (l : Lane) : Nat :=
  match l.words with
  | w :: _ => if l.pos = 0 then 0 else w.arrived
  | [] => 0

/-- A word that issues once: `own` gives its internal holds, `ext` its external ones. -/
def State.issue (s : State) (idle : Nat) (own ext : Nat) (k : Lane → Nat → State → Out) : Out :=
  let l := s.laneOf s.lane
  s.atTick (fun _ => false) (max (l.nominal idle) (max own l.fence)) (max ext l.headAt) k

/-- The head word issued at `t` and retiring no earlier than `done`; the next word's nominal tick follows `next`. -/
def Lane.finish (l : Lane) (next done : Nat) (sum : Option Nat) (halt : Bool) : Lane :=
  { l with words := l.words.drop 1, issued := l.issued ++ [⟨done, sum, halt, l.head.uid, l.pos, l.head.lctr, l.head.bits⟩],
           pos := l.pos + 1, after := next, latch := [] }

/-- A word that issues once and is then done. -/
def State.word (s : State) (l : Lane) (t done : Nat) : Out := .next (s.setLane s.lane (l.finish (t + 1) done none false))

/-! ### Banks and write buffers (R217 to R222, R333, R334, R336) -/

def tData : Nat := 26
def tRP : Nat := 22
def tRAS : Nat := 48
def tRRD : Nat := 4
def tFAW : Nat := 32
def tWR : Nat := 24
def tRFC : Nat := 252

/-- Nine refresh intervals of a temperature class (R336). -/
def refreshSpan (hot : Bool) : Nat := if hot then 24570 else 49140

/-- Waiting fill stores of a column go up in order, a unit in each tick; one whose row has no entry and no room stays, and
those behind it to other rows need not (R332, R333). -/
def State.refillGo (lane : Nat) : List FillWait → State → State
  | [], s => s
  | f :: fs, s =>
    let l := s.laneOf lane
    if l.fillNow f.bank f.row then
      match l.bus true (s.laneClk lane) (fillUnit f.bank f.row f.byte) with
      | some l1 =>
        State.refillGo lane fs (f.data.zipIdx.foldl (fun (s : State) d =>
          s.fillArrive lane (s.laneOf lane) f.bank f.row (f.byte + d.2) d.1) (s.setLane lane l1))
      | none => s.setLane lane { l with fills := l.fills ++ f :: fs }
    else State.refillGo lane fs (s.setLane lane { l with fills := l.fills ++ [f] })

/-- The waiting fill stores of a column that can arrive. -/
def State.refill (s : State) (lane : Nat) : State :=
  let l := s.laneOf lane
  State.refillGo lane l.fills (s.setLane lane { l with fills := [] })

/-- The first write-buffer entry that satisfies a test goes into the cells (R334). -/
def State.drain (s : State) (lane : Nat) (p : WBuf → Bool) : State :=
  let l := s.laneOf lane
  match l.wbufs.find? p with
  | none => s
  | some w =>
    let bank := w.data.foldl (fun m c => Memory.write m (bankAddr lane w.bank w.row c.1) c.2) s.bank
    State.refill { (s.setLane lane { l with wbufs := l.wbufs.erase w, upAt := max l.upAt (s.laneClk lane) }) with bank := bank } lane

/-- Every entry of a column's buffers drained, in age order, with fuel for the entries (R334). -/
def State.drainAll : Nat → State → Nat → State
  | 0, s, _ => s
  | n + 1, s, lane => if (s.laneOf lane).wbufs.isEmpty then s else (s.drain lane (fun _ => true)).drainAll n lane

/-- With no stream running on a lane every entry of its write buffers drains (R334). -/
def State.drainIdle (s : State) (lane : Nat) : State := if (s.laneOf lane).idle then s.drainAll 128 lane else s

/-- The tick from which a bank may close: tRAS, tWR after the stream's own arrivals, and array words that read it
(R219). -/
def BankT.mayClose (b : BankT) : Nat := max (b.actAt + tRAS) (max b.closeAt b.usedTo)

/-- The tick until which a forced refresh and fill stores hold a close of a bank, externally (R205, R334). -/
def BankT.fillHold (b : BankT) : Nat := max (max b.extReady b.extClose) (if b.fillAt = 0 then 0 else b.fillAt + tWR)

/-- A bank closed at a tick. -/
def BankT.close (b : BankT) (t : Nat) : BankT := { b with row := none, ready := t + tRP }

/-- A bank closed at a tick, and the entry of its open row drained (R219, R334). -/
def State.closeBank (s : State) (lane b t : Nat) : State :=
  let l := s.laneOf lane
  let x := l.bankT b
  match x.row with
  | none => s
  | some r => (s.setLane lane (l.setBank b (x.close t))).drain lane (fun w => w.bank == b && w.row == r)

/-- A bank refreshed at a tick: its deadline moves, its oldest entry drains (R220, R334). -/
def State.refreshBank (s : State) (lane b : Nat) (ref : Nat) (upd : BankT → BankT) : State :=
  let l := s.laneOf lane
  let x := { l.bankT b with lastRef := ref, deadline := ref + refreshSpan (s.stackOf (lane / 64)).hot, due := false }
  (s.setLane lane (l.setBank b (upd x))).drain lane (fun w => w.bank == b)

/-- ACT ticks of a layer with one more, newest first, at most four; the guard's are told apart (R218). -/
def Lane.noteAct (l : Lane) (layer t : Nat) (guard : Bool) : Lane :=
  { l with acts := SMap.set l.acts [] layer (((t, guard) :: SMap.get l.acts [] layer).take 4) }

/-- The earliest ACT after those at some ticks, newest first, that tRRD and tFAW allow (R218). -/
def actFloorOf (a : List Nat) : Nat :=
  max (match a.head? with | some t => t + tRRD | none => 0) (match a[3]? with | some t => t + tFAW | none => 0)

/-- The earliest ACT in a layer after the stream's own, and after the guard's as well: what the guard's add is an external
hold (R205, R218). -/
def Lane.actFloor (l : Lane) (layer : Nat) : Nat :=
  actFloorOf (((SMap.get l.acts [] layer).filter (fun a => !a.2)).map (·.1))
def Lane.actExt (l : Lane) (layer : Nat) : Nat := actFloorOf ((SMap.get l.acts [] layer).map (·.1))

/-! ### The refresh guard (R220, R338, R340) -/

/-- REFRESH_DEADLINE_REACHED: the guard is to refresh the bank at the lane's next boundary. -/
def execRefreshDeadlineReached (lane bank : Nat) (s : State) : Out :=
  if 512 ≤ lane ∨ 64 ≤ bank then .next s
  else
    let l := s.laneOf lane
    let x := l.bankT bank
    if x.deadline ≤ s.refclk (lane / 64) ∧ !x.due then
      .next (s.setLane lane (l.setBank bank { x with due := true, dueAt := s.laneClk lane }))
    else .next s

/-- Ticks of the executions that a lane's issued words have still to make. -/
def Lane.execTicks (l : Lane) : List Nat := l.later.filterMap (fun a => match a.2 with | .exec _ => some a.1 | _ => none)

/-- Whether a lane still issues or executes words of a stream (R203, R216). -/
def Lane.live (l : Lane) : Bool := l.running || !l.execTicks.isEmpty

/-- Where the present or next execution of an issued word of a lane leaves a boundary: at its start where it has not begun,
else at the start of the one after it, or at the end of the array word. -/
def Lane.execBoundary (l : Lane) (a : Nat × LaneAct) : Option Nat :=
  match a.2 with
  | .exec x => match x.op with
    | .array w =>
      if x.got.isEmpty then some a.1
      else if x.r < x.h.rep.toNat then
        some (x.t0 + (match WFmt.ofCode x.fmt with
          | some f => (x.r + 1) * (x.kc * f.bits / 8) / (16 * max 1 (l.port w.port).banks.length)
          | none => 0))
      else some l.arrayFree
    | _ => none
  | _ => none

/-- The first word or execution boundary of a running stream from a tick on. No boundary lies within an execution of an
array word, the last one included: while the array is busy the boundaries are those of its executions (R220; log 111). -/
def Lane.boundary (l : Lane) (t0 : Nat) : Nat :=
  if t0 < l.arrayFree then (l.later.filterMap l.execBoundary).foldl min l.arrayFree
  else match l.execTicks with
    | [] => max t0 l.after
    | t :: ts =>
      let e := ts.foldl min t
      if t0 ≤ l.after then min e l.after else e

/-- Some of a lane's executions to come begin later by `d` ticks from a tick on, by an external hold: so do the ends of
what their words use; of a POPA, those of the elements still to be popped (R216). -/
def Lane.delay (l : Lane) (p : Nat × LRun → Bool) (t0 d : Nat) : Lane :=
  let moved := l.later.filterMap (fun a => match a.2 with | .exec r => if p (a.1, r) then some r else none | _ => none)
  let of (k : Nat) : Bool := moved.any (fun r => r.pos == k)
  let pops (k : Nat) : Bool := moved.any (fun r => r.pos == k && (match r.op with | .popa .. => true | _ => false))
  let arr := moved.find? (fun r => match r.op with | .array _ => true | _ => false)
  let busy (t : Nat) : Nat := if arr.isSome ∧ t = l.arrayFree then t + d else t
  { l with
    later := l.later.map (fun a => match a.2 with
      | .exec r => if p (a.1, r) then (a.1 + d, .exec { r with t0 := r.t0 + d, late := r.late + d }) else a
      | _ => a)
    deps := l.deps.map (fun x => if of x.pos ∧ (!pops x.pos ∨ t0 + 2 ≤ x.till) then { x with till := x.till + d } else x)
    issued := l.issued.map (fun x => if of x.pos then { x with done := x.done + d } else x)
    banks := l.banks.map (fun x => (x.1, { x.2 with usedTo := busy x.2.usedTo }))
    arrayFree := busy l.arrayFree }

/-- Whether the lane's head word is a REF of a bank, and its nominal tick (R220). -/
def Lane.refHead (l : Lane) (bank : Nat) : Option Nat :=
  match l.words with
  | w :: _ =>
    let v := w.bits.toNat
    if bitsOf v 47 42 = 5 ∧ 4 * bitsOf v 35 32 + bitsOf v 31 30 = bank then some (l.nominal (bitsOf v 41 36)) else none
  | [] => none

/-- Whether a bank of a column has reached its deadline and has not been refreshed since (R220). -/
def State.bankDue (s : State) (lane bank : Nat) : Bool :=
  let x := (s.laneOf lane).bankT bank
  x.due || decide (x.deadline ≤ s.refclk (lane / 64))

/-- The tick at which the guard acts on a due bank, by the boundary `at0`: its PRE, where the bank is open, obeys tRAS and
tWR, its REF tRP and tRFCpb (R336, R340). -/
def BankT.guardAt (x : BankT) (at0 : Nat) : Nat :=
  match x.row with
  | some _ => max (max at0 (max (x.actAt + tRAS) x.extClose)) (max x.closeAt (if x.fillAt = 0 then 0 else x.fillAt + tWR))
  | none => max at0 (max x.ready x.extReady)

/-- GUARD_REFRESH: a due bank, the lowest first, is refreshed at the boundary under every figure of R336, and the lane of
a running stream is stalled, by an external hold; with ticks skipped a closed bank needs no boundary and the hold is
counted on REFCLK. A REF of the bank at the boundary meets the deadline instead. Nothing is done before the guard's tick
(R220, R340). -/
def execGuardRefresh (lane bank : Nat) (s : State) : Out :=
  let l := s.laneOf lane
  let x := l.bankT bank
  let st := s.stackOf (lane / 64)
  let clk := s.laneClk lane
  let skip : Bool := s.pwrs == 3 && x.row.isNone
  let at0 := if l.live && !skip then max l.stall (l.boundary x.dueAt) else if l.live then clk else x.dueAt
  let b := x.guardAt at0
  if !x.due ∨ (List.range bank).any (s.bankDue lane) ∨ (l.running ∧ (l.refHead bank).any (fun t => t ≤ at0)) ∨
      x.extRef ≠ 0 ∨ clk < b then .next s
  else
    let act := max (b + tRP + tRFC) (l.actExt (bank / 4))
    let till := match x.row with | some _ => act + tData | none => b + tRFC
    let ref := max (s.refclk (lane / 64) + (b + (if x.row.isSome then tRP else 0)) - clk) (if skip then l.refHold else 0)
    let s1 := match x.row with
      | some r => s.drain lane (fun w => w.bank == bank && w.row == r)
      | none => s
    let s2 := s1.refreshBank lane bank ref (fun y => match y.row with
      | some _ => { y with extReady := till, extClose := act + tRAS }
      | none => if skip then { y with extRef := ref + tRFC } else { y with extReady := till })
    let l1 := s2.laneOf lane
    let l2 := match x.row with
      | some _ => l1.noteAct (bank / 4) act true
      | none => l1
    let l3 := if !l.live then l2
      else if skip then { l2 with refHold := ref + tRFC, stallAt := if l.refHold = 0 then clk + 1 else l.stallAt }
      else { (l2.delay (fun a => at0 ≤ a.1) at0 (till - at0)) with stall := till, stallAt := if at0 = l.stall then l.stallAt else at0 }
    .next (((s2.setLane lane l3).setStack (lane / 64) { st with forced := (st.forced + 1) % 2 ^ 32 }).grow (gForced (lane / 64)) 1)

/-! ### Reset, reassignment, scrubs and temperature (R239, R331, R337, R338, R416) -/

/-- The error marks of all ECC words of a lane's scratch and buffers gone: every byte of them is written (R312). -/
def State.clearLanePoison (s : State) (lane : Nat) : State :=
  let lo := 2 ^ 65 + scratchAddr lane 0 / 32
  let b := bufEcc lane 0 0
  { s with poison := s.poison.filter (fun e => !(lo ≤ e && e < lo + 0x2000) && !(b ≤ e && e < b + 0x800)) }

/-- A lane's part of its island's retention latches is void: a lane reset while its octant is gated wakes as reset left it
(R239, R445). -/
def State.forgetLatch (s : State) (lane : Nat) : State :=
  let k := 13 * (lane / 64) + lane % 64 / 8
  let x := s.island k
  if (SMap.find x.latch lane).isNone then s else s.setIsland k { x with latch := SMap.erase x.latch lane }

/-- A lane taken back to its reset values: ports empty, its banks precharged under their timing rules, its buffers and
scratch zero (R239). Refresh goes on. -/
def State.resetLane (s : State) (lane : Nat) (job : Option Nat) : State :=
  let s1 := (s.drainAll 128 lane).forgetLatch lane
  let l := s1.laneOf lane
  let clk := s1.laneClk lane
  let banks := l.banks.map (fun b => (b.1, match b.2.row with
    | some _ => b.2.close (max (max clk b.2.mayClose) b.2.fillHold)
    | none => b.2))
  let last := match l.job with | some j => some j | none => l.lastJob
  let scrub : Bool := l.scrubbing || (match job with | some j => last != some j | none => false)
  { (s1.clearLanePoison lane |>.setLane lane { Lane.init with
      job := job, lastJob := match job with | some j => some j | none => last, banks := banks, acts := l.acts,
      popped := l.popped, after := clk, scrubbing := scrub }) with
    bufs := Memory.clear s1.bufs (bufAddr lane 0 0) 65536
    scratch := Memory.clear s1.scratch (scratchAddr lane 0) 0x40000 }

/-- LANE_RESET: a lane taken from its job, or assigned to one (R122, R239). -/
def execLaneReset (lane : Nat) (job : Option Nat) (s : State) : Out :=
  if 512 ≤ lane then .next s else .next (s.resetLane lane job)

/-- COLUMN_SCRUB: the column's bank memory is zero, and no error of it is left (R312, R331). A stream that waits for the
scrub starts after it. -/
def execColumnScrub (lane : Nat) (s : State) : Out :=
  let lo := 2 ^ 66 + bankAddr lane 0 0 0 / 32
  if 512 ≤ lane ∨ !(s.laneOf lane).scrubbing then .next s
  else .next { ({ s with poison := s.poison.filter (fun e => !(lo ≤ e && e < lo + 64 * 16384 * 64)) }.setLane lane { s.laneOf lane with
      scrubbing := false, wbufs := [], fills := [], after := max (s.laneOf lane).after (s.laneClk lane) }) with
    bank := Memory.clear s.bank (bankAddr lane 0 0 0) (64 * 16384 * 2048) }

/-- The listed lanes of a stack changed. -/
def State.mapLanes (s : State) (stack : Nat) (f : Lane → Lane) : State :=
  { s with lanes := s.lanes.map (fun l => if l.1 / 64 = stack then (l.1, f l.2) else l) }

/-- Every bank's deadline moved as its stack enters the hot class (R338). -/
def State.hotDeadlines (s : State) (stack : Nat) : State :=
  s.mapLanes stack (fun l => { l with banks := l.banks.map (fun b =>
    (b.1, { b.2 with deadline := min b.2.deadline (b.2.lastRef + 24570) })) })

/-- A stack as a reading of its hottest sensor leaves it: TMAX shows it, and the tick since which all sensors have read 82 °C
or less goes on or is none (R338, R349). -/
def Stack.read (x : Stack) (now celsius : Nat) : Stack :=
  { x with tmax := min 255 celsius, coolAt := if 82 < celsius then none else some (x.coolAt.getD now) }

/-- Ticks of a millisecond. -/
def tickMs : Nat := 1400000

/-- TEMP_HOT_ENTER (R338). -/
def execTempHotEnter (stack celsius : Nat) (s : State) : Out :=
  let x := s.stackOf stack
  if 8 ≤ stack ∨ celsius < 85 ∨ x.hot then .next s
  else
    .next (((s.hotDeadlines stack).setStack stack { x.read s.tick celsius with hot := true }).irq 0 3)

/-- TEMP_COOL_ENTER: no sensor has read more than 82 °C for 1 ms (R338). -/
def execTempCoolEnter (stack celsius : Nat) (s : State) : Out :=
  let x := s.stackOf stack
  if 8 ≤ stack ∨ 82 < celsius ∨ !x.hot ∨ !x.coolAt.any (fun t => t + tickMs ≤ s.tick) then .next s
  else .next ((s.setStack stack { x.read s.tick celsius with hot := false }).irq 0 3)

/-- Jobs that hold lanes in a stack. -/
def State.stackJobs (s : State) (stack : Nat) : List Nat :=
  ((List.range 64).filterMap (fun i => (s.laneOf (64 * stack + i)).job)).eraseDups

/-- A READY bit cleared, with vector 3 if it was set (R461). -/
def State.unready (s : State) (bit : Nat) : State :=
  if s.ready.getLsbD bit then { s with ready := s.ready &&& ~~~(readyBit bit) }.irq 0 3 else s

/-- OVERTEMP: above 105 °C the stack's jobs are cancelled, the host is told by vector 3, and no lane word issues until a
reset (R16, R338). A stack that was cool enters the hot class by it. -/
def execOvertemp (stack celsius : Nat) (s : State) : Out :=
  if 8 ≤ stack ∨ celsius ≤ 105 then .next s
  else
    let x := s.stackOf stack
    let s1 := if x.hot then s else s.hotDeadlines stack
    let s2 := { s1.setStack stack { x.read s.tick celsius with overt := true, hot := true } with
      ready := s1.ready &&& ~~~(readyBit (56 + stack)) }
    .next ((s.stackJobs stack).foldl State.cancelJobN (s2.irq 0 3))

/-- STACK_RESET: lanes, clocks and counters from the start; every bank is due at once (R331, R337). -/
def execStackReset (stack : Nat) (s : State) : Out :=
  if 8 ≤ stack then .next s
  else
    let keep : Nat → Bool := fun k => k / 64 ≠ stack
    .next { ((s.setStack stack Stack.init).unready (56 + stack)) with
      lanes := s.lanes.filter (fun l => keep l.1)
      quads := s.quads.filter (fun q => q.1 / 4 ≠ stack)
      sums := s.sums.filter (fun x => x.2.stack ≠ stack)
      poison := ((List.range 64).foldl (fun (s : State) i => s.clearLanePoison (64 * stack + i)) s).poison
      bufs := Memory.clear s.bufs (bufAddr (64 * stack) 0 0) (64 * 65536)
      scratch := Memory.clear s.scratch (scratchAddr (64 * stack) 0) (64 * 0x40000) }

/-- Modules of a link (R416). -/
def linkModules : UcieLink → Nat
  | .hub => 4
  | _ => 2

/-- Whether both modules of the ring link from a stack to the next are disabled, each at either end (R418). -/
def State.linkDown (s : State) (stack : Nat) : Bool :=
  [0, 1].all (fun m => (s.stackOf stack).nextDown.contains m || (s.stackOf ((stack + 1) % 8)).prevDown.contains m)

/-- Whether a stack is cut off: every hub module and both ring links are disabled (R418). -/
def State.cutOff (s : State) (stack : Nat) : Bool :=
  (s.stackOf stack).hubDown.length == 4 && s.linkDown stack && s.linkDown ((stack + 7) % 8)

/-- UCIE_MODULE_FAIL: a module disabled until stack reset; a stack that is cut off loses its jobs (R416, R418). -/
def execUcieModuleFail (stack : Nat) (link : UcieLink) (unit : Nat) (s : State) : Out :=
  if 8 ≤ stack ∨ linkModules link ≤ unit then .next s
  else
    let x := s.stackOf stack
    let add (l : List Nat) : List Nat := if l.contains unit then l else unit :: l
    let y := match link with
      | .hub => { x with hubDown := add x.hubDown }
      | .next => { x with nextDown := add x.nextDown }
      | .prev => { x with prevDown := add x.prevDown }
    let s1 := s.setStack stack y
    let lost := [stack, (stack + 1) % 8, (stack + 7) % 8].filter (fun i => s1.cutOff i && !s.cutOff i)
    .next (lost.foldl (fun t i => (s.stackJobs i).foldl State.cancelJobN (t.irq 0 3)) s1)

end Sys2Proof.Machine
end

