-- ==== Sys2Proof/Machine/LaneWords.lean ====
section
/-! DEFINITION. The lane words and the starts, retirements and faults of streams (R203 to R238). -/

namespace Sys2Proof

/-- rep + 1, the executions or elements of a word (R207). -/
def LaneHdr.n (h : LaneHdr) : Nat := h.rep.toNat + 1

/-- The stepped value of execution `r` (R207). -/
def LaneHdr.stepped (h : LaneHdr) (v0 r : Nat) : Int := v0 + r * h.step.toInt

/-- The bank index of an address-carrying word. -/
def LaneAddr.b (h : LaneAddr) : Nat := 4 * h.layer.toNat + h.bank.toNat

end Sys2Proof

namespace Sys2Proof.Machine

/-- n / d rounded up. -/
def ceilDiv (n d : Nat) : Nat := (n + d - 1) / d

/-! ### Idle, banks and rows -/

/-- IDLE occupies issue for rep + 1 ticks (R238). -/
def execIdle (h : LaneHdr) (s : State) : Out :=
  s.issue h.idle.toNat 0 0 (fun l t s =>
    .next (s.setLane s.lane (l.finish (t + h.rep.toNat + 2) (t + h.n) none false)))

/-- ACT opens a row into a port. Its faults come before its holds. A forced refresh that is counted on REFCLK has to end
first (R218, R340). -/
def execAct (h : LaneAddr) (port : BitVec 2) (s : State) : Out :=
  let l := s.laneOf s.lane
  let x := l.bankT h.b
  let p := l.port port.toNat
  if x.row.isSome then s.issue h.idle.toNat 0 0 (fun _ _ s => .next (s.laneFault s.lane 0x05))
  else if !p.valid ∨ p.pos ≠ 0 ∨ 8 ≤ p.banks.length then s.issue h.idle.toNat 0 0 (fun _ _ s => .next (s.laneFault s.lane 0x06))
  else if x.extRef ≠ 0 then .next s
  else
    s.issue h.idle.toNat (max x.ready (l.actFloor h.layer.toNat)) (max x.extReady (l.actExt h.layer.toNat)) (fun l t s =>
      let l1 := (l.setBank h.b { x with row := some h.row.toNat, actAt := t, usedTo := 0 }).setPort port.toNat
        { p with banks := p.banks ++ [(h.b, h.row.toNat)] }
      s.word (l1.noteAct h.layer.toNat t false) t (t + tData))

/-- The lane with a bank taken out of its ports; a port that held it is invalidated (R219). -/
def Lane.unport (l : Lane) (b : Nat) : Lane :=
  { l with ports := l.ports.map (fun p => if p.2.banks.any (fun x => x.1 == b) then
      (p.1, { p.2 with banks := p.2.banks.filter (fun x => x.1 ≠ b), valid := false }) else p) }

/-- PRE closes one bank (R219). -/
def execPre (h : LaneAddr) (s : State) : Out :=
  let x := (s.laneOf s.lane).bankT h.b
  match x.row with
  | none => s.issue h.idle.toNat 0 0 (fun l t s => s.word l t t)
  | some _ =>
    s.issue h.idle.toNat x.mayClose x.fillHold (fun l t s =>
      let s1 := (s.setLane s.lane ((l.unport h.b).finish (t + 1) (t + tRP) none false)).closeBank s.lane h.b t
      .next s1)

/-- Ports named by a mask of four bits. -/
def portsOf (m : BitVec 4) : List Nat := (List.range 4).filter (fun i => m.getLsbD i)

/-- PREA closes every bank of the named ports and empties them (R219). -/
def execPrea (h : LaneHdr) (ports : BitVec 4) (s : State) : Out :=
  let l := s.laneOf s.lane
  let bs := (portsOf ports).flatMap (fun p => (l.port p).banks.map (·.1))
  let opened := bs.filter (fun b => (l.bankT b).row.isSome)
  let own := opened.foldl (fun m b => max m (l.bankT b).mayClose) 0
  let ext := opened.foldl (fun m b => max m (l.bankT b).fillHold) 0
  s.issue h.idle.toNat own ext (fun l t s =>
    let l1 := (portsOf ports).foldl (fun l p => l.setPort p Port.init) l
    let s1 := s.setLane s.lane (l1.finish (t + 1) (if opened.isEmpty then t else t + tRP) none false)
    .next (opened.foldl (fun s b => s.closeBank s.lane b t) s1))

/-- REF refreshes a closed bank; it satisfies a deadline that is due at this word (R220). -/
def execRef (h : LaneAddr) (s : State) : Out :=
  let l := s.laneOf s.lane
  let x := l.bankT h.b
  let at_ (own ext : Nat) := s.atTick (fun b => b == h.b) (max (l.nominal h.idle.toNat) (max own l.fence)) (max ext l.headAt)
  if x.row.isSome then at_ 0 0 (fun _ _ s => .next (s.laneFault s.lane 0x05))
  else if x.extRef ≠ 0 then .next s
  else
    at_ x.ready x.extReady (fun l t s =>
      let s1 := s.setLane s.lane (l.finish (t + 1) (t + tRFC) none false)
      .next (s1.refreshBank s.lane h.b (s.refclk (s.lane / 64) - (s.laneClk s.lane - t)) (fun y => { y with ready := t + tRFC })))

/-- The scratch read path that successive WRROWs share, past the last byte of scratch (R216). -/
def rowPath : Nat := 0x40000

/-- WRROW writes a row from lane scratch into the bank write buffer: unit h, read at t + h, arrives at t + h + 1 (R216,
R221, R335; log 90). -/
def execWrrow (h : LaneAddr) (src : BitVec 12) (s : State) : Out :=
  let o := 64 * src.toNat
  let l := s.laneOf s.lane
  if s.sumPending l o (o + 2048) then .next s
  else
    s.issue h.idle.toNat (max (l.floor false .scratch o (o + 2048)) (l.floor true .scratch rowPath (rowPath + 1))) 0
      (fun l t s =>
        if 260096 < o then .next (s.laneFault s.lane 0x04)
        else if (l.wbuf h.b h.row.toNat).isNone ∧
            2 ≤ (l.wbufs.filter (fun w => w.lane && w.bank / 4 == h.layer.toNat)).length then
          .next (s.laneFault s.lane 0x05)
        else if (List.range 2048).any (fun i => s.poisoned (.scratch s.lane (o + i))) then .next (s.laneFault s.lane 0x0C)
        else
          let x := l.bankT h.b
          let l2 := { (l.setBank h.b { x with closeAt := t + 128 + tWR }) with
            wrLast := SMap.set l.wrLast 0 h.layer.toNat (t + 128),
            later := l.later ++ [(t + 1, LaneAct.unit h.b h.row.toNat o 0 (s.laneScratch s.lane o 16) l.head l.pos)],
            upAt := max l.upAt (t + 128) }
          let row := 16384 * h.b + h.row.toNat
          let l3 := ((l2.use t true .row row (row + 1) (t + 130)).use t false .scratch o (o + 2048) (t + 128)).use t true
            .scratch rowPath (rowPath + 1) (t + 128)
          s.word l3 t (t + 128))

/-! ### Configuration (R223 to R225) -/

/-- The repeated words that run on a lane changed. -/
def Lane.mapRuns (l : Lane) (f : LRun → LRun) : Lane :=
  { l with later := l.later.map (fun a => match a.2 with | .exec r => (a.1, .exec (f r)) | _ => a) }

/-- SETFMT sets FMT, KC and XB (R223). -/
def execSetfmt (h : LaneHdr) (xb : BitVec 9) (code : BitVec 4) (kcn : BitVec 8) (s : State) : Out :=
  s.issue h.idle.toNat 0 0 (fun l t s =>
    let kc := 16 * (kcn.toNat + 1)
    match WFmt.ofCode code.toNat with
    | none => .next (s.laneFault s.lane 0x09)
    | some f =>
      if f = .cb4 ∧ kc % 64 ≠ 0 then .next (s.laneFault s.lane 0x09)
      else s.word { l with fmt := code.toNat, kc := kc, xb := 16 * xb.toNat } t t)

/-- SETSC selects the source of scales (R224). -/
def execSetsc (h : LaneHdr) (par : BitVec 12) (port : BitVec 2) (src : Bool) (s : State) : Out :=
  s.issue h.idle.toNat 0 0 (fun l t s =>
    let l1 := if src then l.mapRuns (fun r => { r with ownScp := false }) else l
    s.word (if src then { l1 with scs := some .scratch, scp := 64 * par.toNat } else { l1 with scs := some (.port port.toNat) }) t t)

/-- MASKK sets LIM and clears KPOS (R225). -/
def execMaskk (h : LaneHdr) (lim : BitVec 24) (s : State) : Out :=
  s.issue h.idle.toNat 0 0 (fun l t s =>
    s.word { l.mapRuns (fun r => { r with ownKpos := false }) with lim := lim.toNat, kpos := 0 } t t)

/-! ### Array words (R226 to R228) -/

/-- Activation vectors of a word. -/
def ArrayWord.nv (w : ArrayWord) : Nat :=
  match w.op with
  | .gemvb n => n
  | _ => 1

/-- Weight bytes of one execution (R223). -/
def weightBytes (f : WFmt) (kc : Nat) : Nat := kc * f.bits / 8

/-- Scale bytes of one execution (R223). -/
def scaleBytes (f : WFmt) (kc : Nat) : Nat :=
  match f with
  | .bf16 => 0
  | .cb4 => 4 + kc / 64
  | _ => kc / 16

/-- Byte `i` of a port's stream (R217). -/
def State.streamByte (s : State) (lane : Nat) (p : Port) (i : Nat) : Byte :=
  match p.banks[i / 16 % p.banks.length]? with
  | some (b, r) => s.bankByte lane b r (16 * (i / (16 * p.banks.length)) + i % 16)
  | none => 0

/-- Whether a byte of a port's stream has an uncorrectable error: it is read from the cells, not from the write buffer (R240,
R333). -/
def State.streamBad (s : State) (lane : Nat) (p : Port) (i : Nat) : Bool :=
  match p.banks[i / 16 % p.banks.length]? with
  | some (b, r) =>
    let y := 16 * (i / (16 * p.banks.length)) + i % 16
    s.poisoned (.bank lane b r y) && !((s.laneOf lane).wbuf b r).any (fun w => (Memory.read? w.data y).isSome)
  | none => false

/-- The scale port that an array word uses if SCS names one, whatever the format (R217, R224, R226). -/
def Lane.scalePort (l : Lane) : Option Nat :=
  match l.scs with
  | some (.port p) => some p
  | _ => none

/-- The fault of an execution by the checks of R226, in their order; 0 for none. `y` is the stepped value. -/
def Lane.arrayCheck (l : Lane) (w : ArrayWord) (y : Int) : Nat :=
  match WFmt.ofCode l.fmt with
  | none => 0x09
  | some f =>
    let p := l.port w.port
    let sp := l.scalePort
    let nb := weightBytes f l.kc
    let sb := scaleBytes f l.kc
    let scaleEmpty : Bool := (f != .bf16 && l.scs == none) ||
      (match sp with | some q => (l.port q).banks.isEmpty || !(l.port q).valid | none => false)
    let banks := p.banks.length + (match sp with | some q => (l.port q).banks.length | none => 0)
    if p.banks.isEmpty || !p.valid || scaleEmpty then 0x07
    else if 8 < banks || sp == some w.port then 0x06
    else if 2048 * p.banks.length < p.pos + nb then 0x08
    else if sp.any (fun q => decide (2048 * (l.port q).banks.length < (l.port q).pos + sb)) then 0x08
    else if f ≠ .bf16 ∧ l.scs = some .scratch ∧ 0x40000 < l.scp + sb then 0x04
    else if y < 0 ∨ 255 < y then 0x04
    else match w.op with
      | .gemv => if 8192 < l.xb + l.kc then 0x04 else 0
      | .dotk => if 8192 < l.xb + l.kc then 0x04 else 0
      | .gemvb nv => if 1024 < l.xb + l.kc ∨ 7 < w.a + nv - 1 then 0x04 else 0
      | .axpv _ => if 256 < l.kc then 0x04 else 0

/-- The scale of each block of 16 from an execution's scale bytes (R223). -/
def blockScale (f : WFmt) (rd : Nat → Byte) (b : Nat) : Fp :=
  match f with
  | .bf16 => .fin false 1 0
  | .cb4 => cb4Scale (BitVec.ofNat 32 (ofBytes ((List.range 4).map rd))) (rd (4 + b / 4)).toNat
  | _ => e8m0 (rd b).toNat

/-- What one execution reads: weight elements and block scales. -/
structure Weights where
  fmt   : WFmt
  el    : List Fp
  scale : List Fp
  deriving DecidableEq, Repr

/-- The weights and scales of an execution from the bytes that it has read (R223). -/
def weightsOf (f : WFmt) (kc : Nat) (got scl : List Byte) : Weights :=
  ⟨f, (List.range kc).map (fun k => f.elem (fun i => got.getD i 0) k),
    (List.range (kc / 16)).map (fun b => blockScale f (fun i => scl.getD i 0) b)⟩

/-- Bytes `i` on of the weights of the present execution, and whether any of them is uncorrectable (R226, R240). -/
def State.weightPart (s : State) (lane : Nat) (l : Lane) (w : ArrayWord) (i n : Nat) : List Byte × Bool :=
  let p := l.port w.port
  let js := (List.range n).map (fun k => p.pos + i + k)
  (js.map (s.streamByte lane p), !s.poison.isEmpty && js.any (s.streamBad lane p))

/-- The scale bytes of the present execution, and whether any of them is uncorrectable (R224, R240). -/
def State.scalePart (s : State) (lane : Nat) (l : Lane) (f : WFmt) : List Byte × Bool :=
  let sb := scaleBytes f l.kc
  match l.scalePort with
  | some q =>
    let p := l.port q
    let js := (List.range sb).map (fun k => p.pos + k)
    (js.map (s.streamByte lane p), !s.poison.isEmpty && js.any (s.streamBad lane p))
  | none => (s.laneScratch lane l.scp sb,
      !s.poison.isEmpty && (List.range sb).any (fun i => s.poisoned (.scratch lane (l.scp + i))))

/-- P and SCP advanced past an execution's bytes (R226). -/
def Lane.consume (l : Lane) (w : ArrayWord) (f : WFmt) : Lane :=
  let p := l.port w.port
  let l1 := l.setPort w.port { p with pos := p.pos + weightBytes f l.kc }
  match l.scalePort with
  | some q => l1.setPort q { l1.port q with pos := (l1.port q).pos + scaleBytes f l.kc }
  | none => if f ≠ .bf16 then { l1 with scp := l1.scp + scaleBytes f l.kc } else l1

/-- GEMV, GEMVB and DOTK at one output element, for one activation vector (R227). -/
def Lane.dotStep (l : Lane) (w : ArrayWord) (ws : Weights) (y v : Nat) : Lane :=
  let xs := (List.range l.kc).map (fun k =>
    bfValue ((l.latch[(match w.op with | .gemvb _ => l.kc * v | _ => 0) + k]?).getD 0).toNat)
  let acc := match w.op with
    | .dotk => 0
    | _ => l.accAt (w.a + v) y
  let r := dot acc (ws.el.zip xs) (fun b => ((ws.scale[b]?).getD (.fin false 1 0), .fin false 1 0))
  let r := match w.op with
    | .dotk => if l.lim ≤ l.kpos then ninf32 else r
    | _ => r
  l.setAcc (w.a + v) y r

/-- AXPV: one weighted value row added to the output bank (R228). -/
def Lane.axpvStep (l : Lane) (w : ArrayWord) (out : Nat) (ws : Weights) (y : Nat) : Lane :=
  let p := fp32 (l.accAt w.a y)
  (List.range l.kc).foldl (fun l d =>
    let val := (Fp.mul ((ws.el[d]?).getD .nan) ((ws.scale[d / 16]?).getD (.fin false 1 0))).1
    l.setAcc out d (fl32 (Fp.add (fp32 (l.accAt out d)) (Fp.mul p val).1).1)) l

/-- One execution's effect on the accumulators and KPOS. -/
def Lane.arrayStep (l : Lane) (w : ArrayWord) (ws : Weights) (y : Nat) : Lane :=
  match w.op with
  | .axpv out => l.axpvStep w out ws y
  | .dotk => let l1 := l.dotStep w ws y 0; { l1 with kpos := min (l1.kpos + 1) 0xFFFFFF }
  | _ => (List.range w.nv).foldl (fun l v => l.dotStep w ws y v) l

/-- Stepped values of a word that lie in an accumulator bank. -/
def ArrayWord.ys (w : ArrayWord) : List Nat :=
  ((List.range w.h.n).map (fun r => w.h.stepped w.y0 r)).filterMap (fun (y : Int) =>
    if 0 ≤ y ∧ y ≤ 255 then some y.toNat else none)

/-- The accumulator ranges that a word writes, and those that it reads besides. -/
def ArrayWord.writes (w : ArrayWord) (kc : Nat) : List (Nat × Nat) :=
  match w.op with
  | .axpv out => [(256 * out, 256 * out + min kc 256)]
  | _ => (List.range w.nv).flatMap (fun v => w.ys.map (fun y => (256 * (w.a + v) + y, 256 * (w.a + v) + y + 1)))

/-- The score elements that AXPV reads. -/
def ArrayWord.reads (w : ArrayWord) : List (Nat × Nat) :=
  match w.op with
  | .axpv _ => w.ys.map (fun y => (256 * w.a + y, 256 * w.a + y + 1))
  | _ => []

/-- Banks of a word's ports: their data must have come, and rows that the stream wrote must have arrived (R216, R335). -/
def Lane.portFloor (l : Lane) (ps : List Nat) : Nat :=
  (ps.flatMap (fun p => (l.port p).banks)).foldl (fun m b =>
    max m (max ((l.bankT b.1).actAt + tData) (l.floor false .row (16384 * b.1 + b.2) (16384 * b.1 + b.2 + 1)))) 0

/-- External holds on the banks of a word's ports. -/
def Lane.portExt (l : Lane) (ps : List Nat) : Nat :=
  (ps.flatMap (fun p => (l.port p).banks)).foldl (fun m b => max m (l.bankT b.1).extReady) 0

/-- Ports of an array word. -/
def Lane.wordPorts (l : Lane) (w : ArrayWord) : List Nat :=
  w.port :: l.scalePort.toList

/-- The range of lane scratch from which a word reads its scales (R224). -/
def Lane.scaleRange (l : Lane) (w : ArrayWord) : Nat × Nat :=
  match l.scs, WFmt.ofCode l.fmt with
  | some .scratch, some f => (l.scp, l.scp + w.h.n * scaleBytes f l.kc)
  | _, _ => (0, 0)

/-- Elements of a buffer that a word reads: ranges of bytes. -/
def ArrayWord.bufReads (w : ArrayWord) (xb kc : Nat) : List (Nat × Nat) :=
  match w.op with
  | .axpv _ => []
  | _ => (List.range w.nv).map (fun v => (2 * (xb + 1024 * v), 2 * (xb + 1024 * v + kc)))

/-- Whether an entry accepted by a tick and not landed is to go to a slot of some ranges of a buffer (R210). DESIGN CHOICE
(log 106): one accepted in the very tick at which the word issues counts as accepted before it, which R210 does not say. -/
def State.vfifoHeld (s : State) (lane buf t : Nat) (rs : List (Nat × Nat)) : Bool :=
  (s.quadOf (lane / 16)).vfifo.any (fun e => e.accepted ≤ t && e.buf == buf && e.lanes.getLsbD (lane % 16) &&
    rs.any (fun r => 256 * e.slot < r.2 && r.1 < 256 * e.slot + 256))

/-- The tick from which ranges of a buffer have landed (R210). -/
def Lane.landFloor (l : Lane) (buf : Nat) (rs : List (Nat × Nat)) : Nat :=
  l.landed.foldl (fun m e => if e.1 / 64 = buf ∧ rs.any (fun r => 256 * (e.1 % 64) < r.2 && r.1 < 256 * (e.1 % 64) + 256) then
    max m (e.2 + 1) else m) 0

/-- Activation elements read at the issue tick. -/
def State.latchOf (s : State) (lane buf : Nat) (rs : List (Nat × Nat)) : List (BitVec 16) :=
  rs.flatMap (fun r => (List.range ((r.2 - r.1) / 2)).map (fun i =>
    BitVec.ofNat 16 (ofBytes (Memory.readN s.bufs (bufAddr lane buf (r.1 + 2 * i)) 2))))

/-- The offset of execution r within an array word (R216). -/
def ArrayWord.offset (w : ArrayWord) (l : Lane) (r : Nat) : Nat :=
  match WFmt.ofCode l.fmt with
  | some f => r * weightBytes f l.kc / (16 * max 1 (l.port w.port).banks.length)
  | none => 0

/-! ### Executions (R204, R207, R216) -/

/-- What an execution of a word comes to: the fault that stops it, or the lane and the configuration it leaves. -/
abbrev Exec := Except Nat Lane

/-- An execution of ACCZ (R230). -/
def Lane.acczExec (l : Lane) (h : LaneHdr) (bank : Nat) (ninf : Bool) (first r : Nat) : Exec :=
  let y := h.stepped first r
  if y < 0 ∨ 255 < y then .error 0x04 else .ok (l.setAcc bank y.toNat (if ninf then ninf32 else 0))

/-- The bytes of a buffer slot, as a range. -/
def slotRange (k : Int) : List (Nat × Nat) := if k < 0 then [] else [(256 * k.toNat, 256 * k.toNat + 256)]

/-- Whether any byte of ranges of a buffer has an uncorrectable error (R240). -/
def State.bufBad (s : State) (lane buf : Nat) (rs : List (Nat × Nat)) : Bool :=
  !s.poison.isEmpty && rs.any (fun r => (List.range (r.2 - r.1)).any (fun i => s.poison.contains (bufEcc lane buf (r.1 + i))))

/-- An execution of POPA: it reads its slot at its start (R210, R232). -/
def State.popaExec (s : State) (lane : Nat) (l : Lane) (h : LaneHdr) (buf first bank r : Nat) : Exec :=
  let k := h.stepped first r
  if 3 < h.rep.toNat ∨ k < 0 ∨ 63 < k then .error 0x04
  else if s.bufBad lane buf (slotRange k) then .error 0x0C
  else .ok (l.setAccs bank (64 * r) ((List.range 64).map (fun e =>
    BitVec.ofNat 32 (ofBytes (Memory.readN s.bufs (bufAddr lane buf (256 * k.toNat + 4 * e)) 4)))))

/-- The first tick of execution r of a word, from its own first (R216). -/
def LRun.offset (x : LRun) (l : Lane) (r : Nat) : Nat :=
  match x.op with
  | .array w => w.offset { l with fmt := x.fmt, kc := x.kc } r
  | .accz .. => r / 16
  | .popa .. => 2 * r

/-- A lane under the configuration that a run issued with. -/
def Lane.underRun (l : Lane) (x : LRun) : Lane :=
  { l with fmt := x.fmt, kc := x.kc, xb := x.xb, scs := x.scs, scp := x.scp, lim := x.lim, kpos := x.kpos, latch := x.latch }

/-- A lane after an execution of a run: its own configuration stands, but for SCP and KPOS where they are the run's; the
next execution is to come. -/
def Lane.ran (l m : Lane) (x : LRun) : Lane :=
  let m1 := { m with fmt := l.fmt, kc := l.kc, xb := l.xb, scs := l.scs, lim := l.lim, latch := l.latch,
                     scp := if x.ownScp then m.scp else l.scp, kpos := if x.ownKpos then m.kpos else l.kpos }
  if x.r + 1 < x.h.n then
    { m1 with later := m1.later ++ [(x.t0 + x.offset m1 (x.r + 1),
        .exec { x with r := x.r + 1, scp := m.scp, kpos := m.kpos, late := 0, got := [], scl := [] })] }
  else m1

/-- Weight bytes that an array word reads in the present tick: 16 from each bank of its port in each tick of the word, as far
as its execution goes (R216, R332). -/
def LRun.partLen (x : LRun) (w : ArrayWord) (l : Lane) (f : WFmt) : Nat :=
  let nb := weightBytes f x.kc
  let rate := 16 * max 1 (l.port w.port).banks.length
  min (nb - x.got.length) (rate - (x.r * nb + x.got.length) % rate)

/-- A tick of an execution of an array word. In its first tick it is checked and its scales are read; in each tick it reads
the weight bytes of that tick; in the last it accumulates (R221, R226, R240; log 91). -/
def State.arrayTick (s : State) (lane t : Nat) (w : ArrayWord) (l : Lane) (x : LRun) : Exec :=
  let cfg := l.underRun x
  let y := w.h.stepped w.y0 x.r
  let c := if x.got.isEmpty then cfg.arrayCheck w y else 0
  let f := (WFmt.ofCode x.fmt).getD .bf16
  let sc := if x.got.isEmpty then s.scalePart lane cfg f else (x.scl, false)
  let part := s.weightPart lane cfg w x.got.length (x.partLen w l f)
  let got := x.got ++ part.1
  if c ≠ 0 then .error c
  else if sc.2 || part.2 then .error 0x0C
  else if got.length < weightBytes f x.kc then
    .ok { l with later := l.later ++ [(t + 1, .exec { x with got := got, scl := sc.1, late := 0 })] }
  else .ok (l.ran ((cfg.arrayStep w (weightsOf f x.kc got sc.1) y.toNat).consume w f) x)

/-- What a run does on a lane at a tick, under its own configuration. -/
def State.runExec (s : State) (lane t : Nat) (l : Lane) (x : LRun) : Exec :=
  match x.op with
  | .array w => s.arrayTick lane t w l x
  | .accz bank ninf first => ((l.underRun x).acczExec x.h bank ninf first x.r).map (fun m => l.ran m x)
  | .popa buf first bank => (s.popaExec lane (l.underRun x) x.h buf first bank x.r).map (fun m => l.ran m x)

/-- Slots that execution r of a word reads when it starts, in its buffer (R210). -/
def LRun.slot (x : LRun) : Option (Nat × List (Nat × Nat)) :=
  match x.op with
  | .popa buf first _ => some (buf, slotRange (x.h.stepped first x.r))
  | _ => none

/-- An execution at its tick: in a strict stream one that an external hold has delayed is a contract breach; else it
is made, or faults (R206, R207, R212). -/
def State.execute (s : State) (lane t : Nat) (x : LRun) : State :=
  if x.strict ∧ x.late ≠ 0 then s.streamFault lane 0x0B x.word x.pos x.r
  else
    let s1 := s.countHeld lane (t - x.late) t
    match s1.runExec lane t (s1.laneOf lane) x with
    | .error c => s1.streamFault lane c x.word x.pos x.r
    | .ok m => s1.setLane lane m

/-- A VFIFO entry accepted before a POPA issued is to land in the slot of the execution to come, or has landed after its
tick: the execution waits for it (R210). -/
def State.slotWait (s : State) (lane t : Nat) (x : LRun) : Option Nat :=
  match x.slot with
  | none => none
  | some (buf, rs) =>
    if s.vfifoHeld lane buf x.issuedAt rs then some (s.laneClk lane + 1)
    else
      let f := (s.laneOf lane).landFloor buf rs
      if t < f then some f else none

/-- Bytes that a lane writes in its scratch: ECC words overwritten whole are good again; a write that meets bad data and does
not overwrite it whole does not perform, and the job is cancelled (R18, R312). -/
def State.laneStore (s : State) (lane off : Nat) (data : List Byte) : State :=
  let ls := (List.range data.length).map (fun i => Loc.scratch lane (off + i))
  if s.eccBad .store ls then
    (match (s.laneOf lane).job with
    | some j => s.cancelJobN j
    | none => s)
  else
    let a := scratchAddr lane off
    { (s.eccClear ls) with
      scratch := Memory.writeN s.scratch a data
      scratchWas := s.scratchWas.filter (fun x => x.1 < a || a + data.length ≤ x.1) }

/-- The second half of an ECC word of a row has arrived in the write buffer: the word is good again (R312). -/
def State.rowClear (s : State) (lane bank row h : Nat) : State :=
  if h % 2 = 0 then s
  else { s with poison := s.poison.filter (fun e => e ≠ (Loc.bank lane bank row (16 * h)).ecc) }

/-- Whether any byte of a range of lane scratch has an uncorrectable error (R240). -/
def State.scratchBad (s : State) (lane lo n : Nat) : Bool :=
  !s.poison.isEmpty && (List.range n).any (fun i => s.poisoned (.scratch lane (lo + i)))

/-- Bad scratch data under the next unit of a WRROW: a stream fault, or, of a stream that has been cancelled, no record, but
the cancel of the job (R18, R239, R240). -/
def State.unitBad (s : State) (lane : Nat) (w : LWord) (pos : Nat) : State :=
  if !w.bad then s.streamFault lane 0x0C w pos 0
  else match (s.laneOf lane).job with
    | some j => s.cancelJobN j
    | none => s

/-- One effect that is due on a lane at a tick. -/
def State.laneEffect (s : State) (lane t : Nat) (a : LaneAct) : State :=
  match a with
  | .scratch off data => s.laneStore lane off data
  | .unit bank row src h data w pos =>
    let l := data.zipIdx.foldl (fun l d => l.arrive true bank row (16 * h + d.2) d.1) (s.laneOf lane)
    let s1 := (s.setLane lane l).rowClear lane bank row h
    if 127 ≤ h then (s1.refill lane).drainIdle lane
    else if s1.scratchBad lane (src + 16 * (h + 1)) 16 then s1.unitBad lane w pos
    else
      let next := s1.laneScratch lane (src + 16 * (h + 1)) 16
      (s1.setLane lane { l with later := l.later ++ [(t + 1, .unit bank row src (h + 1) next w pos)] }).drainIdle lane
  | .exec x =>
    match s.slotWait lane t x with
    | some u =>
      let l := s.laneOf lane
      s.setLane lane (Lane.delay { l with later := l.later ++ [(t, .exec x)] } (fun b => b.2.pos == x.pos) t (u - t))
    | none => s.execute lane t x

/-- The order of effects that are due: by tick, and at one tick an execution before an arrival, which it does not see
(R221). -/
def actOrder (a : Nat × LaneAct) : Nat := 2 * a.1 + (match a.2 with | .exec _ => 0 | _ => 1)

/-- Whether an effect may take place: an execution waits for the guard at a boundary, and while a forced refresh holds its
lane (R220, R340). -/
def State.mayAct (s : State) (l : Lane) (lane : Nat) (a : Nat × LaneAct) : Bool :=
  match a.2 with
  | .exec _ => !(l.refHold != 0 && l.stallAt ≤ a.1) && !s.guardFirst l lane a.1 (fun _ => false)
  | _ => true

/-- The first effect in order that is due on a lane. -/
def State.nextAct (s : State) (l : Lane) (lane : Nat) : Option (Nat × LaneAct) :=
  (l.later.filter (fun a => a.1 ≤ s.laneClk lane && s.mayAct l lane a)).foldl (fun m a => match m with
    | some b => if actOrder a < actOrder b then some a else some b
    | none => some a) none

/-- The effects of a lane that are due by now, one for each unit of fuel. -/
def State.settleN : Nat → State → Nat → State
  | 0, s, _ => s
  | f + 1, s, lane =>
    let l := s.laneOf lane
    match s.nextAct l lane with
    | none => s
    | some a => State.settleN f ((s.setLane lane { l with later := l.later.erase a }).laneEffect lane a.1 a.2) lane

/-- Effects that a lane's issued words have still to have. -/
def LaneAct.fuel : LaneAct → Nat
  | .exec x => 2 * x.h.n * (2 + x.kc) + 1
  | .unit .. => 129
  | .scratch .. => 1

/-- What a lane's issued words do by now (R216), and the fills that can arrive; with no stream every entry drains (R334). -/
def State.settleLane (s : State) (lane : Nat) : State :=
  let l := s.laneOf lane
  if l.later.isEmpty ∧ l.fills.isEmpty ∧ (l.wbufs.isEmpty ∨ !l.idle) then s
  else
    let s1 := s.settleN (l.later.foldl (fun m a => m + a.2.fuel) 1) lane
    (if (s1.laneOf lane).fills.isEmpty then s1 else s1.refill lane).drainIdle lane

/-- A repeated word at its issue tick, with execution 0 to come. -/
def Lane.newRun (l : Lane) (op : RunOp) (h : LaneHdr) (t : Nat) (latch : List (BitVec 16)) : LRun :=
  { op := op, h := h, word := l.head, pos := l.pos, strict := l.strict, r := 0, t0 := t, issuedAt := t, late := 0,
    fmt := l.fmt, kc := l.kc, xb := l.xb, scs := l.scs, scp := l.scp, lim := l.lim, kpos := l.kpos,
    ownScp := true, ownKpos := true, latch := latch, got := [], scl := [] }

/-- Uses of lane storage until some ticks after `t`. -/
def Lane.uses (l : Lane) (t : Nat) (us : List ((Bool × Space × Nat × Nat) × Nat)) : Lane :=
  us.foldl (fun l u => l.use t u.1.1 u.1.2.1 u.1.2.2.1 u.1.2.2.2 (t + u.2)) l

/-- A repeated word issues at `t`: execution 0 is checked and made, the others follow; its results are final `fin` ticks
after `t` (R207, R216). `us` are the ranges that it reads and writes, each until so many ticks after `t`. -/
def State.start (s : State) (op : RunOp) (h : LaneHdr) (l : Lane) (t fin : Nat)
    (us : List ((Bool × Space × Nat × Nat) × Nat)) : Out :=
  match s.runExec s.lane t l (l.newRun op h t []) with
  | .error c => .next (s.laneFault s.lane c)
  | .ok m => s.word (m.uses t us) t (t + fin)

/-- Ticks for which an array word holds the array (R216). -/
def ArrayWord.ticks (w : ArrayWord) (l : Lane) : Nat :=
  ceilDiv (w.h.n * weightBytes ((WFmt.ofCode l.fmt).getD .bf16) l.kc) (16 * (l.port w.port).banks.length)

/-- An array word: the holds of its issue, where its first execution is checked and its activations are read; then its
executions at their offsets, the first at the issue tick (R210, R216, R217, R226). -/
def State.array (s : State) (w : ArrayWord) : Out :=
  let l := s.laneOf s.lane
  let rs := w.bufReads l.xb l.kc
  let ports := l.wordPorts w
  let acc := (w.writes l.kc).foldl (fun m r => max m (l.floor true .acc r.1 r.2)) 0
  let sc := (w.reads).foldl (fun m r => max m (l.floor false .acc r.1 r.2)) 0
  let sr := l.scaleRange w
  let scr := if sr.1 < sr.2 then l.floor false .scratch sr.1 sr.2 else 0
  if sr.1 < sr.2 ∧ s.sumPending l sr.1 sr.2 then .next s
  else
    s.issue w.h.idle.toNat (max (max l.arrayFree (l.portFloor ports)) (max acc (max sc scr)))
      (max (l.portExt ports) (l.landFloor w.buf rs)) (fun l t s' =>
        if s.vfifoHeld s.lane w.buf t rs then .next s
        else
          let k := l.arrayCheck w (w.h.stepped w.y0 0)
          if k ≠ 0 then .next (s'.laneFault s.lane k)
          else if s.bufBad s.lane w.buf rs then .next (s'.laneFault s.lane 0x0C)
          else
            let c := w.ticks l
            let us := (w.writes l.kc).map (fun r => ((true, Space.acc, r.1, r.2), c + 6)) ++
              (w.reads).map (fun r => ((false, Space.acc, r.1, r.2), c + 6)) ++
              (if sr.1 < sr.2 then [((false, Space.scratch, sr.1, sr.2), c + 6)] else [])
            let l1 := { (ports.flatMap (fun p => (l.port p).banks)).foldl (fun l b =>
                l.setBank b.1 { l.bankT b.1 with usedTo := t + c }) l with
              arrayFree := t + c
              later := l.later ++ [(t, LaneAct.exec (l.newRun (.array w) w.h t (s.latchOf s.lane w.buf rs)))] }
            s'.word (l1.uses t us) t (t + c + 6))

/-- GEMV (R227). -/
def execGemv (h : LaneHdr) (port buf : BitVec 2) (a : BitVec 3) (y8 : BitVec 5) (s : State) : Out :=
  s.array ⟨.gemv, h, port.toNat, buf.toNat, a.toNat, 8 * y8.toNat⟩

/-- GEMVB (R227). -/
def execGemvb (h : LaneHdr) (port buf : BitVec 2) (a nv : BitVec 3) (y64 : BitVec 2) (s : State) : Out :=
  s.array ⟨.gemvb (nv.toNat + 1), h, port.toNat, buf.toNat, a.toNat, 64 * y64.toNat⟩

/-- DOTK (R227). -/
def execDotk (h : LaneHdr) (port buf : BitVec 2) (a : BitVec 3) (y8 : BitVec 5) (s : State) : Out :=
  s.array ⟨.dotk, h, port.toNat, buf.toNat, a.toNat, 8 * y8.toNat⟩

/-- AXPV (R228). -/
def execAxpv (h : LaneHdr) (port : BitVec 2) (score out : BitVec 3) (y16 : BitVec 4) (s : State) : Out :=
  s.array ⟨.axpv out.toNat, h, port.toNat, 0, score.toNat, 16 * y16.toNat⟩

/-- The update of R229 of scores A and the pair (m, s): the new scores and, where O and the pair change, the factor of O
and the new pair. A NaN maximum makes all of them NaN. -/
def statsUpdate (a : List F32) (mo so : F32) : List F32 × Option (F32 × F32 × F32) :=
  let mx := match a with
    | x :: xs => xs.foldl fmax (fl32 (fp32 x))
    | [] => ninf32
  let mn := fmax mo mx
  if isNaN32 mn then (a.map (fun _ => nan32), some (nan32, nan32, nan32))
  else if mn = ninf32 then (a.map (fun _ => 0), none)
  else
    let f := exp2f (fsub mo mn)
    let a1 := a.map (fun x => exp2f (fsub x mn))
    (a1, some (f, mn, a1.foldl fadd (fmul so f)))

/-- STATS (R229). -/
def execStats (h : LaneHdr) (score out stat slot : BitVec 3) (s : State) : Out :=
  let n := h.n
  let l := s.laneOf s.lane
  let d := l.kc
  let ia := 256 * score.toNat
  let io := 256 * out.toNat
  let it := 256 * stat.toNat + 2 * slot.toNat
  let own := max l.arrayFree (max (l.floor true .acc ia (ia + n)) (max (l.floor true .acc io (io + d)) (l.floor true .acc it (it + 2))))
  s.issue h.idle.toNat own 0 (fun l t s =>
    if 256 < n ∨ 256 < d then .next (s.laneFault s.lane 0x04)
    else
      let mo := l.accAt stat.toNat (2 * slot.toNat)
      let so := l.accAt stat.toNat (2 * slot.toNat + 1)
      let u := statsUpdate (l.accs score.toNat n) mo so
      let la := l.setAccs score.toNat 0 u.1
      let l1 := match u.2 with
        | none => la
        | some (f, m, s) =>
          (la.setAccs out.toNat 0 ((la.accs out.toNat d).map (fun x => fmul x f))).setAccs stat.toNat (2 * slot.toNat) [m, s]
      let till := t + n + 8
      let l2 := ((l1.use t true .acc ia (ia + n) till).use t true .acc io (io + d) till).use t true .acc it (it + 2) till
      .next (s.setLane s.lane { (l2.finish (t + 1) till none false) with arrayFree := till }))

/-! ### Accumulators and buffers (R230 to R232) -/

/-- ACCZ (R230). -/
def execAccz (h : LaneHdr) (bank : BitVec 3) (ninf : Bool) (first : BitVec 8) (s : State) : Out :=
  let l := s.laneOf s.lane
  let els := ((List.range h.n).map (fun r => h.stepped first.toNat r)).filterMap (fun (y : Int) =>
    if 0 ≤ y ∧ y ≤ 255 then some (256 * bank.toNat + y.toNat) else none)
  s.issue h.idle.toNat (els.foldl (fun m i => max m (l.floor true .acc i (i + 1))) 0) 0 (fun l t s =>
    s.start (.accz bank.toNat ninf first.toNat) h l t (ceilDiv h.n 16)
      (els.map (fun i => ((true, .acc, i, i + 1), ceilDiv h.n 16))))

/-- ACCMV to another bank (R231). -/
def execAccmvBank (h : LaneHdr) (src dst : BitVec 3) (s : State) : Out :=
  let n := h.n
  let l := s.laneOf s.lane
  let a := 256 * src.toNat
  let b := 256 * dst.toNat
  s.issue h.idle.toNat (max (l.floor false .acc a (a + n)) (l.floor true .acc b (b + n))) 0 (fun l t s =>
    if 256 < n then .next (s.laneFault s.lane 0x04)
    else
      let till := t + ceilDiv n 16 + 2
      let l1 := l.setAccs dst.toNat 0 (l.accs src.toNat n)
      s.word ((l1.use t true .acc b (b + n) till).use t false .acc a (a + n) till) t till)

/-- FP32 values as bytes. -/
def f32Bytes (xs : List F32) : List Byte := xs.flatMap (fun x => bytesOf 4 x.toNat)

/-- ACCMV to lane scratch (R231). -/
def execAccmvScratch (h : LaneHdr) (src : BitVec 3) (off : BitVec 8) (s : State) : Out :=
  let n := h.n
  let l := s.laneOf s.lane
  let a := 256 * src.toNat
  let o := 1024 * off.toNat
  if s.sumPending l o (o + 4 * n) then .next s
  else
    s.issue h.idle.toNat (max (l.floor false .acc a (a + n)) (l.floor true .scratch o (o + 4 * n))) 0 (fun l t s =>
      if 256 < n ∨ 0x40000 < o + 4 * n then .next (s.laneFault s.lane 0x04)
      else
        let till := t + ceilDiv n 16 + 2
        let l1 := (l.use t true .scratch o (o + 4 * n) till).use t false .acc a (a + n) till
        s.word { l1 with later := l1.later ++ [(till, .scratch o (f32Bytes (l.accs src.toNat n)))] } t till)

/-- POPA (R232). -/
def execPopa (h : LaneHdr) (buf : BitVec 2) (first : BitVec 6) (bank : BitVec 3) (s : State) : Out :=
  let l := s.laneOf s.lane
  let rs := slotRange first.toNat
  let i := 256 * bank.toNat
  let n := 64 * min 4 h.n
  s.issue h.idle.toNat (l.floor true .acc i (i + n)) (l.landFloor buf.toNat rs) (fun l t s' =>
    if s.vfifoHeld s.lane buf.toNat t rs then .next s
    else s'.start (.popa buf.toNat first.toNat bank.toNat) h l t (2 * h.rep.toNat + 2)
      ((List.range (min 4 h.n)).map (fun r => ((true, .acc, i + 64 * r, i + 64 * r + 64), 2 * r + 2))))

/-! ### The lane quantising store (R233, R234) -/

/-- The fields of a QST descriptor (R233). -/
structure QDesc where
  bits : Nat
  deriving DecidableEq, Repr

def QDesc.scale (q : QDesc) : F32 := BitVec.ofNat 32 q.bits
def QDesc.start (q : QDesc) : BitVec 32 := BitVec.ofNat 32 (q.bits / 2 ^ 32)
def QDesc.tag (q : QDesc) : BitVec 16 := BitVec.ofNat 16 (q.bits / 2 ^ 64)
def QDesc.eddy (q : QDesc) : Nat := bitsOf q.bits 83 80
def QDesc.tgt (q : QDesc) : Nat := bitsOf q.bits 86 84
def QDesc.src (q : QDesc) : Bool := bitOf q.bits 87
def QDesc.first (q : QDesc) : Nat := bitsOf q.bits 100 88
def QDesc.index (q : QDesc) : Nat := bitsOf q.bits 103 101
def QDesc.n (q : QDesc) : Nat := bitsOf q.bits 111 104 + 1
def QDesc.eload (q : QDesc) : Bool := bitOf q.bits 112
def QDesc.esave (q : QDesc) : Bool := bitOf q.bits 113
def QDesc.dst (q : QDesc) : Nat := bitsOf q.bits 145 128
def QDesc.sdst (q : QDesc) : Nat := bitsOf q.bits 177 160
def QDesc.eimg (q : QDesc) : Nat := bitsOf q.bits 209 192
def QDesc.resv (q : QDesc) : Bool :=
  bitsOf q.bits 127 114 ≠ 0 || bitsOf q.bits 159 146 ≠ 0 || bitsOf q.bits 191 178 ≠ 0 || bitsOf q.bits 255 210 ≠ 0

/-- Codes packed into bytes (R72, R153). -/
def packCodes (bits : Nat) (cs : List Nat) : List Byte :=
  if bits = 4 then
    (List.range ((cs.length + 1) / 2)).map (fun i => BitVec.ofNat 8 (cs.getD (2 * i) 0 + 16 * cs.getD (2 * i + 1) 0))
  else cs.flatMap (fun c => bytesOf (bits / 8) c)

/-- Bytes that the codes of a run take. -/
def codeBytes (t : QTgt) (n : Nat) : Nat := (n * t.bits + 7) / 8

/-- The fault of checks 1 to 3 of R234, 0 for none. -/
def QDesc.check (q : QDesc) (t : Option QTgt) : Nat :=
  if q.resv then 0x02
  else match t with
    | none => 0x09
    | some t =>
      if (q.src && 3 < q.index) || (if q.src then 8192 < q.first + q.n else 256 < q.first + q.n) ||
          0x40000 < q.dst + codeBytes t q.n || (t.isMx && 0x40000 < q.sdst + q.n / 16) ||
          ((q.eload || q.esave) && (0x40000 < q.eimg + 16 || q.eimg % 16 ≠ 0)) ||
          (t.isMx && (q.n % 16 ≠ 0 || q.start.toNat % 16 ≠ 0)) then 0x04
      else 0

/-- A source element of a run: an accumulator, or a buffer's BF16 element widened (R233). -/
def State.qstElem (s : State) (l : Lane) (q : QDesc) (i : Nat) : F32 :=
  if q.src then BitVec.ofNat 32 (2 ^ 16 * ofBytes (Memory.readN s.bufs (bufAddr s.lane q.index (2 * (q.first + i))) 2))
  else l.accAt q.index (q.first + i)

/-- What a QST does once its checks have passed (R156, R234): what it writes to lane scratch, and the lane with its eddy
register and its flags. -/
def State.qstRun (s : State) (l : Lane) (q : QDesc) (t : QTgt) (ed : Eddy) (brk : Bool) : List (Nat × List Byte) × Lane :=
  let xs := (List.range q.n).map (fun i => (false, s.qstElem l q i))
  let r := quantize t (runScale t q.scale) 0 ed q.tag q.start xs
  let f := r.2.2.2 ||| (if brk then fBRK else 0)
  let fl := (if f &&& fSAT ≠ 0 then 1 else 0) + (if f &&& fNV ≠ 0 then 2 else 0) + (if f &&& fBRK ≠ 0 then 4 else 0)
  ((q.dst, packCodes t.bits r.1) :: (if t.isMx then [(q.sdst, r.2.1.map (BitVec.ofNat 8))] else []) ++
      (if q.esave then [(q.eimg, bytesOf 16 (eddyImage r.2.2.1))] else []),
    { l with e := SMap.set l.e ⟨0, 0, 0⟩ q.eddy r.2.2.1, flags := l.flags ||| fl })

/-- Ranges of lane scratch that a QST reads or writes besides its descriptor: codes, scales and eddy image. -/
def QDesc.ranges (q : QDesc) (t : QTgt) : List (Nat × Nat) :=
  (q.dst, q.dst + codeBytes t q.n) :: (if t.isMx then [(q.sdst, q.sdst + q.n / 16)] else []) ++
    (if q.eload || q.esave then [(q.eimg, q.eimg + 16)] else [])

/-- Whether what a QST reads has an uncorrectable error: its source in a buffer, or the eddy image (R240). -/
def State.qstBad (s : State) (q : QDesc) (rs : List (Nat × Nat)) : Bool :=
  s.bufBad s.lane q.index rs || (q.eload && s.scratchBad s.lane q.eimg 16)

/-- QST: the quantising store under a descriptor in lane scratch. It commits at t + 4 + n (R216, R233, R234). -/
def execQst (h : LaneHdr) (strict : Bool) (desc : BitVec 12) (s : State) : Out :=
  let o := 64 * desc.toNat
  let l := s.laneOf s.lane
  let q : QDesc := ⟨ofBytes (s.laneScratch s.lane o 32)⟩
  let t := QTgt.ofCode q.tgt
  let tt := t.getD .i8
  let srcLo := 256 * q.index + q.first
  let ranges := q.ranges tt
  let own := max (max (l.floor false .scratch o (o + 32)) (l.floor true .eddy q.eddy (q.eddy + 1)))
    (max (if q.src then 0 else l.floor false .acc srcLo (srcLo + q.n))
      (ranges.foldl (fun m r => max m (l.floor true .scratch r.1 r.2)) 0))
  let rs := if q.src then [(2 * q.first, 2 * (q.first + q.n))] else []
  if s.sumPending l o (o + 32) ∨ ranges.any (fun r => s.sumPending l r.1 r.2) then .next s
  else
    s.issue h.idle.toNat own (l.landFloor q.index rs) (fun l tick s' =>
      if s.vfifoHeld s.lane q.index tick rs then .next s
      else if s.scratchBad s.lane o 32 then .next (s'.laneFault s.lane 0x0C)
      else
        let c := q.check t
        if c ≠ 0 then .next (s'.laneFault s.lane c)
        else if s.qstBad q rs then .next (s'.laneFault s.lane 0x0C)
        else
          let held := SMap.get l.e ⟨0, 0, 0⟩ q.eddy
          let ld := eddyOfImage (ofBytes (s.laneScratch s.lane q.eimg 16))
          let ed := if q.eload then ld.1 else held
          if strict ∧ (incoming ed q.tag q.start).2 then .next (s'.laneFault s.lane 0x0A)
          else
            let r := s'.qstRun l q tt ed (q.eload && ld.2)
            let till := tick + 4 + q.n
            let l1 := ranges.foldl (fun l r => l.use tick true .scratch r.1 r.2 till) (r.2.use tick true .eddy q.eddy (q.eddy + 1) till)
            let l2 := if q.src then l1 else l1.use tick false .acc srcLo (srcLo + q.n) till
            s'.word { l2 with later := l2.later ++ r.1.map (fun w => (till, .scratch w.1 w.2)) } tick till)

/-! ### Checkpoints, fences and the end (R222, R237, R238) -/

/-- Growth counters of a lane's last checkpoint: its id, and its issue tick (R237). -/
def gCheckId (lane : Nat) : Nat := 2048 + lane
def gCheckTick (lane : Nat) : Nat := 2560 + lane

/-- SYNCPT records a checkpoint; with ALIGN its nominal tick is raised to a multiple of 64 (R237). -/
def execSyncpt (h : LaneHdr) (align : Bool) (id : BitVec 11) (s : State) : Out :=
  let l := s.laneOf s.lane
  let n := l.nominal h.idle.toNat
  let up := if align then (n + 63) / 64 * 64 else n
  s.issue h.idle.toNat up 0 (fun l t s =>
    ({ s with growth := SMap.set (SMap.set s.growth 0 (gCheckId s.lane) id.toNat) 0 (gCheckTick s.lane) t } : State).word
      { l with ckId := id.toNat, ckTick := t } t t)

/-- The lane word LFENCE (R222). -/
def execLaneLfence (h : LaneHdr) (all : Bool) (layer : BitVec 4) (s : State) : Out :=
  s.issue h.idle.toNat 0 0 (fun l t s =>
    let last := if all then l.wrLast.foldl (fun m x => max m x.2) 0 else SMap.get l.wrLast 0 layer.toNat
    let c := if last = 0 then t + 2 else last + 2
    .next (s.setLane s.lane { (l.finish (t + 1) c none false) with fence := c }))

/-- HALTL ends the stream (R238). With no stream running, every entry of the write buffers drains (R334). -/
def execHaltl (h : LaneHdr) (s : State) : Out :=
  s.issue h.idle.toNat 0 0 (fun l t s =>
    .next ((s.setLane s.lane { (l.finish (t + 1) t none true) with running := false }).drainAll 128 s.lane))

/-! ### Streams (R203, R209, R210, R212) -/

/-- The start tick that an RALIGN of some lanes gives (R198). -/
def alignTick (base free : Nat) : Nat := (max (base + 16) (free + 1) + 63) / 64 * 64

/-- Lanes that an RALIGN names, as lane numbers. -/
def maskLanes (quad mask : Nat) : List Nat := ((List.range 16).filter (bitOf mask)).map (fun i => 16 * quad + i)

/-- Whether a lane runs no stream and its last one has retired or been discarded. -/
def Lane.free (l : Lane) : Bool := !l.running && l.issued.isEmpty && l.fault.isNone

/-- Requests of an RALIGN turned into the common start tick, once all its lanes are free (R198). -/
def State.settleAlign (s : State) (lane : Nat) : State :=
  match (s.laneOf lane).align with
  | some (.pending base mask) =>
    let ls := (maskLanes (lane / 16) mask).filter (fun i => (s.laneOf i).align == some (.pending base mask))
    if ls.all (fun i => (s.laneOf i).free) then
      let t := alignTick base (ls.foldl (fun m i => max m (s.laneOf i).after) 0)
      ls.foldl (fun s i => s.setLane i { s.laneOf i with align := some (.start t) }) s
    else s
  | _ => s

/-- The pacing gap of a lane (R453). -/
def State.laneGap (s : State) (lane : Nat) : Nat := (s.raw (0xD20000 + 0x200 * (lane / 64) + 8 * (lane % 64))).toNat % 65536

/-- Whether a push group of a quadrant, of a launch if one is named, has streams that run or are to start (R344). -/
def State.groupLive (s : State) (quad g : Nat) (lctr : Option Nat) : Bool :=
  (List.range 16).any (fun i =>
    let m := s.laneOf (16 * quad + i)
    (m.running && m.group == g && lctr.all (fun c => m.lctr == c)) ||
      m.words.any (fun w => w.group == g && lctr.all (fun c => w.lctr == c)))

/-- LANE_STREAM_START: a stream starts at the tick its first word reached the head, or at an RALIGN's tick (R203). -/
def execLaneStreamStart (lane : Nat) (s : State) : Out :=
  let s1 := s.settleAlign lane
  let l := s1.laneOf lane
  match l.words with
  | [] => .next s
  | w :: _ =>
    if !l.free ∨ l.scrubbing ∨ (s.stackOf (lane / 64)).overt then .next s
    else
      let go (t stall : Nat) : Out :=
        if s1.laneClk lane < t then .next s1
        else
          let q := lane / 16
          let gs := (s1.quadOf q).groups.filter (fun g => s1.groupLive q g.1 none)
          let alone := match gs.find? (fun g => g.1 == w.group) with
            | some g => g.2
            | none => gs.any (fun g => s1.groupLive q g.1 (some w.lctr))
          let s2 := s1.setQuad q { s1.quadOf q with
            groups := if gs.any (fun g => g.1 == w.group) then gs else gs ++ [(w.group, alone)] }
          .next ((s2.drainIdle lane).setLane lane { (s2.drainIdle lane).laneOf lane with
            running := true, pos := 0, after := t, fence := 0, wrLast := [],
            stall := max l.stall stall, stallAt := if l.stall < stall then t else l.stallAt, gap := s1.laneGap lane, align := none, strict := w.strict, flags := 0, sends := 0,
            group := w.group, alone := alone, lctr := w.lctr, uid := w.uid, latch := [] })
      match l.align with
      | some (.pending _ _) => .next s1
      | some (.start t) => go t (if t < w.arrived then w.arrived else 0)
      | none => go (max w.arrived l.after) 0

/-- Whether an issued word may retire: its offset has come, its executions have been made, and a sum it waits for has been written, or is not its
lane's to receive (R209, R326, R347). -/
def State.mayRetire (s : State) (lane : Nat) (w : Issued) (first : Bool) : Bool :=
  decide (w.done ≤ s.laneClk lane) && (!w.halt || first) &&
    (s.laneOf lane).later.all (fun a => match a.2 with | .exec x => x.pos != w.pos | _ => true) &&
    (match w.sum with
    | none => true
    | some i => match SMap.find s.sums i with
      | none => true
      | some x => x.written || x.contribs.any (fun c => c.lane < lane))

/-- The first issued word that may retire, removed. -/
def State.retireFirst (s : State) (lane : Nat) : Bool → List Issued → Option (Issued × List Issued)
  | _, [] => none
  | first, w :: ws =>
    if s.mayRetire lane w first then some (w, ws)
    else (s.retireFirst lane false ws).map (fun r => (r.1, w :: r.2))

/-- LANE_WORD_RETIRE (R209, R238). After a HALTL the lane is free, and the flags that the stream's QSTs raised go to the
status of the pushing launch (R234). -/
def execLaneWordRetire (lane : Nat) (s : State) : Out :=
  let l := s.laneOf lane
  match s.retireFirst lane true l.issued with
  | none => .next s
  | some (w, ws) =>
    let l1 := { l with issued := ws, popped := (l.popped + 1) % 2 ^ 32 }
    if w.halt then
      let s1 := s.setLane lane { l1 with after := max w.done (s.laneClk lane), flags := 0 }
      .next (if l.flags = 0 then s1 else s1.launchStat w.lctr (StatUpd.flag l.flags))
    else .next (s.setLane lane l1)

/-- Whether a queued word is a HALTL (R51). -/
def LWord.isHalt (w : LWord) : Bool := bitsOf w.bits.toNat 47 42 == 0x3F

/-- STREAM_DISCARD_END: the words of a faulted stream are discarded up to its HALTL; there the lane is ready again
(R212). No stream runs then, and every entry of the write buffers drains (R334). -/
def execStreamDiscardEnd (lane : Nat) (s : State) : Out :=
  let l := s.laneOf lane
  match l.fault with
  | none => .next s
  | some c =>
    let clk := s.laneClk lane
    let ready (ws : List LWord) : State :=
      (s.setLane lane { l with
        words := ws, fault := none, discarding := false, running := false, after := clk, latch := [] }).drainIdle lane
    if !l.discarding then .next (ready l.words)
    else if c = 0x0D then .next (ready (l.words.drop 1))
    else
      let rest := l.words.dropWhile (fun w => !w.isHalt)
      match rest with
      | _ :: ws => .next (ready ws)
      | [] => .next (s.setLane lane { l with words := [] })

/-- VFIFO_LAND: the oldest entry of a quadrant lands, in acceptance order; it overwrites its slot whole, with any error (R210,
R312). -/
def execVfifoLand (quad : Nat) (s : State) : Out :=
  let q := s.quadOf quad
  match q.vfifo with
  | [] => .next s
  | e :: es =>
    let t := max (e.accepted + 12) (q.lastLand + 2)
    if s.cclk (quad / 4) < t then .next s
    else
      let s1 := (maskLanes quad e.lanes.toNat).foldl (fun s i =>
        let l := s.laneOf i
        { (s.setLane i { l with landed := SMap.put l.landed (64 * e.buf + e.slot) t }) with
          poison := s.poison.filter (fun x => !(bufEcc i e.buf (256 * e.slot) ≤ x && x < bufEcc i e.buf (256 * e.slot) + 8))
          bufs := Memory.writeN s.bufs (bufAddr i e.buf (256 * e.slot)) (bytesOf 256 e.data.toNat) }) s
      .next (s1.setQuad quad { q with vfifo := es, lastLand := t, popped := (q.popped + 1) % 2 ^ 32 })

end Sys2Proof.Machine
end

