-- ==== Sys2Proof/Machine/Tree.lean ====
section
/-! DEFINITION. The confluence tree and the stack ring: contributions, joins, results and absent positions (R236,
R325, R326, R343 to R347, R417, R418). -/

namespace Sys2Proof.Machine

/-- Growth counter of ring detours. -/
def gDetour : Nat := 1300

/-- Lanes of a push group, by a lane of its quadrant (R325). A group without a mask is the lane alone. -/
def groupLanes (lane g : Nat) : List Nat :=
  if g % 65536 = 0 then [lane] else maskLanes (lane / 16) (g % 65536)

/-- Stack cores that the launch's PMASK names; the lane's own core where no such launch is held (R344). -/
def State.sumCores (s : State) (lctr lane : Nat) : List Nat :=
  match SMap.find s.launches lctr with
  | some l => if l.cls = 0 ∧ bitOf l.pmask (lane / 16) then (List.range 32).filter (bitOf l.pmask) else [lane / 16]
  | none => [lane / 16]

/-- Whether a sum takes a lane's next contribution. -/
def Sum.takes (x : Sum) (l : Lane) (lane : Nat) : Bool :=
  x.stack == lane / 64 && x.lctr == l.lctr && x.k == l.sends && x.result == none && !x.written &&
    x.alone == (if l.alone then some l.group else none) && !x.absent.contains (lane / 16 % 4) &&
    x.contribs.all (fun c => c.lane != lane && (c.lane / 16 != lane / 16 || c.group == l.group))

/-- Sums of a group that have not been written (R347). -/
def State.openSums (s : State) (l : Lane) (lane : Nat) : Nat :=
  (s.sums.filter (fun x => !x.2.written && x.2.contribs.any (fun c => c.lane / 16 = lane / 16 && c.group == l.group))).length

/-- The records of a sum that is opened: one for the group alone, or one for each stack of the launch. -/
def State.openSum (s : State) (l : Lane) (lane : Nat) : State :=
  let stackIds := if l.alone then [lane / 64] else ((s.sumCores l.lctr lane).map (· / 4)).eraseDups
  let fresh (st : Nat) : Sum :=
    { stack := st, lctr := l.lctr, k := l.sends, alone := if l.alone then some l.group else none, inst := s.nextSum,
      contribs := [], absent := [], absentAt := 0, result := none, relay := none, written := false }
  { s with nextSum := s.nextSum + stackIds.length,
           sums := stackIds.zipIdx.foldl (fun m p => SMap.put m (s.nextSum + p.2) (fresh p.1)) s.sums }

/-- The sum that takes a lane's next contribution. -/
def State.sumFor (s : State) (l : Lane) (lane : Nat) : Option Nat := (s.sums.find? (fun x => x.2.takes l lane)).map (·.1)

/-- Whether a lane's group has contributed to a sum already (R347). -/
def State.groupIn (s : State) (sum : Option Nat) (l : Lane) (lane : Nat) : Bool :=
  (sum.bind (SMap.find s.sums)).any (fun x => x.contribs.any (fun c => c.lane / 16 == lane / 16 && c.group == l.group))

/-- Ranges of lane scratch that the write of a k-th sum takes (R326). -/
def slotRanges (k n : Nat) (merge : Bool) : List (Nat × Nat) :=
  let a := 0x3F000 + 1024 * (k % 4)
  let b := 0x3EFE0 + 8 * (k % 4)
  (a, a + 4 * n) :: (if merge then [(b, b + 8)] else [])

/-- Whether a lane is the lowest of its push group, which may receive the group's sums (R326, R347). -/
def Lane.lowest (l : Lane) (lane : Nat) : Bool := (groupLanes lane l.group).head? == some lane

/-- A contribution sent at a tick (R236, R347). The write of the result is ordered in the stream of the lane that may receive
it: its RSEND waits for earlier words' uses of the result's slot (R208, R326; log 97). A group that holds four unwritten sums
waits before it takes part in a fifth, an external hold, until the oldest is written; the hold is counted when the word
issues. `vals` are read at the ticks of R216. -/
def State.send (s0 : State) (h : LaneHdr) (merge : Bool) (vals : Lane → List F32) (reads : List (Nat × Nat)) : Out :=
  let n := h.n
  let l0 := s0.laneOf s0.lane
  let slot := if l0.lowest s0.lane then slotRanges l0.sends n merge else []
  let own := slot.foldl (fun m r => max m (l0.floor true .scratch r.1 r.2)) (reads.foldl (fun m r => max m (l0.floor false .acc r.1 r.2)) 0)
  let found0 := s0.sumFor l0 s0.lane
  s0.issue h.idle.toNat own (if s0.groupIn found0 l0 s0.lane then 0 else l0.sumFree) (fun l t s =>
    if 256 < n then .next (s.laneFault s.lane 0x04)
    else
      let found := s.sumFor l s.lane
      if !s.groupIn found l s.lane ∧ 4 ≤ s.openSums l s.lane then .next s0
      else
        let s1 := if found.isNone then s.openSum l s.lane else s
        match s1.sumFor l s.lane with
        | none => .next s0
        | some i =>
          match SMap.find s1.sums i with
          | none => .next s0
          | some x =>
            let done := t + ceilDiv (if merge then n + 2 else n) 16
            let c : Contrib := ⟨s.lane, l.group, merge, vals l, done⟩
            let s2 := { s1 with sums := SMap.put s1.sums i { x with contribs := x.contribs ++ [c] } }
            let l1 := reads.foldl (fun l r => l.use t false .acc r.1 r.2 done) l
            .next (s2.setLane s.lane { (l1.finish (t + 1) done (if l.lowest s.lane then some i else none) false) with
              sends := l.sends + 1 }))

/-- RSEND.SUM (R236). -/
def execRsendSum (h : LaneHdr) (bank : BitVec 3) (s : State) : Out :=
  let b := 256 * bank.toNat
  s.send h false (fun l => l.accs bank.toNat h.n) [(b, b + h.n)]

/-- RSEND.MERGE (R236). -/
def execRsendMerge (h : LaneHdr) (bank stat slot : BitVec 3) (s : State) : Out :=
  let b := 256 * bank.toNat
  let t := 256 * stat.toNat + 2 * slot.toNat
  s.send h true (fun l => l.accAt stat.toNat (2 * slot.toNat) :: l.accAt stat.toNat (2 * slot.toNat + 1) :: l.accs bank.toNat h.n)
    [(b, b + h.n), (t, t + 2)]

/-- Whether a lane of a group can still send a k-th contribution, or has sent it (R325). -/
def State.laneSettled (s : State) (x : Sum) (g lane : Nat) : Bool :=
  let l := s.laneOf lane
  x.contribs.any (fun c => c.lane == lane) ||
    !((l.running && l.group == g && l.sends ≤ x.k) || (!(l.running && l.group == g) && l.words.any (fun w => w.group == g)))

/-- Contributions of a quadrant of a sum. -/
def Sum.ofQuad (x : Sum) (quad : Nat) : List Contrib := x.contribs.filter (fun c => c.lane / 16 = quad)

/-- Whether a quadrant, by its stack core number, is settled for a sum: absent, or present with every lane (R344). -/
def State.quadSettled (s : State) (x : Sum) (quad : Nat) : Bool :=
  x.absent.contains (quad % 4) ||
    (match x.ofQuad quad with
    | [] => false
    | c :: _ => (groupLanes c.lane c.group).all (fun i => s.laneSettled x c.group i))

/-- Quadrants that take part in a stack's part of a sum, by stack core number. -/
def State.sumQuads (s : State) (x : Sum) : List Nat :=
  match x.alone with
  | some _ => (x.contribs.head?.map (fun c => c.lane / 16)).toList
  | none =>
    let first := match x.contribs with
      | c :: _ => c.lane
      | [] => 64 * x.stack
    (s.sumCores x.lctr first).filter (fun c => c / 4 = x.stack)

/-- Whether a sum's launch joins several stacks (R344). -/
def State.ringed (s : State) (x : Sum) : Bool := x.alone.isNone && s.sums.any (fun y => y.2.inst == x.inst && y.2.stack ≠ x.stack)

/-- The contribution of the lowest lane, the reference of R345. -/
def lowestContrib : List Contrib → Option Contrib
  | [] => none
  | c :: cs => match lowestContrib cs with
    | some d => if d.lane < c.lane then some d else some c
    | none => some c

/-- Whether contributions differ in op or n (R345). -/
def mismatched (cs : List Contrib) : Bool :=
  match lowestContrib cs with
  | none => false
  | some r => cs.any (fun c => c.merge != r.merge || c.vals.length != r.vals.length)

/-- The combination of a stack's contributions in the positions of R80 (R344 to R346). -/
def combine (cs : List Contrib) : List F32 :=
  match lowestContrib cs with
  | none => []
  | some r =>
    if mismatched cs then r.vals.map (fun _ => nan32)
    else
      let at_ (i : Nat) : Option (List F32) := (cs.find? (fun c => c.lane % 64 == i)).map (·.vals)
      (stackTree (if r.merge then mergeVals else sumVals) ((List.range 64).map at_)).getD (r.vals.map (fun _ => 0))

/-- Whether a quadrant's contributions are spread over more than 64 ticks (R343). -/
def skewed (cs : List Contrib) : Bool :=
  match cs with
  | [] => false
  | c :: _ => 64 < cs.foldl (fun m x => max m x.done) 0 - cs.foldl (fun m x => min m x.done) c.done

/-- SKEW and TREEERR counted, saturating (R343, R345, R349). -/
def State.countSum (s : State) (stack : Nat) (skew err : Bool) : State :=
  let x := s.stackOf stack
  let s1 := s.setStack stack { x with skew := min 65535 (x.skew + skew.toNat), treeerr := min 65535 (x.treeerr + err.toNat) }
  (s1.grow (gSkew stack) skew.toNat).grow (gTreeErr stack) err.toNat

/-- Words of a result in the receiving lane's scratch (R326). -/
def State.putResult (s : State) (lane k : Nat) (merge : Bool) (vals : List F32) : State :=
  let body := if merge then vals.drop 2 else vals
  let s1 := s.laneStore lane (0x3F000 + 1024 * (k % 4)) (f32Bytes body)
  if merge then s1.laneStore lane (0x3EFE0 + 8 * (k % 4)) (f32Bytes (vals.take 2)) else s1

/-- The RSENDs of a stack that wait for a sum need wait no longer; the receiver's retires no earlier than the write. The
lanes of a group that this lets open another sum go on from the write (R347). -/
def State.releaseSends (s : State) (i stack recv t : Nat) : State :=
  let full (l : Nat × Lane) : Bool :=
    4 ≤ s.openSums l.2 l.1 && s.groupIn (some i) l.2 l.1
  { s with lanes := s.lanes.map (fun l => if l.1 / 64 = stack then (l.1, { l.2 with
      sumFree := if full l then t else l.2.sumFree
      issued := l.2.issued.map (fun w => if w.sum = some i then
        { w with sum := none, done := if l.1 = recv then max w.done t else w.done } else w) }) else l) }

/-- The slot of a result is in use until its write: a later word of the receiving lane's stream that touches it issues no
earlier (R208, R326). -/
def State.resultUse (s : State) (lane k n t : Nat) : State :=
  let a := 0x3F000 + 1024 * (k % 4)
  let b := 0x3EFE0 + 8 * (k % 4)
  s.setLane lane (((s.laneOf lane).use 0 true .scratch a (a + 4 * n) t).use 0 true .scratch b (b + 8) t)

/-- The receiving lane: the lowest of the group of the lowest present quadrant (R347). -/
def Sum.receiver (x : Sum) : Nat :=
  match lowestContrib x.contribs with
  | some c => (groupLanes c.lane c.group).headD c.lane
  | none => 64 * x.stack

/-- Whether a sum is a MERGE. -/
def Sum.merge (x : Sum) : Bool := (lowestContrib x.contribs).any (·.merge)

/-- TREE_RESULT_WRITE: a stack's part of a sum is final; without a ring it is written to the receiving lane 8 ticks
after the last contribution of one quadrant, 14 after that of several, and no earlier than it is known which quadrants take
part. In a strict stream a later write than the stated one is a contract breach at the receiver's RSEND (R347, R348). -/
def execTreeResultWrite (sum : Nat) (s : State) : Out :=
  match SMap.find s.sums sum with
  | none => .next s
  | some x =>
    let qs := s.sumQuads x
    if x.result.isSome ∨ x.written ∨ !(qs.all (fun q => s.quadSettled x q)) then .next s
    else if x.contribs.isEmpty then .next { s with sums := SMap.put s.sums sum { x with written := true } }
    else
      let last := x.contribs.foldl (fun m c => max m c.done) 0
      let stated := last + (if qs.length ≤ 1 then 8 else 14)
      let t := max stated x.absentAt
      if s.cclk x.stack < t then .next s
      else
        let v := combine x.contribs
        let s1 := s.countSum x.stack (qs.any (fun q => skewed (x.ofQuad q))) (mismatched x.contribs && !s.ringed x)
        if s1.ringed x then .next { s1 with sums := SMap.put s1.sums sum { x with result := some v } }
        else
          let l := s1.laneOf x.receiver
          match l.issued.find? (fun w => w.sum == some sum && l.strict && decide (stated < t)) with
          | some w =>
            let s2 := (s1.streamFault x.receiver 0x0B ⟨w.bits, w.uid, true, w.lctr, 0, l.group, false⟩ w.pos 0).releaseSends sum x.stack x.receiver t
            .next { s2 with sums := SMap.erase s2.sums sum }
          | none =>
            let s2 := ((s1.putResult x.receiver x.k x.merge v).resultUse x.receiver x.k v.length t).releaseSends sum x.stack x.receiver t
            .next { s2 with sums := SMap.erase s2.sums sum }

/-- Whether a stack's part of a ring sum is known: final, or absent. -/
def Sum.known (x : Sum) : Bool := x.result.isSome || x.written

/-- Two ring values combined in ring order (R346, R417). -/
def ringCombine (a b : Sum) (x y : List F32) : List F32 :=
  if a.merge ≠ b.merge ∨ x.length ≠ y.length then x.map (fun _ => nan32)
  else if a.merge then mergeVals x y else sumVals x y

/-- The links with both modules disabled that ring traffic from one stack to another crosses, in ring order: it goes round
each of them through the hub (R417, R418). -/
def State.detours (s : State) (src dst : Nat) : Nat :=
  ((List.range ((dst + 8 - src) % 8)).filter (fun i => s.linkDown ((src + i) % 8))).length

/-- RING_SUM_ARRIVE. Contributions of all stacks are held to one reference: where any differs the whole result is NaN, and
the sum counts once, at the lowest stack that takes part (R345; log 92). The partial reaches a stack, which adds its own sum; after the last stack the total goes round,
and each participating stack writes it (R417). -/
def execRingSumArrive (sum : Nat) (s : State) : Out :=
  match SMap.find s.sums sum with
  | none => .next s
  | some x =>
    match x.result with
    | none => .next s
    | some v =>
      let peers := (s.sums.filter (fun y => y.2.inst == x.inst)).map (·.2)
      let lower := peers.filter (fun y => y.stack < x.stack)
      if x.written ∨ !(lower.all Sum.known) then .next s
      else match x.relay with
        | none =>
          let prior := (lower.filter (fun y => y.result.isSome)).getLast?
          (match prior with
          | none => .next { s with sums := SMap.put s.sums sum { x with relay := some v } }
          | some p =>
            match p.relay with
            | none => .next s
            | some r =>
              .next { s.grow gDetour (s.detours p.stack x.stack) with
                sums := SMap.put s.sums sum { x with relay := some (ringCombine p x r v) } })
        | some _ =>
          let part := peers.filter (fun y => y.result.isSome)
          if !(peers.all Sum.known) then .next s
          else
            match (part.getLast?).bind (·.relay) with
            | none => .next s
            | some r =>
              let all := part.flatMap (·.contribs)
              let merge := (part.head?).any Sum.merge
              let bad := mismatched all
              let res := if bad then combine all else r
              let last := (part.getLast?.map (·.stack)).getD 0
              let before := ((part.filter (fun y => y.stack < x.stack)).getLast?.map (·.stack)).getD last
              let s0 := if x.stack = last then s else s.grow gDetour (s.detours before x.stack)
              let s0 := if bad && part.all (fun y => !y.written) then s0.countSum ((part.head?.map (·.stack)).getD 0) false true else s0
              let now := s.cclk x.stack
              let s1 := ((s0.putResult x.receiver x.k merge res).resultUse x.receiver x.k res.length now).releaseSends sum x.stack
                x.receiver now
              let sums := SMap.put s1.sums sum { x with written := true }
              let ended := (sums.filter (fun y => y.2.inst == x.inst)).all (fun y => y.2.written)
              .next { s1 with sums := if ended then sums.filter (fun y => y.2.inst ≠ x.inst) else sums }

/-- Whether no k-th sum can come from a quadrant any more (R344). -/
def State.quadOver (s : State) (x : Sum) (quad : Nat) : Bool :=
  let core := 4 * x.stack + quad
  (match SMap.find s.launches x.lctr with
  | some l => l.bound.length == l.nunit + 1
  | none => true) &&
  s.units.all (fun u => u.2.lctr != x.lctr || u.2.lastCore != core || u.2.ending.isSome) &&
  (List.range 16).all (fun i =>
    let l := s.laneOf (16 * core + i)
    l.words.all (fun w => w.lctr != x.lctr) && (l.lctr != x.lctr || (!l.running && l.issued.isEmpty)))

/-- QUADRANT_ABSENT (R344). -/
def execQuadrantAbsent (sum quad : Nat) (s : State) : Out :=
  match SMap.find s.sums sum with
  | none => .next s
  | some x =>
    if 4 ≤ quad ∨ x.absent.contains quad ∨ !(x.ofQuad (4 * x.stack + quad)).isEmpty ∨ !s.quadOver x quad then .next s
    else .next { s with sums := SMap.put s.sums sum { x with absent := quad :: x.absent, absentAt := s.cclk x.stack } }

end Sys2Proof.Machine
end

