-- ==== Sys2Proof/Machine/Power.lean ====
section
/-! DEFINITION. Power islands, the power predicate, the governor and the spillway (R440 to R455). -/

namespace Sys2Proof.Machine

/-! ### Islands (R440, R441, R449) -/

/-- Targets that an island permits (R446, R449). -/
def islandPermits (i t : Nat) : Bool :=
  if i < 104 then (if i % 13 = 12 then t < 3 else t < 4)
  else if i < 110 then t < 4
  else if i < 116 then t < 3
  else if i < 120 then t != 2 && t < 4
  else if i = 125 ∨ i = 126 then t != 2 && t < 4
  else t < 2

/-- Lanes of an octant island, none for the others (R440). -/
def islandLanes (i : Nat) : List Nat :=
  if i < 104 ∧ i % 13 < 8 then (List.range 8).map (fun k => 64 * (i / 13) + 8 * (i % 13) + k) else []

/-- The lane mask within a quadrant of an octant island's lanes. -/
def octantMask (i : Nat) : Nat := if i % 13 % 2 = 0 then 0x00FF else 0xFF00

/-- INFLT: VFIFO entries that name a lane of the island (R441). -/
def State.islandInflt (s : State) (i : Nat) : Nat :=
  if i < 104 ∧ i % 13 < 8 then
    ((s.quadOf (4 * (i / 13) + i % 13 / 2)).vfifo.filter (fun e => e.lanes.toNat &&& octantMask i ≠ 0)).length
  else 0

/-- QWORDS: lane words accepted and not yet retired in the island's lanes (R441). -/
def State.islandQwords (s : State) (i : Nat) : Nat :=
  min 255 ((islandLanes i).foldl (fun n l => n + (s.laneOf l).words.length + (s.laneOf l).issued.length) 0)

/-- Whether HOLD of an island stops a queue instruction of a stack core with a lane mask (R443). -/
def State.sendHeld (s : State) (core mask : Nat) : Bool :=
  let st := core / 4
  mask % 65536 ≠ 0 &&
    ((s.island (13 * st + 12)).hold ||
     (mask &&& 0xFF ≠ 0 && (s.island (13 * st + 2 * (core % 4))).hold) ||
     (mask &&& 0xFF00 ≠ 0 && (s.island (13 * st + 2 * (core % 4) + 1)).hold))

/-- The lane mask of a VSEND or LPUSH that waits at a slot's PC. -/
def State.waitingMask (s : State) (slot : Nat) : Option Nat :=
  let c := s.ctx slot
  match s.heldIns slot with
  | some (.vsend _ a _ _) | some (.lpush _ a) | some (.lpushImg _ a) => some ((c.rd a.toNat).toNat % 65536)
  | _ => none

/-- HELD: VSEND and LPUSH instructions held by an island (R441, R443). -/
def State.islandHeld (s : State) (i : Nat) : Nat :=
  if 104 ≤ i ∨ !(s.island i).hold then 0
  else
    let cores := if i % 13 < 8 then [4 * (i / 13) + i % 13 / 2] else if i % 13 = 12 then (List.range 4).map (4 * (i / 13) + ·) else []
    min 255 ((cores.flatMap (fun c => [2 * c, 2 * c + 1])).filter (fun sl => match s.waitingMask sl with
      | some m => if i % 13 = 12 then m ≠ 0 else m &&& octantMask i ≠ 0
      | none => false)).length

/-- Homes of an interleave domain: the slices that some address of its range maps to. The bits of the address are
taken from the highest, each with whether the range's lower and upper ends still bind (R382). -/
def State.domainHomes (s : State) (d : Nat) : List Nat :=
  let lo := (SMap.get s.dombase 0 d).toNat
  let hi := (SMap.get s.domlim 0 d).toNat
  let masks := (List.range 5).map (fun k => (SMap.get s.hmask 0 (16 * d + k)).toNat)
  let col (j : Nat) : Nat := (masks.zipIdx.filter (fun m => bitOf m.1 j)).foldl (fun a m => a + 2 ^ m.2) 0
  let inv := (masks.zipIdx.filter (fun m => bitOf m.1 63)).foldl (fun a m => a + 2 ^ m.2) 0
  let start : List (Bool × Bool × Nat) := if lo ≤ hi then [(true, true, inv)] else []
  let ends := (List.range 39).foldl (fun (st : List (Bool × Bool × Nat)) i =>
    let j := 47 - i
    (st.flatMap (fun (tl, th, v) => [false, true].filterMap (fun b =>
      if (tl && !b && bitOf lo j) || (th && b && !bitOf hi j) then none
      else some (tl && b == bitOf lo j, th && b == bitOf hi j, if b then v ^^^ col j else v)))).eraseDups) start
  (ends.map (fun e => e.2.2)).eraseDups

/-- Whether step 1 of an island's gate has ended (R442, R449, R450). The state of the host's link and of the memory
channels stands with the event. -/
def State.drained (s : State) (i : Nat) : Bool :=
  if i < 104 then
    let st := i / 13
    if i % 13 < 8 then s.islandInflt i == 0 && s.islandQwords i == 0
    else if i % 13 < 12 then
      let c := 4 * st + (i % 13 - 8)
      (s.ctx (2 * c)).uid.isNone && (s.ctx (2 * c + 1)).uid.isNone
    else (List.range 64).all (fun l => !(s.laneOf (64 * st + l)).running)
  else if i < 110 then
    (List.range 8).all (fun k =>
      let c := 32 + 8 * (i - 104) + k
      (s.ctx (2 * c)).uid.isNone && (s.ctx (2 * c + 1)).uid.isNone && (s.core c).spill.isEmpty &&
        (List.range 5).all (fun q => (s.engq (8 * c + q)).recs.isEmpty && (s.engq (8 * c + q)).run.isEmpty))
  else if i < 116 then (s.island (104 + (i - 110))).cur != 0
  else if i < 120 then
    let sl := (List.range 8).map (8 * (i - 116) + ·)
    (List.range 4).all (fun d => (s.domainHomes d).all (fun h => !sl.contains h)) &&
      s.lines.all (fun l => !sl.contains l.slice || l.valid == 0)
  else if i = 125 ∨ i = 126 then
    (List.range 6).all (fun k => !(s.raw (0xB00000 + 0x100 * (6 * (i - 125) + k))).getLsbD 63)
  else if i = 127 then s.exchanges.isEmpty && !s.hostSession
  else true

/-- The clock on which an island's ticks are counted: CCLK of its stack, else the package's ticks (R442). Rail ramps
are counted on the package's ticks. -/
def State.islandClk (s : State) (i : Nat) (ramp : Bool) : Nat := if i < 104 ∧ !ramp then s.cclk (i / 13) else s.tick

/-- RAMP of an island in ticks (R441). -/
def State.rampTicks (s : State) (i : Nat) : Nat := (max 500 ((s.raw (0xC00018 + 0x40 * i)).toNat % 2 ^ 32) * 7 + 4) / 5

/-- A gate starts at step 1 (R442). -/
def State.gateStart (s : State) (i t : Nat) : State :=
  let x := s.island i
  s.setIsland i { x with goal := t, next := none, hold := true, busy := true, step := 1 }

/-- A wake starts at step 6; `next` is a target that a gate then moves to (R445, R446). -/
def State.wakeStart (s : State) (i : Nat) (next : Option Nat) : State :=
  let x := s.island i
  s.setIsland i { x with goal := 0, next := next, busy := true, step := 6, ends := s.islandClk i true + s.rampTicks i }

/-- Step 5 starts, with the spillway engaged (R442, R444, R446). -/
def State.railDown (s : State) (i t : Nat) : State :=
  let x := s.island i
  s.setIsland i { x with goal := t, next := none, busy := true, step := 5, spill := true,
                         ends := s.islandClk i true + s.rampTicks i }

/-- What a new target does to an island that is neither busy nor on (R445, R446). -/
def State.moveFrom (s : State) (i t : Nat) : State :=
  let x := s.island i
  if t = x.cur then s
  else if t = 0 then s.wakeStart i none
  else if x.cur < t then s.railDown i t
  else s.wakeStart i (some t)

/-- A write of a permitted non-00 value to TGT (R442, R446). -/
def State.targetIsland (s : State) (i t : Nat) : State :=
  let x := s.island i
  if 128 ≤ i ∨ t = 0 ∨ !islandPermits i t ∨ t = x.tgt then s
  else
    let s1 := s.setIsland i { x with tgt := t }
    if x.busy then s1.setIsland i { x with tgt := t, next := some t }
    else if x.cur = 0 then s1.gateStart i t
    else s1.moveFrom i t

/-- A 1 written to WAKE, or 00 to TGT (R445). -/
def State.wakeIsland (s : State) (i : Nat) : State :=
  let x := s.island i
  if 128 ≤ i then s
  else if x.busy then
    if x.step ≤ 3 then
      s.setIsland i { x with tgt := 0, goal := 0, next := none, hold := false, retv := false, busy := false, step := 0, latch := [] }
    else s.setIsland i { x with tgt := 0, next := if x.step ≤ 5 then some 0 else none }
  else if x.cur = 0 then s.setIsland i { x with tgt := 0 }
  else (s.setIsland i { x with tgt := 0 }).wakeStart i none

/-- ISLAND_GATE: TGT moves away from 00 while CUR is 00 (R442). -/
def execIslandGate (island : Nat) (tgt : BitVec 2) (s : State) : Out :=
  let x := s.island island
  if x.cur = 0 ∧ !x.busy then .next (s.targetIsland island tgt.toNat) else .next s

/-- ISLAND_RETARGET: a new non-00 target (R446). -/
def execIslandRetarget (island : Nat) (tgt : BitVec 2) (s : State) : Out := .next (s.targetIsland island tgt.toNat)

/-- ISLAND_WAKE (R445). -/
def execIslandWake (island : Nat) (s : State) : Out := .next (s.wakeIsland island)

/-- Open banks of some lanes closed under R219 and their ports emptied (R442 step 2). -/
def State.closeLanes (s : State) (ls : List Nat) : State :=
  ls.foldl (fun s i =>
    let l := s.laneOf i
    let opened := (l.banks.filter (fun b => b.2.row.isSome)).map (·.1)
    let s1 := opened.foldl (fun s b => let x := (s.laneOf i).bankT b; s.closeBank i b (max (max (s.laneClk i) x.mayClose) x.fillHold)) s
    s1.setLane i { s1.laneOf i with ports := [] }) s

/-- The tick at which the last bank of some lanes is ready. -/
def State.banksReady (s : State) (ls : List Nat) : Nat :=
  ls.foldl (fun m i => (s.laneOf i).banks.foldl (fun m b => max m (max b.2.ready b.2.extReady)) m) 0

/-- The cores of a cluster's island (R449). -/
def clusterCores (i : Nat) : List Nat := if 104 ≤ i ∧ i < 110 then (List.range 8).map (fun k => 32 + 8 * (i - 104) + k) else []

/-- ISLAND_DRAIN_COMPLETE: step 1 ends and step 2 closes the banks (R442). A gated cluster holds no owner job: its scratchpads
are spilled before (R356, R450; DESIGN CHOICE, log 127: as the last part of step 1). -/
def execIslandDrainComplete (island : Nat) (s : State) : Out :=
  let x := s.island island
  let owned := (clusterCores island).filter (fun c => (s.core c).owner.isSome)
  if !x.busy ∨ x.step ≠ 1 ∨ !s.drained island then .next s
  else if !owned.isEmpty then .next (owned.foldl (fun s c => s.changeOwner c none) s)
  else
    let ls := islandLanes island
    let s1 := s.closeLanes ls
    .next (s1.setIsland island { x with step := 2, ends := max (s1.islandClk island false) (s1.banksReady ls) + 2 })

/-- What a lane's retention latches hold: configuration, port validity, eddy registers (R442). -/
def Lane.latched (l : Lane) : Lane :=
  { Lane.init with
    fmt := l.fmt, kc := l.kc, xb := l.xb, scs := l.scs, scp := l.scp, lim := l.lim, kpos := l.kpos, e := l.e,
    ports := (l.ports.map (fun p => (p.1, { p.2 with banks := [], pos := 0 }))).filter (fun p => p.2 ≠ Port.init) }

/-- The lanes of an island lose what is not in latches (R442, TGT 11). -/
def State.loseLanes (s : State) (ls : List Nat) : State :=
  ls.foldl (fun s i =>
    { (s.setLane i { s.laneOf i with acc := [], e := [], latch := [] }) with
      bufs := Memory.clear s.bufs (bufAddr i 0 0) 65536
      scratch := Memory.clear s.scratch (scratchAddr i 0) 0x40000 }) s

/-- A gate ends: CUR is its target, and a recorded target is taken up (R442, R445, R446). -/
def State.gateEnd (s : State) (i : Nat) : State :=
  let x := s.island i
  let off : Bool := x.goal == 3
  let s1 := if off then s.loseLanes (islandLanes i) else s
  let s2 := s1.setIsland i { x with
    spill := false, cur := x.goal, busy := false, step := 0, next := none,
    retv := x.retv && !off, latch := if off then [] else x.latch }
  match x.next with
  | some t => s2.moveFrom i t
  | none => s2

/-- Step 7: what the latches hold is restored; from CUR 11 lanes take their reset values (R445). -/
def State.restoreLanes (s : State) (i : Nat) : State :=
  let x := s.island i
  (islandLanes i).foldl (fun s k =>
    let l := s.laneOf k
    if x.cur = 3 then s.setLane k { l with
      fmt := 0, kc := 0, xb := 0, scs := none, scp := 0, lim := 0xFFFFFF, kpos := 0, ports := [], acc := [], e := [] }
    else match SMap.find x.latch k with
      | some r => s.setLane k { l with
          fmt := r.fmt, kc := r.kc, xb := r.xb, scs := r.scs, scp := r.scp, lim := r.lim, kpos := r.kpos, e := r.e, ports := r.ports }
      | none => s) s

/-- Step 5 of a gate under way; a recorded target stays recorded. -/
def State.railDownKeep (s : State) (i : Nat) : State :=
  let x := s.island i
  s.setIsland i { x with step := 5, spill := true, ends := s.islandClk i true + s.rampTicks i }

/-- ISLAND_STEP_COMPLETE: a timed step ends and the next begins (R442, R445). -/
def execIslandStepComplete (island : Nat) (s : State) : Out :=
  let x := s.island island
  if !x.busy ∨ x.step = 1 ∨ s.islandClk island (x.step = 5 ∨ x.step = 6) < x.ends then .next s
  else
    let clk := s.islandClk island false
    match x.step with
    | 2 => .next (s.setIsland island { x with step := 3, ends := clk + 64 })
    | 3 =>
      let latch := (islandLanes island).foldl (fun m l => SMap.put m l (s.laneOf l).latched) []
      .next (s.setIsland island { x with step := 4, ends := clk + 4, retv := true, latch := latch })
    | 4 => if x.goal = 1 then .next (s.gateEnd island) else .next (s.railDownKeep island)
    | 5 => .next (s.gateEnd island)
    | 6 => .next (s.setIsland island { x with step := 7, ends := clk + 64 })
    | 7 => .next ((s.restoreLanes island).setIsland island { x with step := 8, ends := clk + 4 })
    | 8 =>
      let s1 := s.setIsland island { x with cur := 0, retv := false, busy := false, step := 0, latch := [], next := none,
                                            hold := x.next.any (· ≠ 0) }
      (match x.next with
      | some t => if t = 0 then .next s1 else .next (s1.gateStart island t)
      | none => .next s1)
    | _ => .next s

/-! ### The power predicate (R451, R452) -/

/-- Growth counters: the histogram of PAVG in 25 W bins, entries to state 2 and to state 3, and ticks by PWRS state
(R462). -/
def gPavg (watts : Nat) : Nat := 8192 + watts / 25
def gEnters : Nat := 1103
def gForces : Nat := 1104
def gPwrs (p : Nat) : Nat := 1105 + p

/-- A change of PWRS with its interrupt and counts (R451, R459). -/
def State.setPwrs (s : State) (p : Nat) : State :=
  if s.pwrs.toNat = p % 4 then s
  else
    let w := s.power
    let s := (s.grow gEnters (if p = 2 then 1 else 0)).grow gForces (if p = 3 then 1 else 0)
    { (s.irq 0 3) with
      pwrs := BitVec.ofNat 2 p
      power := { w with enters := min 65535 (w.enters + (if p = 2 then 1 else 0)),
                        forces := min 65535 (w.forces + (if p = 3 then 1 else 0)),
                        p2At := if p = 2 then s.tick else w.p2At } }

/-- P1, P2 and the other fields of PMCFG (R451). -/
def State.pmcfg (s : State) (h l : Nat) : Nat := bitsOf (s.raw 0xD00000).toNat h l

/-- The transition of R452 for a reading. -/
def State.nextPwrs (s : State) (watts : Nat) (inletOk : Bool) (lowAt : Option Nat) : Nat :=
  let low : Bool := match lowAt with
    | some t => 140000 ≤ s.tick - t
    | none => false
  match s.pwrs.toNat with
  | 0 => if s.pmcfg 63 48 < watts ∨ !inletOk then 1 else 0
  | 1 => if s.pmcfg 47 32 < watts then 2 else if low ∧ inletOk then 0 else 1
  | 2 => if watts ≤ s.pmcfg 47 32 ∧ s.tick - s.power.p2At ≤ 14000 then 1 else if 14000 ≤ s.tick - s.power.p2At then 3 else 2
  | _ => if low then (if inletOk then 0 else 1) else 3

/-- Whether the inlet is within the limits that the module requires (R16). -/
def inletOk (x : Inlet) : Bool := 40000 ≤ x.millivolt && x.millivolt ≤ 60000 && x.coolant ≤ 450 && 2000 ≤ x.flow

/-- PWRS_UPDATE: once per microsecond, on PAVG and the inlet as sensed; running firmware moves PWRS (R14, R16, R452). -/
def execPwrsUpdate (watts : Nat) (inlet : Inlet) (s : State) : Out :=
  if s.tick % 1400 ≠ 0 then .next s
  else
    let inletOk := inletOk inlet
    let w := min 65535 watts
    let s := s.grow (gPavg w) 1
    let low := if w ≤ s.pmcfg 63 48 then (match s.power.lowAt with | some t => some t | none => some s.tick) else none
    let s1 := { s with power := { s.power with pavg := w, lowAt := low, inletOk := inletOk } }
    .next (if s.boot.code = 2 then s1.setPwrs (s.nextPwrs w inletOk low) else s1)

/-! ### The governor (R454) -/

/-- Present width of a port: 0 eight lanes, 1 four, 2 two, 3 down. -/
def State.portWidth (s : State) (p : Nat) : Nat := (s.port p).lanes.toNat

/-- A port's cost in W (R454). -/
def portCost (width bytes : Nat) : Nat :=
  if width = 3 ∨ bytes = 0 then 1 else if width = 0 then 12 else if width = 1 then 7 else 4

/-- A port sheds: it retrains at the next narrower width (R425), and the governor commands no other for 100 µs (R454). -/
def State.shed (s : State) (p : Nat) : State :=
  let x := s.port p
  { s.setPort p { x with retrain := true, goal := if x.lanes = 0 then 1 else 2, sheds := min 65535 (x.sheds + 1) } with
    power := { s.power with lastShed := some s.tick } }

/-- The busy port with the fewest bytes among those not at two lanes, the lowest of equals. -/
def State.shedPick (s : State) (traffic : List Nat) : Option Nat :=
  ((List.range 12).filter (fun p => traffic.getD p 0 ≠ 0 && s.portWidth p < 2 && !(s.port p).retrain)).foldl
    (fun (b : Option Nat) p => match b with
      | none => some p
      | some q => if traffic.getD p 0 < traffic.getD q 0 then some p else some q) none

/-- Tile cores whose matrix engine ran an MTILE in the last microsecond (R454). -/
def State.activeEngines (s : State) : List Nat :=
  (List.range 48).map (· + 32) |>.filter (fun c => s.power.active.contains c ||
    (s.engq (8 * c + 1)).run.any (fun r => bitsOf r.bits.toNat 127 122 == 2 && !r.todo))

/-- GOVERNOR_STEP (R454). -/
def execGovernorStep (traffic : List Nat) (s : State) : Out :=
  if s.tick % 1400 ≠ 0 then .next s
  else
    let cfg := (s.raw 0xD00010).toNat
    let pool := bitsOf cfg 63 48
    let f := (List.range 12).foldl (fun a p => a + portCost (s.portWidth p) (traffic.getD p 0)) 0
    let act := s.activeEngines
    let a := act.length
    let recent : Bool := match s.power.lastShed with
      | some t => s.tick - t < 140000
      | none => false
    let tooMuch : Bool := pool < f + a * bitsOf cfg 47 32 && !recent
    let n := pool - min f pool
    let idle := if a = 0 ∨ 15 * a ≤ n then 0 else 16 * (15 * a - n) / (15 * a)
    let pick := if tooMuch then s.shedPick traffic else none
    let s1 := match pick with
      | some p => s.shed p
      | none => s
    .next { s1 with power := { s1.power with idle := idle, active := [] } }

/-! ### The spillway (R455) -/

/-- The tick at which engaged loads are released: T from now. -/
def State.spillEnd (s : State) : Nat :=
  let on := s.islands.filter (fun x => x.2.load ≠ 0)
  let ramp := on.foldl (fun m x => max m (max 500 ((s.raw (0xC00018 + 0x40 * x.1)).toNat % 2 ^ 32))) 0
  let amps := on.foldl (fun a x => a + x.2.load) 0
  let ns := max ramp (ceilDiv amps (max 1 (s.pmcfg 31 24)))
  s.tick + (ns * 7 + 4) / 5

/-- SPILLWAY_ENGAGE: an island's regulator takes up the current that was lost, when no gating step is under way. -/
def execSpillwayEngage (island milliamps : Nat) (s : State) : Out :=
  let x := s.island island
  if 128 ≤ island ∨ x.busy ∨ milliamps = 0 then .next s
  else
    let s1 := s.setIsland island { x with spill := true, load := milliamps }
    .next { s1 with power := { s1.power with release := some s1.spillEnd } }

/-- Loads released once their time has come (R455). -/
def State.releaseSpill (s : State) : State :=
  match s.power.release with
  | some t => if s.tick < t then s else
      { s with islands := (s.islands.map (fun x => if x.2.load ≠ 0 then (x.1, { x.2 with spill := x.2.busy && x.2.spill, load := 0 }) else x)).filter
                 (fun x => x.2 ≠ Island.init),
               power := { s.power with release := none } }
  | none => s

end Sys2Proof.Machine
end

