-- ==== Sys2Proof/Machine/Fabric.lean ====
section
/-! DEFINITION. Fabric ports, raft frames and streams, remote atomics, group reductions, switch trust, failed paths
(R320, R412, R413, R420 to R437), and the completion of records (R246). -/

namespace Sys2Proof.Machine

/-! ### Groups and members (R413, R430) -/

/-- RGCFG of a group. -/
def State.rgcfg (s : State) (g : Nat) : Nat := (s.raw (0xA00010 + 0x40 * g)).toNat

/-- RGCFG.EN. -/
def State.rgEn (s : State) (g : Nat) : Bool := g < 64 && bitOf (s.rgcfg g) 63
/-- RGCFG.JOB. -/
def State.rgJob (s : State) (g : Nat) : Nat := bitsOf (s.rgcfg g) 55 48
/-- RGCFG.MEMB. -/
def State.rgMemb (s : State) (g : Nat) : Nat := bitsOf (s.rgcfg g) 47 32
/-- Members of a group. -/
def State.rgMembers (s : State) (g : Nat) : Nat := bitsOf (s.rgcfg g) 15 0 + 1

/-- The collective group of a job: of several, the lowest (log 21). -/
def State.jobGroup (s : State) (j : Nat) : Option Nat := (List.range 64).find? (fun g => s.rgEn g && s.rgJob g == j)

/-- MEMB of a job (R32). -/
def State.jobMemb (s : State) (j : Nat) : Nat := ((s.jobGroup j).map s.rgMemb).getD 0

/-- NMEMB of a job (R32). -/
def State.jobMembers (s : State) (j : Nat) : Nat := ((s.jobGroup j).map s.rgMembers).getD 1

/-- LPATH of a path (R413). -/
def PathState.code : PathState → Nat
  | .none => 0
  | .pending => 0
  | .attested => 1
  | .refused => 2

/-- The path of a member of a group as this package knows it: its own, or another's, of which NOTE frames have told, PENDING
from set-up on (R413, R429; log 25). -/
def State.memberPath (s : State) (g m : Nat) : Nat :=
  if m = s.rgMemb g then (s.rg g).path.code else SMap.get (s.rg g).peers 0 m

/-- Members of a group whose path has a code: NREF and NPEND (R413). -/
def State.pathCount (s : State) (g code : Nat) : Nat :=
  ((List.range (s.rgMembers g)).filter (fun m => s.memberPath g m == code)).length

/-- Whether every path of a group is ATTESTED (R434). -/
def State.allAttested (s : State) (g : Nat) : Bool := s.pathCount g 1 == s.rgMembers g

/-- ceil(log2 n) (R94). -/
def ceilLog2 (n : Nat) : Nat := if n ≤ 1 then 0 else Nat.log2 (n - 1) + 1

/-- The physical address of a group's path descriptor (R430). -/
def State.pathAt (s : State) (g : Nat) : Nat := bitsOf (s.raw (0xA00018 + 0x40 * g)).toNat 47 4 * 16

/-- A byte of a group's path descriptor, read under the job's key (R430). -/
def State.pathByte (s : State) (g i : Nat) : Byte := s.memByte (s.jobKey (s.rgJob g)) (s.pathAt g + i)

/-- NSW of a well-formed path descriptor; one that meets an uncorrectable error is none (R18, R430). -/
def State.pathSwitches (s : State) (g : Nat) : Option Nat :=
  let n := (s.pathByte g 0).toNat + 256 * (s.pathByte g 1).toNat
  if n = 0 ∨ 8 < n ∨ paEnd < s.pathAt g + 16 + 16 * n then none
  else if (List.range (16 + 16 * n)).any (fun i => s.poisoned (.mem (s.pathAt g + i) 0)) then none
  else if (List.range 14).any (fun i => s.pathByte g (i + 2) ≠ 0) then none
  else if (List.range n).any (fun k => 63 < (s.pathByte g (16 + 16 * k + 7)).toNat) then none
  else some n

/-- The number of `n` bytes from a byte on of the entry of a switch in a group's path descriptor (R430). -/
def State.pathField (s : State) (g sw at0 n : Nat) : Nat :=
  ofBytes ((List.range n).map (fun i => s.pathByte g (16 + 16 * sw + at0 + i)))

/-- What reading a job's switch-trust descriptor gives: its digests; that it is malformed or cannot be read; or that a page of
it is not there, or held by a freeze, as for a load (R385, R412). -/
inductive Trust where
  | digests (ds : List (List Byte))
  | bad
  | wait (page : Option Nat)
  deriving DecidableEq, Repr

/-- A part of the descriptor that could not be read. -/
def DevRead.trust : DevRead → Trust
  | .absent p => .wait (some p)
  | .held => .wait none
  | _ => .bad

/-- A job's switch-trust descriptor read (R412). -/
def State.readTrust (s : State) (j : Nat) : Trust :=
  let a := (s.jobWord j 9).toNat
  if a % 16 ≠ 0 then .bad
  else match s.devRead (jobDom j) j 16 a with
    | .bytes bs =>
      let n := ofBytes (bs.take 2)
      if n = 0 ∨ 64 < n ∨ (bs.drop 2).any (· ≠ 0) then .bad
      else (match s.devRead (jobDom j) j (32 * n) (a + 16) with
        | .bytes ds => .digests ((List.range n).map (fun k => (ds.drop (32 * k)).take 32))
        | r => r.trust)
    | r => r.trust

/-- Whether the job's switch-trust descriptor is well formed (R412). -/
def State.trustOk (s : State) (j : Nat) : Bool :=
  match s.readTrust j with
  | .digests _ => true
  | _ => false

/-- Whether a digest is one of the job's switch-trust descriptor (R412). -/
def State.digestOk (s : State) (j : Nat) (digest : List Byte) : Bool :=
  match s.readTrust j with
  | .digests ds => ds.contains digest
  | _ => false

/-! ### Streams (R424) -/

/-- The key of a stream: job, whether the other end is a switch, and its member index or switch id. -/
def streamKey (j : Nat) (sw : Bool) (m : Nat) : Nat := 131072 * j + 65536 * sw.toNat + m

/-- The job of a stream. -/
def streamJob (k : Nat) : Nat := k / 131072

/-- The switch id of the switch at a place of a group's path, from the leaf (log 22). -/
def switchId (g i : Nat) : Nat := 8 * g + i

/-- The port that frames leave by: the first that is enabled and up (log 23). -/
def State.txPort (s : State) : Option Nat :=
  (List.range 12).find? (fun p => (s.raw (0xB00000 + 0x100 * p)).getLsbD 63 && (s.port p).lanes ≠ 3)

/-- Whether frames can leave now: a port that retrains takes none (R425). -/
def State.portReady (s : State) : Bool :=
  match s.txPort with
  | some p => !(s.port p).retrain
  | none => false

/-- A frame of a job from this member with nothing but its header's common fields (R421). -/
def State.frameOf (s : State) (j kind op : Nat) : Frame :=
  { kind := kind, op := op, jtag := s.jobTag j, key := s.jobSkey j, group := (s.jobGroup j).getD 0, tsv := false,
    red := false, sw := false, ep := false, hr := ceilLog2 (s.jobMembers j), srcm := s.jobMemb j, dstm := 0,
    nmemb := s.jobMembers j - 1, x := 0, nelem := 0, seq := 0, acked := 0, chunk := 0, round := 0, mbmap := 0, ts := 0,
    addr := 0, payload := [], rbar := 0, tagOk := true, port := s.txPort.getD 0 }

/-- The 64 bytes of a raft header (R421). -/
def frameHeader (f : Frame) : List Byte :=
  let b (x : Bool) (i : Nat) : Nat := x.toNat * 2 ^ i
  bytesOf 1 (16 * f.ver + f.kind) ++ bytesOf 1 f.op ++ bytesOf 2 f.jtag ++ bytesOf 1 f.key ++
    bytesOf 1 (f.group % 64 + 64 * (f.rsv % 4)) ++
    bytesOf 1 (b f.tsv 0 + b f.red 1 + b f.sw 2 + b f.ep 3 + 16 * (f.rsv / 4)) ++ bytesOf 1 f.hr ++
    bytesOf 2 f.srcm ++ bytesOf 2 f.dstm ++ bytesOf 2 f.nmemb ++ bytesOf 1 f.x ++ bytesOf 1 f.nelem ++
    bytesOf 8 f.seq ++ bytesOf 8 f.acked ++ bytesOf 4 f.chunk ++ bytesOf 4 f.round ++ bytesOf 8 f.mbmap ++
    bytesOf 8 f.ts ++ bytesOf 8 f.addr

/-- The 12-byte IV of a frame: of a member, or of a switch by its id (R423). -/
def frameIv (f : Frame) : List Byte := bytesOf 8 f.seq ++ bytesOf 2 f.srcm ++ bytesOf 2 f.sw.toNat

/-- The 128-bit session key of a slot (R423). -/
def State.sessionKey (s : State) (slot : Nat) : List Byte := (SMap.find s.skeys slot).getD (Config.sessionKey slot)

/-- A frame as it leaves its port, but for its FCS: the Ethernet II header with the port's own address, the raft header, the
payload enciphered by SM4-GCM under the job's session key with the header as additional data, and the tag (R420, R421,
R423). -/
def State.wire (s : State) (k : Nat) (f : Frame) : List Byte :=
  let c := sm4Gcm (s.sessionKey f.key) (frameIv f) (frameHeader f) f.payload
  beBytes 6 (Config.stationMac k) ++ beBytes 6 (bitsOf (s.raw (0xB00000 + 0x100 * f.port)).toNat 47 0) ++ beBytes 2 f.etype ++
    frameHeader f ++ c.1 ++ c.2

/-- The length of a frame with its FCS (R419, R421). -/
def wireLength (f : Frame) : Nat := 14 + 64 + f.payload.length + 16 + 4

/-- The payload's length that KIND, OP and CHUNK give (R421, R422). A DATA frame without payload stands for one that its sender
has given up (log 95). -/
def framePayload (f : Frame) : Option Nat :=
  match f.kind with
  | 0 => if f.chunk ≤ 4096 then some f.chunk else none
  | 1 => some (if f.op = 0 then 272 else 256)
  | 2 => some 16
  | 3 => some 8
  | 4 => some 0
  | 5 => some 16
  | _ => none

/-- A frame that is a raft frame of version 1, with its reserved bits zero and the length of its KIND, within the maximum
frame (R419, R422). -/
def frameSound (f : Frame) : Bool :=
  f.etype == 0x88B5 && f.ver == 1 && f.rsv == 0 && framePayload f == some f.payload.length && wireLength f ≤ 4200

/-- Frames that a stream's sender keeps and that are not acknowledged (R424). -/
def Stream.unacked (x : Stream) : List Kept := x.kept.filter (fun f => x.freed < f.frame.seq)

/-- Whether a stream is one of contributions to a switch whose group's MODE is 1: no member sends those (R432; log 131). -/
def State.blocked (s : State) (k : Nat) : Bool := k / 65536 % 2 == 1 && (s.rg (k % 65536 / 8)).mode == 1

/-- Numbered frames of a stream leave in order, while a port takes them and at most 4,096 are unacknowledged; every frame
carries ACKED (R424, R425, R432). -/
def State.pump (s : State) (k : Nat) : State :=
  let x := s.stream k
  let p := s.txPort.getD 0
  let now := (x.queue.take (4096 - x.unacked.length)).map (fun y =>
    { y with frame := { y.frame with acked := x.acked, port := p }, sent := s.tick })
  if now.isEmpty || !s.portReady || s.blocked k then s
  else
    { s.setStream k { x with
        queue := x.queue.drop now.length, kept := x.kept ++ now, ackDue := none, port := some p,
        unackedSince := if x.unacked.isEmpty then some s.tick else x.unackedSince } with
      out := s.out ++ now.map (·.frame) }

/-- A frame sent on a stream. DATA, AREQ, RAFT and NOTE frames take a number and are kept; the others leave when a port takes
them (R424, R425). -/
def State.sendFrame (s : State) (k : Nat) (f : Frame) (keep : Bool) : State :=
  let x := s.stream k
  if keep then
    (s.setStream k { x with seq := x.seq + 1, queue := x.queue ++ [⟨{ f with seq := x.seq + 1 }, 0, none⟩] }).pump k
  else
    let s1 := s.setStream k { x with ackDue := none }
    if s.portReady then { s1 with out := s.out ++ [{ f with acked := x.acked }] } else { s1 with txq := s.txq ++ [(k, f)] }

/-- Whether a stream holds as many unacknowledged frames as its sender may (R424). -/
def State.streamFull (s : State) (k : Nat) : Bool :=
  let x := s.stream k
  4096 ≤ x.unacked.length + x.queue.length

/-- Growth counters of discarded frames, and of retransmits and sheds by port (R420, R462). -/
def gFrameDrop : Nat := 1400
def gRetx (p : Nat) : Nat := 1500 + p
def gShed (p : Nat) : Nat := 1520 + p

/-- A stream's unacknowledged frames sent again in order, bit for bit but for the port, ahead of new ones; none where no port
takes frames or the group of a switch's stream reduces at its endpoints (R423 to R425, R432). -/
def State.resend (s : State) (k : Nat) : State :=
  let x := s.stream k
  let n := x.kept.length
  let p := s.txPort.getD 0
  if !s.portReady || s.blocked k then s
  else
    let again : List Kept := x.kept.map (fun f => { f with frame := { f.frame with port := p }, sent := s.tick })
    let s1 := s.setStream k { x with kept := again, port := some p }
    let s2 := s1.setPort p { s1.port p with retx := ((s1.port p).retx + n) % 2 ^ 64 }
    { (s2.grow (gRetx p) n) with out := s.out ++ again.map Kept.frame }.pump k

/-- A port takes frames again: those that waited for one leave, unacknowledged frames of each stream first (R424, R425). -/
def State.resume (s : State) : State :=
  if !s.portReady then s
  else
    let s1 : State := { s with txq := [], out := s.out ++ s.txq.map (fun (x : Nat × Frame) =>
      { x.2 with acked := (s.stream x.1).acked, port := s.txPort.getD 0 }) }
    s1.streams.foldl (fun (s : State) k => if k.2.kept.isEmpty then s.pump k.1 else s.resend k.1) s1

/-- Whether a stream's frame of a number is a remote atomic whose reply has not come: its sender keeps it until then
(R320). -/
def State.replyDue (s : State) (k seq : Nat) : Bool := s.remotes.any (fun r => r.stream == k && r.seq == seq && r.reply.isNone)

/-- ACKED of the other end taken in: frames it covers are no longer kept, but for an atomic without its reply, and cached
replies it covers are freed (R320, R424). -/
def State.ackIn (s : State) (k n : Nat) : State :=
  let x := s.stream k
  let open0 (f : Kept) : Bool := x.freed < f.frame.seq
  let left := x.kept.filter (fun f => open0 f && n < f.frame.seq)
  s.setStream k { x with
    kept := x.kept.filter (fun f => n < f.frame.seq || s.replyDue k f.frame.seq)
    freed := max x.freed n, replies := x.replies.filter (fun r => n < r.1),
    unackedSince := if left.isEmpty then none
      else if left.length < (x.kept.filter open0).length then some s.tick else x.unackedSince }

/-- ACKED advanced over a run of marked entries of the window (R424). -/
def advanceAck : Nat → Nat → List Nat → Nat × List Nat
  | 0, a, w => (a, w)
  | k + 1, a, w => if w.contains (a + 1) then advanceAck k (a + 1) (w.erase (a + 1)) else (a, w)

/-- A frame marked as applied. -/
def State.mark (s : State) (k seq : Nat) : State :=
  let x := s.stream k
  let r := advanceAck (x.window.length + 1) x.acked (seq :: x.window)
  s.setStream k { x with acked := r.1, window := r.2,
                         ackDue := if r.1 = x.acked then x.ackDue else some (x.ackDue.getD s.tick) }

/-- Whether the receiver discards a frame by its number (R424). -/
def State.stale (s : State) (k seq : Nat) : Bool :=
  let x := s.stream k
  seq ≤ x.acked || x.window.contains seq || x.acked + 4096 < seq

/-! ### Running records of the collective engine -/

/-- A running record changed, by its serial number. -/
def State.mapRun (s : State) (q seq : Nat) (f : Rec → Rec) : State :=
  let e := s.engq q
  s.setEngq q { e with run := e.run.map (fun r => if r.seq == seq then f r else r) }

/-- A running record that faults: it leaves the running ones and holds its queue (R251). -/
def State.failRun (s : State) (q seq fcode check : Nat) (addr : Word) : State :=
  let e := s.engq q
  match e.run.find? (fun r => r.seq == seq) with
  | none => s
  | some r =>
    let s1 := { (s.setEngq q { e with run := e.run.filter (fun x => x.seq ≠ seq) }) with
                rafts := s.rafts.filter (fun x => x.seq ≠ seq) }
    s1.recFault q { r with desc := [] } fcode check addr

/-- A stream and number that a record waits for: the last on each stream counts. -/
def addWait (ws : List (Nat × Nat)) (k n : Nat) : List (Nat × Nat) := (k, n) :: ws.filter (fun w => w.1 ≠ k)

/-- A frame sent and kept for a record (R246). -/
def State.sendOwned (s : State) (rec0 k : Nat) (f : Frame) : State :=
  let s1 := s.sendFrame k f true
  let x := s1.stream k
  let own (y : Kept) : Kept := if y.frame.seq == x.seq then { y with owner := some rec0 } else y
  s1.setStream k { x with kept := x.kept.map own, queue := x.queue.map own }

/-- A record's frame sent: the record waits for its acknowledgement (R246). -/
def State.sendFor (s : State) (q seq k : Nat) (f : Frame) : State :=
  let s1 := s.sendOwned seq k f
  s1.mapRun q seq (fun r => { r with waits := addWait r.waits k (s1.stream k).seq })

/-- Bytes to subtract from a barrier that a record names (R247). -/
def addSub (subs : List (Word × Nat)) (bar : Word) (n : Nat) : List (Word × Nat) :=
  if bar = 0 ∨ n = 0 then subs
  else if subs.any (fun b => b.1 == bar) then subs.map (fun b => if b.1 == bar then (bar, b.2 + n) else b)
  else subs ++ [(bar, n)]

/-! ### Group reductions (R433, R434) -/

/-- The engine queue of a reduction's record. -/
def Raft.queue (x : Raft) : Nat := 8 * x.core + 4

/-- The party of a reduction's record. -/
def State.raftParty (s : State) (x : Raft) : Option (Rec × Party) :=
  ((s.engq x.queue).run.find? (fun r => r.seq == x.seq)).map (fun r => (r, s.recParty x.core r))

/-- The address of a chunk. -/
def Raft.at (x : Raft) (base : Word) (c : Nat) : Word := base + BitVec.ofNat 64 (c * chunkBytes x.op)

/-- A reduction changed, by its record. -/
def State.setRaft (s : State) (x : Raft) : State :=
  { s with rafts := s.rafts.map (fun y => if y.seq == x.seq then x else y) }

/-- A RAFT frame of a chunk. -/
def State.raftFrameOf (s : State) (x : Raft) (r : Rec) (c : Nat) (bs : List Byte) : Frame :=
  let f := s.frameOf (s.rgJob x.group) 1 x.op
  { f with group := x.group, srcm := s.rgMemb x.group, nmemb := s.rgMembers x.group - 1,
           hr := ceilLog2 (s.rgMembers x.group), nelem := 63, chunk := c, round := x.round, payload := bs,
           x := (Config.chunkExponent x.group x.round c).toNat,
           tsv := r.ts.isSome, ts := match r.ts with | some (t, _) => t.toNat | none => 0 }

/-- Whether a frame's timestamp is off by more than a WIDTH (R436). -/
def State.skewedFrame (s : State) (f : Frame) (width : Nat) : Bool :=
  f.tsv && width ≠ 0 && width < (max s.time.toNat f.ts - min s.time.toNat f.ts)

/-- A chunk's result delivered to this member: written once to DST, its bytes to be subtracted from BAR. What arrives from
another package acts for no unit: tags are cleared (R316). The second component is false where the bytes of DST cannot be written yet. -/
def State.deliver (s : State) (g round c : Nat) (bs : List Byte) (ep : Bool) (f : Option Frame) : State × Bool :=
  match s.rafts.find? (fun x => x.group == g && x.round == round && c < x.nchunk && !x.got.contains c) with
  | none => (s, true)
  | some x =>
    match s.raftParty x with
    | none => (s, true)
    | some (r, p) =>
      match s.locate p .store 1 (x.at x.dst c) bs.length with
      | (s1, .ok ls ts) =>
        let skew := f.any (fun f => s.skewedFrame f ((r.ts.map (·.2)).getD 0))
        let s2 := (((s1.clearTags ts).writeFor p ls bs).markFills s1 none (some x.seq)).setRaft { x with got := c :: x.got, usedEp := x.usedEp || ep }
        (s2.mapRun x.queue x.seq (fun r => { r with
          subs := addSub r.subs x.bar bs.length, flags := r.flags ||| (if skew then 16 else 0) }), true)
      | (s1, .fault e) => (s1.failRun x.queue x.seq 0x2B e.check e.addr, true)
      | (s1, _) => (s1, false)

/-- Whether a freeze holds the bytes of DST that a result of a chunk goes to (R385). -/
def State.resultFrozen (s : State) (g round c n : Nat) : Bool :=
  match s.rafts.find? (fun x => x.group == g && x.round == round && c < x.nchunk && !x.got.contains c) with
  | none => false
  | some x => (s.raftParty x).any (fun rp => match s.locate rp.2 .store 1 (x.at x.dst c) n with
    | (_, .held z _) => z
    | _ => false)

/-- Whether a running record of this member takes a result of a chunk (R436). -/
def State.takes (s : State) (g round c : Nat) : Bool :=
  match s.rafts.find? (fun x => x.group == g && x.round == round && c < x.nchunk && !x.got.contains c) with
  | none => false
  | some x => (s.raftParty x).isSome

/-- A chunk of the reduction area. -/
def RGroup.chunk (r : RGroup) (round c : Nat) : AreaChunk :=
  (r.area.find? (fun a => a.round == round && a.chunk == c)).getD ⟨round, c, [], 0, false⟩

/-- A chunk of the reduction area replaced. -/
def RGroup.putChunk (r : RGroup) (a : AreaChunk) : RGroup :=
  { r with area := a :: r.area.filter (fun b => !(b.round == a.round && b.chunk == a.chunk)) }

/-- The bytes of a chunk in a group's reduction area, in second-tier memory under the job's key; chunks of successive rounds lie
beside each other (R433; log 132). -/
def State.areaLocs (s : State) (g round c n : Nat) : List Loc :=
  (List.range n).map (fun i => Loc.mem ((s.rg g).base + 272 * (2 * c + round % 2) + i) (s.jobKey (s.rgJob g)))

/-- Whether bytes of the reduction area can be reached now (R385, R461). -/
def State.areaReady (s : State) (ls : List Loc) : Bool :=
  ls.all (fun l => match l with
    | .mem pa _ => !s.frozen pa && s.memUp pa
    | _ => true)

/-- Whether a freeze holds bytes of the reduction area (R385). -/
def State.areaFrozen (s : State) (ls : List Loc) : Bool := ls.any (fun l => match l with | .mem pa _ => s.frozen pa | _ => false)

/-- A member's contribution added in parts by the OP of R431. -/
def addChunk (op : Nat) (old new : List Byte) : List Byte :=
  if old.isEmpty then new
  else if op = 0 then mapWords (ropElem 3 false) (old.take 256) (new.take 256) ++
    mapWords (ropElem 3 true) (old.drop 256) (new.drop 256)
  else mapWords (ropElem (raftRop op) false) old new

/-- The trigger time and WIDTH of this member's own record of a round of a group, if it runs and TSEND fired it (R268). -/
def State.roundTime (s : State) (g round : Nat) : Option (Word × Nat) :=
  ((s.rafts.find? (fun x => x.group == g && x.round == round)).bind s.raftParty).bind (fun r => r.1.ts)

/-- A result of the owner's sent to a member (R433). -/
def State.sendResult (s : State) (g op m : Nat) (a : AreaChunk) (data : List Byte) : State :=
  let j := s.rgJob g
  let f := { s.frameOf j 1 op with
    tsv := (s.roundTime g a.round).isSome, ts := match s.roundTime g a.round with | some (t, _) => t.toNat | none => 0 }
  s.sendFrame (streamKey j false m) { f with
    group := g, red := true, dstm := m, srcm := s.rgMemb g, nmemb := s.rgMembers g - 1, nelem := 63, chunk := a.chunk,
    round := a.round, payload := data, x := (Config.chunkExponent g a.round a.chunk).toNat } true

/-- The other members of a group. -/
def State.others (s : State) (g : Nat) : List Nat := (List.range (s.rgMembers g)).filter (· ≠ s.rgMemb g)

/-- The owner takes a member's contribution or result of a chunk into its reduction area (R433). A chunk whose result it
holds goes back to a member that still contributes to it (log 24). It waits, with a second component false, while the area
cannot be reached (R385, R461); an uncorrectable error there cancels the job (R18). -/
def State.contribute (s : State) (g op round c m : Nat) (red : Bool) (bs : List Byte) : State × Bool :=
  let r := s.rg g
  let a := r.chunk round c
  let fresh : Bool := a.senders.isEmpty
  let ls := s.areaLocs g round c (if a.final then a.len else bs.length)
  if a.senders.contains m || (a.final && (red || m = s.rgMemb g)) then (s, true)
  else if !s.areaReady ls then (s, false)
  else if s.eccBad (if a.final then .load else if red || fresh then .store else .atomic) ls then (s.cancelJobN (s.rgJob g), true)
  else
    let old := s.readLocs ls
    if a.final then ((s.setRg g (r.putChunk { a with senders := m :: a.senders })).sendResult g op m a old, true)
    else
      let ms := m :: a.senders
      let a' : AreaChunk := { a with
        senders := if red then List.range (s.rgMembers g) else ms, len := bs.length, final := red || ms.length == s.rgMembers g }
      let new := if red then bs else addChunk op (if fresh then [] else old) bs
      let s1 := (s.setRg g (r.putChunk a')).perform ls new
      (if a'.final then (((s.others g).foldl (fun s m => s.sendResult g op m a' new) s1).deliver g round c new true none).1 else s1,
        true)

/-- The results that this member holds as owner and could not write to its own DST yet (R433). -/
def State.deliverOwn (s : State) (seq : Nat) : State :=
  match s.rafts.find? (fun x => x.seq == seq) with
  | none => s
  | some x =>
    ((s.rg x.group).area.filter (fun a => a.final && a.round == x.round && !x.got.contains a.chunk)).foldl (fun s a =>
      let ls := s.areaLocs x.group a.round a.chunk a.len
      if !s.areaReady ls then s
      else if s.eccBad .load ls then s.cancelJobN (s.rgJob x.group)
      else (s.deliver x.group a.round a.chunk (s.readLocs ls) true none).1) s

/-- A frame whose timestamp is off, taken by a reduction of this member: SLOTSKEW in its record where it runs here, else
counted at the port (R268, R436). -/
def State.raftSkew (s : State) (f : Frame) : State :=
  match s.rafts.find? (fun x => x.group == f.group && x.round == f.round) with
  | some x =>
    let w := ((s.roundTime f.group f.round).map (·.2)).getD 0
    if s.skewedFrame f w then s.mapRun x.queue x.seq (fun r => { r with flags := r.flags ||| 16 }) else s
  | none => if s.skewedFrame f (Config.skewWidth f.srcm) then
      s.setPort f.port { s.port f.port with skew := min 65535 ((s.port f.port).skew + 1) } else s

/-- The bit of this member's child index at the leaf switch of a group's path (R430). -/
def State.childBit (s : State) (g : Nat) : Nat := 2 ^ ((s.pathByte g 23).toNat % 64)

/-- A chunk of a reduction run by the endpoint method at this member: its contribution or, where it holds it, the chunk's
result, for the chunk's owner (R430, R433). -/
def State.endpointChunk (s : State) (x : Raft) (r : Rec) (c : Nat) (bs : List Byte) : State × Bool :=
  let red := x.got.contains c
  let owner := c % s.rgMembers x.group
  if owner = s.rgMemb x.group then s.contribute x.group x.op x.round c owner red bs
  else
    let f := s.raftFrameOf x r c bs
    (s.sendFor x.queue x.seq (streamKey (s.rgJob x.group) false owner)
      { f with ep := true, red := red, dstm := owner, mbmap := if red then 0 else s.childBit x.group }, true)

/-- A chunk of a reduction contributed to switch aggregation (R421, R430). -/
def State.switchChunk (s : State) (x : Raft) (r : Rec) (c : Nat) (bs : List Byte) : State :=
  let f := s.raftFrameOf x r c bs
  s.sendFor x.queue x.seq (streamKey (s.rgJob x.group) true (switchId x.group 0))
    { f with dstm := 0xFFFF, mbmap := s.childBit x.group }

/-- A chunk of a reduction read and sent: its contribution, or the result where the endpoint method meets one here. It
waits, with a second component false, where its bytes cannot be read yet (R126, R385); a check that fails by now, or an
uncorrectable error, faults the record (R18, R249, R433). -/
def State.sendChunk (s : State) (seq c : Nat) : State × Bool :=
  match s.rafts.find? (fun x => x.seq == seq) with
  | none => (s, true)
  | some x =>
    match s.raftParty x with
    | none => (s, true)
    | some (r, p) =>
      let a := x.at (if x.endpoint && x.got.contains c then x.dst else x.src) c
      match s.locate p .load 1 a (chunkBytes x.op) with
      | (s1, .ok ls _) =>
        if s1.eccBad .load ls then (s1.failRun x.queue seq 0x2C 0 a, true)
        else
          let bs := s1.readLocs ls
          if x.endpoint then s1.endpointChunk x r c bs else (s1.switchChunk x r c bs, true)
      | (s1, .fault e) => (s1.failRun x.queue seq 0x2B e.check e.addr, true)
      | (s1, _) => (s1, false)

/-- The chunks of a reduction that are still to be sent are tried; those that cannot be read yet stay (R433). -/
def State.sendChunks (s : State) (seq : Nat) : State :=
  let todo := ((s.rafts.find? (fun x => x.seq == seq)).map (·.todo)).getD []
  let y := todo.foldl (fun (y : State × List Nat) c =>
    match y.1.sendChunk seq c with
    | (t, true) => (t, y.2)
    | (t, false) => (t, y.2 ++ [c])) (s, [])
  { y.1 with rafts := y.1.rafts.map (fun x => if x.seq == seq then { x with todo := y.2 } else x) }

/-- Reductions that have been set up and not started start with the MODE their member holds (R413, R434). -/
def State.startRafts (s : State) : State :=
  (s.rafts.filter (fun x => x.round = 0)).foldl (fun s x =>
    let r := s.rg x.group
    let ep : Bool := r.mode == 1 || s.rgMembers x.group == 1
    let s1 := (s.setRg x.group { r with round := (r.round + 1) % 2 ^ 32 }).setRaft
      { x with round := (r.round + 1) % 2 ^ 32, endpoint := ep, todo := List.range x.nchunk }
    s1.sendChunks x.seq) s

/-- MODE has become 1 under running reductions: from the lowest chunk not received they go on by the endpoint method, and wait
for no switch any more (R434; log 131). -/
def State.raftsToEndpoint (s : State) (g : Nat) : State :=
  (s.rafts.filter (fun x => x.group = g && !x.endpoint && x.round ≠ 0)).foldl (fun s x =>
    let from0 := ((List.range x.nchunk).find? (fun c => !x.got.contains c)).getD x.nchunk
    let k := streamKey (s.rgJob g) true (switchId g 0)
    ((s.setRaft { x with endpoint := true, todo := (List.range x.nchunk).filter (fun c => from0 ≤ c) }).mapRun x.queue x.seq
      (fun r => { r with waits := r.waits.filter (fun w => w.1 ≠ k) })).sendChunks x.seq) s

/-! ### Notices and paths (R429, R434) -/

/-- A NOTE sent to a member. Beside it go the paths of all members, of which member 0 tells, or this member's own (R429,
R434; log 25). -/
def State.sendNote (s : State) (g op m : Nat) : State :=
  let j := s.rgJob g
  let f := s.frameOf j 5 op
  s.sendFrame (streamKey j false m) { f with
    group := g, dstm := m, srcm := s.rgMemb g, nmemb := s.rgMembers g - 1,
    paths := if s.rgMemb g = 0 then (List.range (s.rgMembers g)).map (s.memberPath g) else [(s.rg g).path.code],
    payload := bytesOf 8 (s.rg g).epoch ++ bytesOf 8 0 } true

/-- A HOLD is answered once no reduction of the group runs at this member: member 0 notes its own answer (R434). -/
def State.answerHold (s : State) (g : Nat) : State :=
  let r := s.rg g
  let me := s.rgMemb g
  if !r.hold || r.answered.contains me || s.rafts.any (fun x => x.group == g) then s
  else
    let s1 := s.setRg g { r with answered := me :: r.answered }
    if me = 0 then s1 else s1.sendNote g 2 0

/-- What a NOTE of member 0 does at this member (R434). -/
def State.applyNote (s : State) (g op : Nat) : State :=
  let r := s.rg g
  match op with
  | 0 => (s.setRg g { r with mode := 1, hold := false, answered := [] }).raftsToEndpoint g
  | 1 => (s.setRg g { r with mode := 0, hold := false, answered := [] }).resend (streamKey (s.rgJob g) true (switchId g 0))
  | _ => (s.setRg g { r with hold := true, answered := [] }).answerHold g

/-- Member 0 sends a NOTE to every member, itself included, and advances the epoch (R434). -/
def State.noteAll (s : State) (g op : Nat) : State :=
  let r := s.rg g
  let s1 := s.setRg g { r with epoch := (r.epoch + 1) % 2 ^ 64 }
  ((s1.others g).foldl (fun s m => s.sendNote g op m) s1).applyNote g op

/-- Member 0 ends a HOLD that every member has answered: with MODE 0 while every path is ATTESTED, else with MODE 1
(R434). -/
def State.settleHold (s : State) (g : Nat) : State :=
  let r := s.rg g
  if s.rgMemb g = 0 ∧ r.hold ∧ (List.range (s.rgMembers g)).all r.answered.contains then
    s.noteAll g (if s.allAttested g then 1 else 0)
  else s

/-- A path of the group has changed as member 0 knows them: it tells every member by a NOTE, HOLD once every path is
ATTESTED, else MODE 1 (R429, R434). -/
def State.announce (s : State) (g : Nat) : State :=
  if s.allAttested g then (s.noteAll g 2).settleHold g else s.noteAll g 0

/-- A change of this member's path; it is told on vector 1, and member 0 answers with a NOTE; another member tells member 0 of
it (R429, R434, R459; log 25). -/
def State.setPath (s : State) (g : Nat) (p : PathState) : State :=
  let r := s.rg g
  if r.path = p then s
  else
    let s1 := (s.setRg g { r with path := p }).irq 0 1
    if s.rgMemb g ≠ 0 then s1.sendNote g (if p = .attested then 1 else 0) 0 else s1.announce g

/-- Exchanges and sessions of a group dropped. -/
def State.dropExchanges (s : State) (g : Nat) : State := { s with exchanges := s.exchanges.filter (fun x => x.group ≠ g) }

/-- A path begins again: PENDING, with no switch accepted and no exchange or session (R429). -/
def State.restart (s : State) (g : Nat) : State :=
  let s1 := s.setPath g .pending
  (s1.setRg g { s1.rg g with accepted := [], keyed := [], tagFails := 0 }).dropExchanges g

/-- A group's descriptors examined: a malformed one makes the path REFUSED; one that is not there is asked for, and the path
stays as it is (R412, R429, R430). -/
def State.examine (s : State) (g : Nat) : State :=
  if (s.pathSwitches g).isNone then s.setPath g .refused
  else
    match s.readTrust (s.rgJob g) with
    | .digests _ => s
    | .bad => s.setPath g .refused
    | .wait (some p) => s.request (s.rgJob g) p 4
    | .wait none => s

/-- A group set up: its path begins PENDING, or REFUSED with a malformed descriptor, and it reduces at its endpoints
until its path is ATTESTED. RGCNT goes on (R412, R413, R429, R430). -/
def State.setupGroup (s : State) (g : Nat) : State :=
  let r := s.rg g
  let s1 := (s.setRg g { RGroup.init with swrec := r.swrec, eprec := r.eprec }).dropExchanges g
  if !s.rgEn g then s1
  else (s1.setRg g { s1.rg g with mode := 1, path := .pending, base := Config.reductionArea g }).examine g

/-- A descriptor written, or a route changed, for a group in use: its path is examined again (R429). -/
def State.reroute (s : State) (g : Nat) : State :=
  if !s.rgEn g then s else (s.restart g).examine g

/-- A new switch-trust descriptor of a job: the paths of its groups are examined again (R412, R429). -/
def State.newTrust (s : State) (j : Nat) : State :=
  ((List.range 64).filter (fun g => s.rgEn g && s.rgJob g == j)).foldl State.reroute s

/-- The port toward the paths has changed, or there is none any more: ATTESTED paths are PENDING again, and so are REFUSED
ones with the new route (R429). -/
def State.newRoute (s : State) (was : Option Nat) : State :=
  if s.txPort = was then s
  else
    ((List.range 64).filter (fun g => s.rgEn g && ((s.rg g).path == .attested || ((s.rg g).path == .refused && s.txPort.isSome)))).foldl
      State.reroute s

/-! ### Receiving (R422, R423) -/

/-- What becomes of a frame before its kind is looked at. -/
inductive Recv where
  | drop (s : State)
  | take (s : State) (job key : Nat)

/-- The job of the receiving package that JTAG and KEY match (R422). -/
def State.frameJob (s : State) (f : Frame) : Option Nat :=
  (List.range 256).find? (fun j => s.jobValid j && s.jobTag j == f.jtag && s.jobSkey j == f.key)

/-- A frame that fails its tag: discarded and counted; the sixteenth in a row from a switch of the path ends the
path's trust (R423, R429). -/
def State.tagFailed (s : State) (f : Frame) : State :=
  let x := s.port f.port
  let s1 := s.setPort f.port { x with tagerr := min 65535 (x.tagerr + 1) }
  if !f.sw || 64 ≤ f.group then s1
  else
    let r := s1.rg f.group
    let s2 := s1.setRg f.group { r with tagFails := r.tagFails + 1 }
    if 15 ≤ r.tagFails ∧ r.path = .attested then s2.restart f.group else s2

/-- The checks of a received frame, and its acknowledgement taken in (R422 to R424). -/
def State.receive (s : State) (f : Frame) (kind : Nat) : Recv :=
  if !frameSound f || f.kind ≠ kind then .drop (s.grow gFrameDrop 1)
  else
    match s.frameJob f with
    | none => .drop (s.grow gFrameDrop 1)
    | some j =>
      if !f.tagOk then .drop (s.tagFailed f)
      else
        let k := streamKey j f.sw f.srcm
        let s1 := if f.sw && f.group < 64 then s.setRg f.group { s.rg f.group with tagFails := 0 } else s
        .take ((s1.ackIn k f.acked).pump k) j k

/-- A frame that no record of this member consumes and whose timestamp is off: counted at its port (R436). -/
def State.countSkew (s : State) (f : Frame) : State :=
  if s.skewedFrame f (Config.skewWidth f.srcm) then
    s.setPort f.port { s.port f.port with skew := min 65535 ((s.port f.port).skew + 1) } else s

/-- The party of a frame at its home: the job's own pages (R269, R304). -/
def State.remoteParty (s : State) (j : Nat) : Party :=
  { level := .unit, core := 80, job := j, key := s.jobKey j,
    xtab := [(0, 0xC0010000000000000000000000000000)], dom := jobDom j, sup := none, race := none, engine := true,
    task := false }

/-- What a NOTE of this group's member 0, or to it, does once it is applied (R429, R434). -/
def State.takeNote (s : State) (f : Frame) : State :=
  let g := f.group
  let r := s.rg g
  if f.srcm = 0 then
    (s.setRg g { r with
      epoch := ofBytes (f.payload.take 8)
      peers := f.paths.zipIdx.foldl (fun m x => SMap.set m 0 x.2 x.1) r.peers }).applyNote g f.op
  else if s.rgMemb g ≠ 0 then s
  else if f.op = 2 then
    (s.setRg g { r with answered := if r.answered.contains f.srcm then r.answered else f.srcm :: r.answered }).settleHold g
  else
    let p := f.paths.headD 0
    if SMap.get r.peers 0 f.srcm = p then s else (s.setRg g { r with peers := SMap.set r.peers 0 f.srcm p }).announce g

/-- A NOTE put among those that wait, in the order of their numbers (R434). -/
def putNote (f : Frame) : List Frame → List Frame
  | [] => [f]
  | x :: xs => if f.seq < x.seq then f :: x :: xs else x :: putNote f xs

/-- A frame of a stream has been applied; NOTE frames below which every frame has arrived are applied in the order of their
numbers (R424, R434). -/
def State.applied (s : State) (k seq : Nat) : State :=
  let s1 := s.mark k seq
  let x := s1.stream k
  (x.notes.filter (fun f => f.seq ≤ x.acked)).foldl State.takeNote
    (s1.setStream k { x with notes := x.notes.filter (fun f => x.acked < f.seq) })

/-- A check that fails for a part of a QPW or QPWR, told to its sender beside an acknowledgement (R269; log 26). -/
def State.refuseData (s : State) (f : Frame) (j k check : Nat) (addr : Word) : State :=
  let a := s.frameOf j 4 0
  (s.sendFrame k { a with dstm := f.srcm, seq := f.seq, nack := some (check, addr.toNat) } false).applied k f.seq

/-- The party of a barrier that a QPW or QPWR names at its destination: pointers by the job's shared map (R269). -/
def State.rbarParty (s : State) (j : Nat) : Party := { s.remoteParty j with xtab := s.sharedMap j }

/-- A frame held at its port by a freeze, once (R385). -/
def State.holdFrame (s : State) (f : Frame) : State :=
  if s.heldFrames.contains f then s else { s with heldFrames := s.heldFrames ++ [f] }

/-- DATA_FRAME: a part of a QPW or QPWR is applied once, and subtracted from the barrier named here (R269, R323, R424). One
whose page is not there is not applied: its sender sends it again. One that a freeze holds waits at its port (R385). A failing
check goes back to the sender. -/
def execDataFrame (f : Frame) (s : State) : Out :=
  match s.receive f 0 with
  | .drop s1 => .next s1
  | .take s1 j k =>
    if s1.stale k f.seq then .next s1
    else if f.payload.isEmpty then .next (s1.applied k f.seq)
    else
      let p := s1.remoteParty j
      match s1.locate p .store 1 (toWord f.addr) f.payload.length with
      | (s2, .ok ls ts) =>
        match (if f.rbar = 0 then .ok s2 .unit else s2.mapReady j).andThen fun s2 _ => s2.barCheck (s1.rbarParty j) (toWord f.rbar) with
        | .wait s3 _ => .next s3
        | .fault x c a => .next (s2.refuseData f j k (if x = 0x2C then 8 else c) a)
        | .ok s3 (some z) => .next (if z then (s2.keepPages s3).holdFrame f else s2.keepPages s3)
        | .ok s3 none =>
        if f.op ≠ 0 ∧ ls.any s3.poisoned then
          .next (s3.refuseData f j k 8 (toWord (f.addr + ls.findIdx s3.poisoned)))
        else
        let s3 := s3.clearTags ts
        let old := s3.readLocs ls
        let bs := (List.range ((f.payload.length + 15) / 16)).flatMap (fun i =>
          ropPart f.op i ((old.drop (16 * i)).take 16) ((f.payload.drop (16 * i)).take 16))
        let s4 := s3.writeFor p ls bs
        let s5 := (s4.countSkew f).applied k f.seq
        .next (if f.rbar = 0 then s5 else (s5.barSub (s1.rbarParty j) (toWord f.rbar) f.payload.length).1)
      | (s2, .fault e) =>
        let b := match s1.operand p .store [0] (toWord f.addr) f.payload.length with
          | .fault _ c a => (c, a)
          | _ => (e.check, e.addr)
        .next (s2.refuseData f j k b.1 b.2)
      | (s2, .held true _) => .next (s2.holdFrame f)
      | (s2, _) => .next s2

/-- RAFT_FRAME: a contribution or result for an owner, or a result for this member, which as the chunk's owner keeps it for
members that still contribute (R433, R434). One that a freeze holds waits at its port (R385). -/
def execRaftFrame (f : Frame) (s : State) : Out :=
  match s.receive f 1 with
  | .drop s1 => .next s1
  | .take s1 j k =>
    if s1.stale k f.seq then .next s1
    else if !s1.rgEn f.group || s1.rgJob f.group ≠ j then .next (s1.grow gFrameDrop 1)
    else if f.ep then
      match (s1.raftSkew f).contribute f.group f.op f.round f.chunk f.srcm f.red f.payload with
      | (s2, true) => .next (s2.applied k f.seq)
      | (_, false) => .next (if s1.areaFrozen (s1.areaLocs f.group f.round f.chunk f.payload.length) then s1.holdFrame f else s1)
    else if f.red then
      let mine : Bool := f.chunk % s1.rgMembers f.group == s1.rgMemb f.group && !((s1.rg f.group).chunk f.round f.chunk).final
      let ls := s1.areaLocs f.group f.round f.chunk f.payload.length
      if mine && !s1.areaReady ls then .next (if s1.areaFrozen ls then s1.holdFrame f else s1)
      else match (if s1.takes f.group f.round f.chunk then s1 else s1.countSkew f).deliver f.group f.round f.chunk f.payload (!f.sw) (some f) with
      | (s2, true) =>
        let r := s2.rg f.group
        let s3 := if mine then
            (s2.setRg f.group (r.putChunk ⟨f.round, f.chunk, [], f.payload.length, true⟩)).perform ls f.payload else s2
        .next (s3.applied k f.seq)
      | (s2, false) => .next (if s1.resultFrozen f.group f.round f.chunk f.payload.length then s2.holdFrame f else s2)
    else .next (s1.applied k f.seq)

/-! ### Remote atomics (R320) -/

/-- A remote AMO, CAS or RED sent for a unit. `t` is 0 AMO, 1 CAS, 2 RED (R422). -/
def State.sendAtomic (s : State) (u j member addr t aop w operand expected : Nat) (awaits : Bool) : State :=
  let k := streamKey j false member
  let f := s.frameOf j 2 (16 * t + aop)
  let s1 := s.sendFrame k { f with dstm := member, chunk := w, addr := addr, payload := bytesOf 8 operand ++ bytesOf 8 expected } true
  { s1 with remotes := s1.remotes ++ [⟨u, awaits, k, (s1.stream k).seq, none, none⟩] }

/-- Replies that the port holds for the source of a stream, over all jobs (R320). -/
def State.cachedReplies (s : State) (k : Nat) : Nat :=
  s.streams.foldl (fun n x => if x.1 % 131072 = k % 131072 then n + x.2.replies.length else n) 0

/-- AREQ: answered from the reply cache, or performed at most once (R320). -/
def execAreq (f : Frame) (s : State) : Out :=
  match s.receive f 2 with
  | .drop s1 => .next s1
  | .take s1 j k =>
    let x := s1.stream k
    let reply (s : State) (op old : Nat) : State :=
      let a := s.frameOf j 3 op
      s.sendFrame k { a with dstm := f.srcm, seq := f.seq, payload := bytesOf 8 old } false
    match x.replies.find? (fun r => r.1 == f.seq) with
    | some (_, old) => .next (reply s1 0 old)
    | none =>
      if f.seq ≤ x.freed || s1.stale k f.seq then .next s1
      else if 256 ≤ s1.cachedReplies k then .next (reply s1 1 0)
      else
        let w := f.chunk
        let p := s1.remoteParty j
        match s1.locate p .atomic w (toWord f.addr) w with
        | (s2, .ok ls ts) =>
          let s3 := s2.clearTags ts
          if s3.eccBad .atomic ls then .next (s3.cancelJobN j)
          else
            let old := ofBytes (s3.readLocs ls)
            let v := areqValue f.op w old (ofBytes (f.payload.take 8)) (ofBytes (f.payload.drop 8))
            let s4 := s3.perform ls (bytesOf w v)
            let y := s4.stream k
            let kept := if f.op / 16 = 2 then 0 else old
            .next (reply ((s4.setStream k { y with replies := (f.seq, kept) :: y.replies }).applied k f.seq) 0 kept)
        | (s2, .held true _) => .next (s2.holdFrame f)
        | (s2, _) => .next s2

/-- The end of a freeze: the steps of R387, and then the frames that fabric ports hold are received in the order in which they
arrived. -/
def State.thaw (s : State) : State :=
  if !s.fz then s
  else
    let s1 := s.freezeOff
    s1.heldFrames.foldl (fun (s : State) f =>
      match (if f.kind = 0 then execDataFrame f s else if f.kind = 1 then execRaftFrame f s else execAreq f s) with
      | .next s' => s'
      | _ => s) { s1 with heldFrames := [] }

/-- FREEZE_CLEAR. -/
def execFreezeClear (s : State) : Out := .next s.thaw

/-- AREP: the reply completes the remote atomic, or asks for a retry (R320). -/
def execArep (f : Frame) (s : State) : Out :=
  match s.receive f 3 with
  | .drop s1 => .next s1
  | .take s1 _ k =>
    let mine (r : Remote) : Bool := r.stream == k && r.seq == f.seq
    if f.op = 1 then
      .next { s1 with remotes := s1.remotes.map (fun r => if mine r then { r with busyAt := some s1.tick } else r) }
    else
      let x := s1.stream k
      let s2 := s1.setStream k { x with kept := x.kept.filter (fun y => y.frame.seq ≠ f.seq) }
      .next { s2 with remotes := s2.remotes.filterMap (fun r =>
        if !mine r then some r else if r.awaits then some { r with reply := some (ofBytes f.payload), busyAt := none } else none) }

/-- ACK: ACKED has been taken in; one that tells of a failed check faults the record that sent the part (R269, R424;
log 26). -/
def execAck (f : Frame) (s : State) : Out :=
  match s.receive f 4 with
  | .drop s1 => .next s1
  | .take s1 _ k =>
    match f.nack with
    | none => .next s1
    | some (check, addr) =>
      let all := s1.engqs.flatMap (fun q => q.2.run.flatMap (fun r =>
        (r.waits.filter (fun w => w.1 = k && f.seq ≤ w.2)).map (fun w => (q.1, r.seq, w.2))))
      match all.foldl (fun (b : Option (Nat × Nat × Nat)) x => match b with
          | some y => if x.2.2 < y.2.2 then some x else some y
          | none => some x) none with
      | some (q, n, _) => .next (s1.failRun q n 0x2B check (toWord addr))
      | none => .next s1

/-- A NOTE of a group of this package, by its OP, or nothing: it is applied once every frame of a lower number has arrived
(R434). -/
def State.note (s : State) (f : Frame) (op : Nat) : State :=
  match s.receive f 5 with
  | .drop s1 => s1
  | .take s1 j k =>
    if s1.stale k f.seq then s1
    else if !s1.rgEn f.group || s1.rgJob f.group ≠ j || f.op ≠ op then s1.grow gFrameDrop 1
    else
      let x := s1.stream k
      (s1.setStream k { x with notes := putNote f x.notes }).applied k f.seq

/-- NOTE_MODE_1. -/
def execNoteMode1 (f : Frame) (s : State) : Out := .next (s.note f 0)
/-- NOTE_MODE_0. -/
def execNoteMode0 (f : Frame) (s : State) : Out := .next (s.note f 1)
/-- NOTE_HOLD. -/
def execNoteHold (f : Frame) (s : State) : Out := .next (s.note f 2)

/-! ### Timers and failures (R320, R424, R437) -/

/-- RETRANSMIT_TIMEOUT: after 8 µs without acknowledgement. -/
def execRetransmitTimeout (stream : Nat) (s : State) : Out :=
  match (s.stream stream).kept with
  | f :: _ => if 11200 ≤ s.tick - f.sent then .next (s.resend stream) else .next s
  | [] => .next s

/-- AREQ_BUSY_RETRY: one microsecond after a BUSY reply, with the same number. -/
def execAreqBusyRetry (stream seq : Nat) (s : State) : Out :=
  let due (r : Remote) : Bool := r.stream == stream && r.seq == seq && (match r.busyAt with
    | some t => 1400 ≤ s.tick - t
    | none => false)
  if s.remotes.any due ∧ s.portReady then
    .next { s with
      remotes := s.remotes.map (fun r => if due r then { r with busyAt := none } else r)
      out := s.out ++ ((s.stream stream).kept.filter (fun f => f.frame.seq = seq)).map (·.frame) }
  else .next s

/-- ACK_TIMER: 2 µs after ACKED changed without a frame to carry it. -/
def execAckTimer (stream : Nat) (s : State) : Out :=
  match (s.stream stream).ackDue with
  | some t => if 2800 ≤ s.tick - t then
      let f := s.frameOf (streamJob stream) 4 0
      .next (s.sendFrame stream { f with dstm := stream % 65536 } false) else .next s
  | none => .next s

/-- Whether a stream's port has been down for 10 ms (R437). -/
def State.portLost (s : State) (x : Stream) : Bool :=
  match x.port with
  | some p => (match (s.port p).downAt with
    | some t => 14000000 ≤ s.tick - t
    | none => false)
  | none => false

/-- The streams through a failure: with a port those that leave by it, else the one that is not acknowledged (R437;
log 55). -/
def State.failedStreams (s : State) (stream : Nat) : PathCause → List Nat
  | .portDown => (s.streams.filter (fun x => x.2.port == (s.stream stream).port)).map (·.1)
  | .unacknowledged => [stream]

/-- The jobs with a stream through a failure or, with no port left, a reduction path (R437). -/
def State.failedJobs (s : State) (ks : List Nat) (cause : PathCause) : List Nat :=
  (List.range 256).filter (fun j => ks.any (fun k => streamJob k == j) ||
    (cause == .portDown && s.txPort.isNone && (s.jobGroup j).isSome))

/-- PATH_FAIL: the failure is told on vector 1, the jobs with a stream or a reduction path through it are cancelled, and
their reply caches and windows for the path are dropped (R437). -/
def execPathFail (stream : Nat) (cause : PathCause) (s : State) : Out :=
  let x := s.stream stream
  let due : Bool := match cause with
    | .portDown => s.portLost x
    | .unacknowledged => !s.blocked stream && (match x.unackedSince with
      | some t => 70000000 ≤ s.tick - t
      | none => false)
  if !due then .next s
  else
    let ks := s.failedStreams stream cause
    let s1 := (s.failedJobs ks cause).foldl State.cancelJobN (s.irq 0 1)
    .next { s1 with streams := s1.streams.filter (fun x => !ks.contains x.1), txq := s1.txq.filter (fun x => !ks.contains x.1) }

/-! ### Ports (R420, R425) -/

/-- FPCFG of a port. -/
def State.fpcfg (s : State) (p : Nat) : Word := s.raw (0xB00000 + 0x100 * p)

/-- A write of FPCFG: WIDTH 11 is ignored. An enabled port that is down, or narrower than it may be, retrains at its
widest permitted width; a disabled one goes down. -/
def State.fpcfgPut (s : State) (p : Nat) (v : Word) : State :=
  let old := (s.fpcfg p).toNat
  let w := if bitsOf v.toNat 62 61 = 3 then bitsOf old 62 61 else bitsOf v.toNat 62 61
  let v' := setBits (setBits v.toNat 59 48 0) 62 61 w
  let s1 := s.setRaw (0xB00000 + 0x100 * p) (toWord v')
  let x := s1.port p
  if !bitOf v' 63 then
    ((s1.setPort p { x with lanes := 3, retrain := false, downAt := x.downAt.or (some s.tick) }).newRoute s.txPort).resume
  else if x.lanes.toNat ≠ w then (s1.setPort p { x with retrain := true, goal := BitVec.ofNat 2 w }).newRoute s.txPort
  else s1.newRoute s.txPort

/-- FPCFG_WRITE. -/
def execFpcfgWrite (port : Nat) (value : Word) (s : State) : Out :=
  if port < 12 then .next (s.fpcfgPut port value) else .next s

/-- PORT_SHED (R425): a running port begins to retrain narrower, for errors only with AUTOSHED. -/
def execPortShed (port : Nat) (cause : ShedCause) (s : State) : Out :=
  let x := s.port port
  if 12 ≤ port ∨ !(s.fpcfg port).getLsbD 63 ∨ x.lanes = 3 ∨ x.retrain ∨ (cause = .errors ∧ !(s.fpcfg port).getLsbD 60) then .next s
  else .next ((s.shed port).grow (gShed port) 1)

/-- PORT_RETRAIN_COMPLETE: the port resumes at its width and unacknowledged frames go first; one that fails tries the
next narrower width, and at two lanes goes down (R424, R425). -/
def execPortRetrainComplete (port : Nat) (trained : Bool) (s : State) : Out :=
  let x := s.port port
  if !x.retrain then .next s
  else if trained then
    .next (((s.setPort port { x with retrain := false, lanes := x.goal, downAt := none }).newRoute s.txPort).resume)
  else if x.goal.toNat < 2 then .next (s.setPort port { x with goal := x.goal + 1 })
  else
    .next (((s.setPort port { x with retrain := false, lanes := 3, downAt := x.downAt.or (some s.tick) }).newRoute s.txPort).resume)

/-! ### Attestation (R426 to R429) -/

/-- The SPDM requests of an exchange, in order: GET_VERSION, GET_CAPABILITIES, NEGOTIATE_ALGORITHMS, GET_DIGESTS,
GET_CERTIFICATE, CHALLENGE, GET_MEASUREMENTS, KEY_EXCHANGE and FINISH (R427; their codes are SPDM's own, log 130). -/
def spdmCodes : List Nat := [0x84, 0xE1, 0xE3, 0x81, 0x82, 0x83, 0xE0, 0xE4, 0xE5]

/-- A management frame sent to a switch of a group's path, with a new request id (R426). -/
def State.sendMgmt (s : State) (g sw kind code : Nat) (body : List Byte) : State :=
  { s with
    mgmt := s.mgmt ++ [⟨s.txPort.getD 0, ofBytes ((List.range 6).map (fun i => s.pathByte g (16 + 16 * sw + i))), kind,
      s.pathField g sw 6 1, s.rid, code, body⟩]
    rid := (s.rid + 1) % 2 ^ 32 }

/-- A request of an exchange sent: its answer is awaited from now (R426, R427). -/
def State.sendStep (s : State) (x : Exchange) : State :=
  let s1 := s.sendMgmt x.group x.sw 0 (spdmCodes.getD x.step 0) []
  { s1 with exchanges := s.exchanges.filter (fun y => !(y.group == x.group && y.sw == x.sw)) ++
      [{ x with sent := s.tick, rid := s.rid }] }

/-- SWITCH_ATTEST: verified firmware has an exchange with a switch of a PENDING path start, with at most 64 at once (R14,
R427). -/
def execSwitchAttest (group sw : Nat) (s : State) : Out :=
  if !s.rgEn group ∨ (s.rg group).path ≠ .pending ∨ s.boot.code ≠ 2 then .next s
  else
    let s1 := s.examine group
    let r := s1.rg group
    match s1.pathSwitches group with
    | none => .next s1
    | some n =>
      if r.path ≠ .pending ∨ !s1.trustOk (s1.rgJob group) ∨ n ≤ sw ∨ r.accepted.contains sw ∨
          s1.exchanges.any (fun x => x.group == group && x.sw == sw) ∨
          64 ≤ (s1.exchanges.filter (fun x => !x.session)).length then .next s1
      else .next (s1.sendStep ⟨group, sw, false, 0, [], 0, 0⟩)

/-- The exchange with a switch that has no session yet. -/
def State.exchange (s : State) (g sw : Nat) (session : Bool) : Option Exchange :=
  s.exchanges.find? (fun x => x.group == g && x.sw == sw && x.session == session)

/-- A switch that is not accepted: its exchange ends and the path is REFUSED (R412, R429). -/
def State.refuse (s : State) (g sw : Nat) : State :=
  { s with exchanges := s.exchanges.filter (fun x => !(x.group == g && x.sw == sw)) }.setPath g .refused

/-- The 64 bytes of a key delivery to a switch of a group's path (R428; which port is the parent's, log 130). -/
def State.keyPayload (s : State) (g sw : Nat) : List Byte :=
  let j := s.rgJob g
  let root : Bool := (s.pathSwitches g).all (fun n => n ≤ sw + 1)
  s.sessionKey (s.jobSkey j) ++ bytesOf 2 (s.jobTag j) ++ bytesOf 1 (s.jobSkey j) ++ bytesOf 1 g ++
    bytesOf 2 (switchId g sw) ++ bytesOf 2 (if root then 0xFFFF else s.pathField g (sw + 1) 7 1) ++
    bytesOf 8 (s.pathField g sw 8 8) ++ bytesOf 2 (if root then 0xFFFF else s.pathField g (sw + 1) 6 1) ++ bytesOf 30 0

/-- A switch accepted: its session stands, and the key is sent in it (R412, R427, R428). -/
def State.accept (s : State) (x : Exchange) : State :=
  let r := s.rg x.group
  let s1 := s.sendMgmt x.group x.sw 1 0xFE (s.keyPayload x.group x.sw)
  let s2 := { s1 with exchanges := s.exchanges.map (fun (y : Exchange) =>
    if y.group == x.group && y.sw == x.sw then { y with session := true, sent := s.tick, rid := s.rid } else y) }
  s2.setRg x.group { r with accepted := if r.accepted.contains x.sw then r.accepted else x.sw :: r.accepted }

/-- SPDM_RESPONSE: the answer to the exchange's request, with its contents, and whether it serves: the switch offers the
algorithm sets of R426, its signature verifies under the leaf key of the slot-0 chain, FINISH succeeds. The certificate
digest and the measurement blocks make the measurement record, whose SM3 digest must be one of the job's. One that does not
serve ends the exchange; the last one accepts the switch (R412, R426, R427). -/
def execSpdmResponse (group sw : Nat) (verified : Bool) (body : List Byte) (s : State) : Out :=
  match s.exchange group sw false with
  | none => .next s
  | some x =>
    let n := spdmCodes.getD x.step 0
    if !verified ∨ n = 0x81 ∧ body.length ≠ 32 then .next (s.refuse group sw)
    else if n = 0xE5 then .next (s.accept x)
    else if n = 0x81 then .next (s.sendStep { x with step := x.step + 1, record := body })
    else if n = 0xE0 then
      (match s.readTrust (s.rgJob group) with
      | .digests ds =>
        if ds.contains (sm3 (x.record ++ body)) then .next (s.sendStep { x with step := x.step + 1, record := x.record ++ body })
        else .next (s.refuse group sw)
      | .bad => .next (s.refuse group sw)
      | .wait (some p) => .next (s.request (s.rgJob group) p 4)
      | .wait none => .next s)
    else .next (s.sendStep { x with step := x.step + 1 })

/-- SPDM_TIMEOUT: no answer within 200 ms. -/
def execSpdmTimeout (group sw : Nat) (s : State) : Out :=
  match s.exchanges.find? (fun x => x.group == group && x.sw == sw && !(s.rg group).keyed.contains sw) with
  | some x => if 280000000 ≤ s.tick - x.sent then .next (s.refuse group sw) else .next s
  | none => .next s

/-- KEY_DELIVERY_RESPONSE: with every switch of the path keyed the path is ATTESTED (R428, R429). -/
def execKeyDeliveryResponse (group sw : Nat) (accepted : Bool) (s : State) : Out :=
  match s.exchange group sw true with
  | none => .next s
  | some _ =>
    if !accepted then .next (s.refuse group sw)
    else
      let r := s.rg group
      let s1 := s.setRg group { r with keyed := if r.keyed.contains sw then r.keyed else sw :: r.keyed }
      let all : Bool := match s1.pathSwitches group with
        | some n => (List.range n).all (s1.rg group).keyed.contains
        | none => false
      if all ∧ (s1.rg group).path = .pending then .next (s1.setPath group .attested) else .next s1

/-- SESSION_ENDED: the switch has no key any more, and an ATTESTED path is PENDING again (R428, R429). -/
def execSessionEnded (group sw : Nat) (s : State) : Out :=
  match s.exchange group sw true with
  | none => .next s
  | some _ =>
    let s1 := { s with exchanges := s.exchanges.filter (fun x => !(x.group == group && x.sw == sw)) }
    if (s1.rg group).path = .attested then .next (s1.restart group)
    else
      let r := s1.rg group
      .next (s1.setRg group { r with accepted := r.accepted.erase sw, keyed := r.keyed.erase sw })

/-! ### Completion of records (R246) -/

/-- Whether a running record has nothing left to wait for: its subtractions applied, its bank-fill bytes arrived, its frames
acknowledged, its chunks received (R246, R324). -/
def State.settled (s : State) (r : Rec) : Bool :=
  s.lanes.all (fun l => l.2.fills.all (fun (f : FillWait) => f.seq != some r.seq)) && r.subs.all (fun b => b.2 == 0) && r.waits.all (fun w => let x := s.stream w.1; (x.kept ++ x.queue).all (fun f => w.2 < f.frame.seq || f.frame.seq ≤ x.freed)) &&
    s.rafts.all (fun x => x.seq ≠ r.seq || x.got.length == x.nchunk && x.todo.isEmpty)

/-- A finished reduction counted and forgotten; a HOLD may now be answered (R413, R434). -/
def State.closeRaft (s : State) (x : Raft) : State :=
  let r := s.rg x.group
  let r' := if x.usedEp then { r with eprec := (r.eprec + 1) % 2 ^ 32 } else { r with swrec := (r.swrec + 1) % 2 ^ 32 }
  let s1 := { s with rafts := s.rafts.filter (fun y => y.seq ≠ x.seq) }
  (((s1.setRg x.group r').answerHold x.group).settleHold x.group)

/-- RECORD_COMPLETE: a settled record completes, those of queues 0 to 2 in pop order; an MTILE's format word leaves the
queue, and a chain goes on (R244, R246, R257, R258). -/
def execRecordComplete (queue pos : Nat) (s : State) : Out :=
  let e := s.engq queue
  match e.run[pos]? with
  | none => .next s
  | some r =>
    if (queue % 8 ≤ 2 ∧ pos ≠ 0) ∨ r.todo ∨ !s.settled r then .next ((s.deliverOwn r.seq).sendChunks r.seq)
    else
      let s1 := s.setEngq queue { e with run := e.run.eraseIdx pos }
      let s2 := match s1.rafts.find? (fun x => x.seq == r.seq) with
        | some x => s1.closeRaft x
        | none => s1
      let c := s2.core (queue / 8)
      let s3 := if bitsOf r.bits.toNat 127 122 = 2 then
          match c.fmtq.find? (fun w => w.1 == r.uid.getD 0) with
          | some w => s2.setCore (queue / 8) { c with fmtq := c.fmtq.erase w, fmtPopped := c.fmtPopped + 1 }
          | none => s2
        else s2
      let s4 := s3.finishRec r r.chain.isNone
      match r.chain with
      | none => .next s4
      | some _ =>
        let e4 := s4.engq queue
        let nx : Rec := { r with chained := true, link := true, desc := [], subs := [], flags := 0, waits := [],
                                 seq := s4.seq, prev := some (r.raw.getD r.bits), raw := none }
        .next { (s4.setEngq queue { e4 with recs := nx :: e4.recs }) with seq := s4.seq + 1 }

end Sys2Proof.Machine
end

