-- ==== Sys2Proof/Machine/Regs.lean ====
section
/-! DEFINITION. The BAR0 registers: what a read returns and clears, what a write does under the access codes of R5, for
the host's functions and for window 0xF (R281, R284, R285, R291, R294, R349, R359, R369, R380 to R384, R406, R413, R420,
R430, R441, R451, R453, R454, R457 to R462). -/

namespace Sys2Proof.Machine

/-- A value at its place in a register. -/
def fieldAt (v lo : Nat) : Nat := v * 2 ^ lo

/-! ### Reads -/

/-- SQSTAT without its RC fields cleared (R284). -/
def State.sqstat (s : State) (q : Nat) : Nat :=
  let x := s.sub q
  fieldAt (x.refused % 2 ^ 32) 32 + fieldAt (x.lasterr % 256) 16 + fieldAt (s.used q % 256) 8 + (64 - s.used q)

/-- Word `i` of a counter's entry (R285). -/
def State.counterWord (s : State) (n i : Nat) : Nat :=
  let c := s.counter n
  match i with
  | 0 => c.value
  | 1 => fieldAt (c.target % 2 ^ 32) 32
  | 2 => c.target / 2 ^ 32
  | _ => fieldAt c.job 56 + fieldAt c.kind 53 + fieldAt c.state 51 + fieldAt c.parent 38 + fieldAt c.ien.toNat 37

/-- CTXSTAT of a slot (R294). -/
def State.ctxstat (s : State) (slot : Nat) : Nat :=
  let c := s.ctx slot
  let st := match c.st with | .idle => 0 | .running => 1 | .preempt => 2 | .saving => 3 | .loading => 4
  let u := s.unitOf slot
  fieldAt st 53 + fieldAt c.berr.toNat 52 + fieldAt c.forced.toNat 51 +
    (if c.uid.isSome then fieldAt (s.effPrio slot % 256) 56 + fieldAt (u.lctr % 8192) 38 + fieldAt (u.index % 2048) 27 else 0)

/-- A register of a stack's block (R349). -/
def State.stackReg (s : State) (st off : Nat) : Nat :=
  let x := s.stackOf st
  match off with
  | 0x00 => fieldAt (min 255 x.tmax) 32 + fieldAt x.overt.toNat 3 + fieldAt (if s.pwrs = 3 then 1 else 0) 2 +
      fieldAt ((List.range 64).any (fun l => (s.laneOf (64 * st + l)).scrubbing)).toNat 1 + x.hot.toNat
  | 0x08 => x.cclk.toNat
  | 0x10 => x.refclk.toNat
  | 0x18 => fieldAt (x.forced % 2 ^ 32) 32 + fieldAt (min 65535 x.skew) 16 + min 65535 x.treeerr
  | 0x20 => x.exthold
  | 0x28 => fieldAt (x.buslines % 65536) 32 + x.rows % 65536
  | _ => 0

/-- Lines pinned by a core (R359, R362). -/
def State.pinnedBy (s : State) (core : Nat) : List Nat :=
  (s.units.flatMap (fun u => (u.2.pins.filter (fun p => p.1 = core)).map (·.2))).eraseDups

/-- TCSTAT of a tile core (R359). -/
def State.tcstat (s : State) (core : Nat) : Nat :=
  let c := s.core core
  fieldAt ((c.owner.getD 0) % 256) 56 + fieldAt c.owner.isSome.toNat 55 + fieldAt c.frozen.toNat 47 +
    fieldAt (!c.spill.isEmpty).toNat 46 + (s.pinnedBy core).length % 4096

/-- A register of the freeze block (R384). Requests held at requester ports are those of contexts with an access, a replay, a
save or a load that waits, those of the engine queues with a waiting record or marker, one for each queue, those of fabric
ports, the device's own of launch statuses, and the host's (log 83). -/
def State.freezeReg (s : State) (off : Nat) : Nat :=
  match off with
  | 0x00 => fieldAt (s.frozenAt.length % 65536) 32 +
      fieldAt (min 65535 ((s.ctxs.filter (fun c => c.2.frz)).length + (s.engqs.filter (fun q => q.2.frz)).length + s.heldReq.length +
        s.heldFrames.length + s.heldStats.length)) 16 + s.fz.toNat
  | 0x08 => (s.raw 0x800008).toNat
  | 0x10 => (s.raw 0x800010).toNat
  | 0x18 => fieldAt (s.fzReplay % 2 ^ 32) 32 + fieldAt (min 255 s.fzOrphan) 16 + fieldAt (min 255 s.fzMoved) 8 + min 255 s.fzIgn
  | _ => 0

/-- A register of the translator block, its ring included (R406). -/
def State.xlReg (s : State) (off : Nat) : Nat :=
  if 0x1000 ≤ off ∧ off < 0x2000 then
    match SMap.find s.xl.ring ((off - 0x1000) / 16) with
    | some (j, p, k) => if off % 16 = 0 then 65536 * p else j + 256 * k
    | none => 0
  else
    match off with
    | 0x08 => fieldAt s.xl.done 32 + fieldAt s.xl.cmds.length 2 + fieldAt s.xl.err.toNat 1 + (!s.xl.cmds.isEmpty).toNat
    | 0x10 => s.xl.head
    | 0x18 => (s.raw 0x900018).toNat
    | 0x20 => (s.raw 0x900020).toNat
    | _ => 0

/-- A register of a reduction group (R413, R430). -/
def State.rgReg (s : State) (g off : Nat) : Nat :=
  let r := s.rg g
  match off with
  | 0x00 =>
    if s.rgEn g then
      fieldAt r.mode 63 + fieldAt r.path.code 48 + fieldAt (s.pathCount g 2) 32 + fieldAt (s.pathCount g 0) 16 + s.rgMembers g % 65536
    else 0
  | 0x08 => fieldAt (r.swrec % 2 ^ 32) 32 + r.eprec % 2 ^ 32
  | _ => (s.raw (0xA00000 + 0x40 * g + off)).toNat

/-- A register of a fabric port (R420). -/
def State.portReg (s : State) (p off : Nat) : Nat :=
  let x := s.port p
  match off with
  | 0x00 => (s.fpcfg p).toNat
  | 0x08 => fieldAt x.lanes.toNat 62 + fieldAt x.retrain.toNat 61 + fieldAt (min 65535 x.sheds) 32 +
      fieldAt (min 65535 x.tagerr) 16 + min 65535 x.skew
  | 0x10 => x.retx
  | _ => 0

/-- A register of an island (R441). -/
def State.islandReg (s : State) (i off : Nat) : Nat :=
  let x := s.island i
  match off with
  | 0x00 => x.tgt
  | 0x08 => fieldAt (s.islandQwords i) 48 + fieldAt (s.islandInflt i % 256) 40 + fieldAt (s.islandHeld i) 32 + fieldAt x.cur 8 +
      fieldAt x.spill.toNat 7 + fieldAt x.retv.toNat 6 + fieldAt x.hold.toNat 5 + fieldAt x.busy.toNat 4 + x.step
  | 0x18 => (s.raw (0xC00018 + 0x40 * i)).toNat
  | _ => 0

/-- A register of the boot and service block (R281, R460, R461). -/
def State.bootReg (s : State) (off : Nat) : Nat :=
  match off with
  | 0x008 => s.boot.code
  | 0x010 => s.ready.toNat
  | 0x108 => fieldAt s.svc.done 32 + fieldAt s.svc.held.length 8 + s.svc.last
  | _ => 0

/-- A register's value by its BAR0 offset, a multiple of 8; an offset with no register reads zero (log 28). -/
def State.regGet (s : State) (off : Nat) : Word :=
  let o := off % 0x100000
  toWord (match off / 0x100000 with
  | 0x1 => if o < 0x10000 then (if o % 0x100 = 0 then
        setBits (s.raw off).toNat 62 62 ((s.job (o / 0x100)).cancelling).toNat else (s.raw off).toNat) else 0
  | 0x2 => if o < 0x4000 then (match o % 0x100 with
      | 0x08 => s.sqstat (o / 0x100)
      | 0x10 => (s.sub (o / 0x100)).overdue
      | _ => (s.raw off).toNat) else 0
  | 0x3 => if o < 0x40000 then s.counterWord (o / 32) (o % 32 / 8) else 0
  | 0x4 => if o < 0x5100 then (match o % 0x80 with
      | 0x18 => if (SMap.find s.next (o / 0x80)).isSome || (SMap.find s.nextLater (o / 0x80)).any (·.1 ≠ 0) || 3 ≤ bitsOf (s.raw off).toNat 63 61 then (s.raw off).toNat else setBits (s.raw off).toNat 63 61 0
      | 0x20 => s.ctxstat (o / 0x80)
      | _ => (s.raw off).toNat) else 0
  | 0x5 => if o < 0x8000 then s.stackReg (o / 0x1000) (o % 0x1000) else 0
  | 0x6 => if o < 0x3000 ∧ o % 0x100 = 0 then s.tcstat (32 + o / 0x100) else 0
  | 0x7 => (s.raw off).toNat
  | 0x8 => s.freezeReg o
  | 0x9 => s.xlReg o
  | 0xA => if o < 0x1000 then s.rgReg (o / 0x40) (o % 0x40) else 0
  | 0xB => if o < 0xC00 then s.portReg (o / 0x100) (o % 0x100) else 0
  | 0xC => if o < 0x2000 then s.islandReg (o / 0x40) (o % 0x40) else 0
  | 0xD => if o = 0x08 then
        fieldAt s.power.pavg 48 + fieldAt s.power.enters 32 + fieldAt s.power.forces 16 + s.pwrs.toNat else (s.raw off).toNat
  | 0xE => (s.raw off).toNat
  | 0xF => s.bootReg o
  | k => if 0x10 ≤ k ∧ k < 0x20 then SMap.get s.flash 0 ((off - 0x1000000) / 8)
    else if 0x20 ≤ k ∧ k < 0x40 then ofBytes (Memory.readN s.boot.image (off - 0x2000000) 8) else 0)

/-! ### Fields that a read clears (R5) -/

/-- Whether bits `h` to `l` share a bit with the covered ones. -/
def hits (cov : Nat) (h l : Nat) : Bool := bitsOf cov h l ≠ 0

/-- The RC fields of a register that a read covers, cleared. DESIGN CHOICE (log 86): R5 states narrow accesses for writes
alone; a read that covers any byte of a field clears the whole field. -/
def State.regClear (s : State) (off cov : Nat) : State :=
  let o := off % 0x100000
  match off / 0x100000 with
  | 0x2 =>
    let q := o / 0x100
    let x := s.sub q
    if 0x4000 ≤ o then s
    else if o % 0x100 = 0x08 then
      s.setSub q { x with refused := if hits cov 63 32 then 0 else x.refused, lasterr := if hits cov 23 16 then 0 else x.lasterr }
    else if o % 0x100 = 0x10 then s.setSub q { x with overdue := 0 } else s
  | 0x5 =>
    let k := o / 0x1000
    let x := s.stackOf k
    if 0x8000 ≤ o then s
    else if o % 0x1000 = 0x18 then
      s.setStack k { x with forced := if hits cov 63 32 then 0 else x.forced, skew := if hits cov 31 16 then 0 else x.skew,
                            treeerr := if hits cov 15 0 then 0 else x.treeerr }
    else if o % 0x1000 = 0x20 then s.setStack k { x with exthold := 0 } else s
  | 0x8 =>
    if o = 0x18 then
      { s with fzReplay := if hits cov 63 32 then 0 else s.fzReplay, fzOrphan := if hits cov 23 16 then 0 else s.fzOrphan,
               fzMoved := if hits cov 15 8 then 0 else s.fzMoved, fzIgn := if hits cov 7 0 then 0 else s.fzIgn } else s
  | 0xA =>
    let g := o / 0x40
    let r := s.rg g
    if o < 0x1000 ∧ o % 0x40 = 0x08 then
      s.setRg g { r with swrec := if hits cov 63 32 then 0 else r.swrec, eprec := if hits cov 31 0 then 0 else r.eprec } else s
  | 0xB =>
    let p := o / 0x100
    let x := s.port p
    if 0xC00 ≤ o then s
    else if o % 0x100 = 0x08 then
      s.setPort p { x with sheds := if hits cov 47 32 then 0 else x.sheds, tagerr := if hits cov 31 16 then 0 else x.tagerr,
                           skew := if hits cov 15 0 then 0 else x.skew }
    else if o % 0x100 = 0x10 then s.setPort p { x with retx := 0 } else s
  | 0xD =>
    if o = 0x08 then
      { s with power := { s.power with enters := if hits cov 47 32 then 0 else s.power.enters,
                                       forces := if hits cov 31 16 then 0 else s.power.forces } } else s
  | 0xF => if o = 0x108 ∧ hits cov 7 0 then { s with svc := { s.svc with last := 0 } } else s
  | _ => s

/-! ### Writes -/

/-- The RW bits of a register that is plain storage (R284, R291, R369, R406, R430, R441, R451, R453, R454, R457, R458). -/
def rwMask (off : Nat) : Nat :=
  let o := off % 0x100000
  match off / 0x100000 with
  | 0x1 => if 0x10000 ≤ o then 0 else (match o % 0x100 / 8 with
      | 0 => 0x3FFFF
      | 2 => 0xFFFF
      | 4 => 0xFFFFFFFF
      | 6 => 0xFFFF1FFF
      | 1 | 5 | 7 | 8 | 9 | 10 => 0xFFFFFFFFFFFFFFFF
      | _ => 0)
  | 0x2 => if 0x4000 ≤ o then 0 else (match o % 0x100 with
      | 0x00 => 0xC0FFFFFF00000000
      | 0x20 | 0x28 | 0x30 | 0x38 => 0xFFFFFFFF
      | _ => 0)
  | 0x4 => if 0x5100 ≤ o then 0 else (match o % 0x80 with
      | 0x08 | 0x10 => 0xFFFFFFFFFFFFFFFF
      | 0x18 => 0xF000FFFFFFFFFF00
      | _ => 0)
  | 0x7 => if 0x4000 ≤ o ∨ 0x30 ≤ o % 0x40 then 0 else 0xFFFFFFFFFFFFFFFF
  | 0x8 => if o = 0x08 ∨ o = 0x10 then 0xFFFFFFE00000 else 0
  | 0x9 => if o = 0x18 ∨ o = 0x20 then 0xFF else 0
  | 0xA => if 0x1000 ≤ o then 0 else (match o % 0x40 with
      | 0x10 => 0x80FFFFFF0000FFFF
      | 0x18 => 0xFFFFFFFFFFF0
      | _ => 0)
  | 0xC => if o < 0x2000 ∧ o % 0x40 = 0x18 then 0xFFFFFFFF else 0
  | 0xD => if o = 0x00 then 0xFFFFFFFFFF070000 else if o = 0x10 then 0xFFFFFFFF00000000
      else if (0x10000 ≤ o ∧ o < 0x10C00 ∧ o % 0x40 < 0x28) ∨ (0x11000 ≤ o ∧ o < 0x11100) ∨ (0x20000 ≤ o ∧ o < 0x21000) then 0xFFFF else 0
  | 0xE => if o < 0x220 then (match o % 0x20 with
      | 0x00 => 0xFF
      | 0x08 => 0xFFFFFFFFFFFFFFFF
      | 0x10 => 0xFFFFFFFFFFFFFFFF
      | _ => 0xFFFF) else if o = 0x10000 then 0x0FF8000000000000 else 0
  | _ => 0

/-- Who may write a register (R281, R284, R294, R384, R406, R451, R457). A virtual function writes none. -/
def mayWrite (who : Writer) (off : Nat) : Bool :=
  let k := off / 0x100000
  match who with
  | .vf _ => false
  | .host => k ≠ 4 && k ≠ 8 && !(k == 0xD && off % 0x100000 < 0x10000) && off ≠ 0x900020
  | .headwater => k ≠ 0xE && k ≠ 0xA && off ≠ 0xF00100

/-- A register's bits under a mask and the covered bytes replaced. -/
def merge (old v mask cov : Nat) : Nat := ((old ^^^ v) &&& (mask &&& cov)) ^^^ old

/-- Capacity of an instance of a resource kind in 64-byte tokens per microsecond: slice ports, memory channels, UCIe
modules, fabric ports (R284, R299; log 27). -/
def resvCapacity (kind : Nat) : Nat := match kind with | 0 => Config.sliceCapacity | 1 => 675 | 2 => 4000 | _ => 3125

/-- A write of SQRESV: a configuration above 90 % of an instance's capacity leaves RATE unchanged (R299). -/
def State.putResv (s : State) (off v : Nat) : State :=
  let q := off % 0x100000 / 0x100
  let kind := (off % 0x100 - 0x20) / 8
  let rest := ((List.range 64).filter (· ≠ q)).foldl (fun a i => a + bitsOf (s.raw (0x200000 + 0x100 * i + 0x20 + 8 * kind)).toNat 15 0) 0
  if 9 * resvCapacity kind < 10 * (rest + v % 65536) then
    (s.setRaw off (toWord (setBits v 15 0 (s.raw off).toNat))).setSub q { s.sub q with lasterr := 0xFE }
  else s.setRaw off (toWord v)

/-- A write of CTL of a job table entry (R291 to R293). -/
def State.putJobCtl (s : State) (off v cov : Nat) : State :=
  let j := off % 0x100000 / 0x100
  let was := s.jobValid j
  let s1 := s.setRaw off (toWord (merge (s.raw off).toNat v 0x3FFFF cov))
  let now := if bitOf cov 63 then bitOf v 63 else was
  if now && !was then s1.activateJob j (toWord (setBits (s1.raw off).toNat 63 63 1))
  else if was && !now then s1.invalidateJob j
  else if was && bitOf cov 62 && bitOf v 62 then s1.cancelJobN j
  else s1

/-- A write of a word of a counter's entry; JOB and KIND are taken only while it is not ACTIVE (R285). -/
def State.putCounter (s : State) (n i v cov : Nat) : State :=
  let c := s.counter n
  match i with
  | 0 => s.setCounter n { c with value := merge c.value v 0xFFFFFFFFFFFF cov }
  | 1 => s.setCounter n { c with target := setBits c.target 31 0 (merge (fieldAt (c.target % 2 ^ 32) 32) v 0xFFFFFFFF00000000 cov / 2 ^ 32) }
  | 2 => s.setCounter n { c with target := setBits c.target 47 32 (merge (c.target / 2 ^ 32) v 0xFFFF cov) }
  | _ =>
    let m := if c.state = 1 then 0x2000000000 else 0xFFE0002000000000
    let w := merge (s.counterWord n 3) v m cov
    s.setCounter n { c with job := bitsOf w 63 56, kind := bitsOf w 55 53, ien := bitOf w 37 }

/-- NEXT of a slot as its words stand (R294). -/
def State.nextRec (s : State) (slot : Nat) : Nat × NextRec :=
  let b := 0x400000 + 0x80 * slot
  let w := s.raw (b + 0x18)
  (bitsOf w.toNat 63 61,
    { pre := w.getLsbD 60, lctr := w.extractLsb' 35 13, unit := w.extractLsb' 24 11, prio := w.extractLsb' 16 8,
      job := w.extractLsb' 8 8, save := s.raw (b + 0x10), load := s.raw (b + 0x08) })

/-- The write of NEXT bytes 31:24 takes effect for the whole record (R295). -/
def State.takeNext (s : State) (slot : Nat) : State :=
  let x := s.nextRec slot
  let r := if x.1 = 0 then execNextWithdraw slot s
    else if x.1 = 1 then execNextBind slot x.2 s
    else if x.1 = 2 then execNextResume slot x.2 s
    else execNextReject slot (BitVec.ofNat 3 x.1) x.2 s
  match r with
  | .next s' => s'
  | _ => s

/-- A write of XLCMD, taken when it covers OP (R5, R406). -/
def State.putXlcmd (s : State) (v cov : Nat) : State :=
  if !hits cov 63 60 then s
  else
    let x := v &&& cov
    let op := bitsOf x 63 60
    if op = 1 ∨ op = 2 then s.xlAccept (op = 2) (bitsOf x 55 48) (bitsOf x 47 16) (bitsOf x 15 0 + 1)
    else { s with xl := { s.xl with err := true } }

/-- A write of BOOTCMD, taken when it covers CMD (R460). -/
def State.putBootcmd (s : State) (v cov : Nat) : State :=
  let x := v &&& cov
  if !hits cov 1 0 then s
  else if x % 4 = 1 then s.bootRun (x / 2 ^ 32)
  else if x % 4 = 2 then { s with flash := s.growth }.deviceReset
  else s

/-- A service request held or dropped (R281). -/
def State.putSvcreq (s : State) (v cov : Nat) : State :=
  if !hits cov 63 48 then s
  else match execSvcreq (toWord (v &&& cov)) s with
    | .next s' => s'
    | _ => s

/-- A write of a register by its offset, a multiple of 8: `cov` has ones at the bits of the covered bytes (R5). -/
def State.regPut (s : State) (who : Writer) (off v cov : Nat) : State :=
  let o := off % 0x100000
  let new := merge (s.raw off).toNat v (rwMask off) cov
  if !mayWrite who off then s
  else match off / 0x100000 with
  | 0x1 => if 0x10000 ≤ o then s else if o % 0x100 = 0 then s.putJobCtl off v cov
    else if o % 0x100 = 72 then (s.setRaw off (toWord new)).newTrust (o / 0x100)
    else s.setRaw off (toWord new)
  | 0x2 =>
    if 0x4000 ≤ o then s
    else if o % 0x100 = 0 then
      let m := if s.used (o / 0x100) = 0 then rwMask off else 0x8000FFFF00000000
      s.setRaw off (toWord (merge (s.raw off).toNat v m cov))
    else if 0x20 ≤ o % 0x100 ∧ o % 0x100 < 0x40 then s.putResv off new
    else s
  | 0x3 => if o < 0x40000 then s.putCounter (o / 32) (o % 32 / 8) v cov else s
  | 0x4 =>
    if 0x5100 ≤ o then s
    else if o % 0x80 = 0x18 then (s.setRaw off (toWord new)).takeNext (o / 0x80)
    else if o % 0x80 = 0x20 then
      let c := s.ctx (o / 0x80)
      let x := v &&& cov
      s.setCtx (o / 0x80) { c with berr := c.berr && !bitOf x 52, forced := c.forced && !bitOf x 51 }
    else s.setRaw off (toWord new)
  | 0x8 =>
    if o = 0 then (if bitOf cov 0 then (if bitOf v 0 then s.freezeOn else s.thaw) else s)
    else if s.fz then s else s.setRaw off (toWord new)
  | 0x9 =>
    if o = 0 then s.putXlcmd v cov
    else if o = 0x08 then { s with xl := { s.xl with err := s.xl.err && !bitOf (v &&& cov) 1 } }
    else s.setRaw off (toWord new)
  | 0xA =>
    let s1 := s.setRaw off (toWord new)
    if 0x1000 ≤ o then s
    else if o % 0x40 = 0x10 then s1.setupGroup (o / 0x40)
    else if o % 0x40 = 0x18 then s1.reroute (o / 0x40)
    else s
  | 0xB =>
    if o < 0xC00 ∧ o % 0x100 = 0 then
      s.fpcfgPut (o / 0x100) (toWord (merge (s.raw off).toNat v 0xFFFFFFFFFFFFFFFF cov)) else s
  | 0xC =>
    if 0x2000 ≤ o then s
    else if o % 0x40 = 0x00 then
      (if !hits cov 1 0 then s else if v % 4 = 0 then s.wakeIsland (o / 0x40) else s.targetIsland (o / 0x40) (v % 4))
    else if o % 0x40 = 0x10 then (if bitOf (v &&& cov) 0 then s.wakeIsland (o / 0x40) else s)
    else s.setRaw off (toWord new)
  | 0xF =>
    if o = 0x000 then s.putBootcmd v cov
    else if o = 0x100 then s.putSvcreq v cov
    else s
  | k =>
    if 0x20 ≤ k ∧ k < 0x40 then
      (if s.boot.code = 1 ∨ s.boot.code = 2 ∨ who ≠ .host then s
       else
         let a := off - 0x2000000
         let old := ofBytes (Memory.readN s.boot.image a 8)
         { s with boot := { s.boot with
             image := Memory.writeN s.boot.image a (bytesOf 8 (merge old v 0xFFFFFFFFFFFFFFFF cov)) } })
    else if rwMask off = 0 then s else s.setRaw off (toWord new)

/-! ### Accesses to registers -/

/-- A byte range cut at registers: the register's offset, the first byte within it, and how many, with fuel. -/
def regParts : Nat → Nat → Nat → List (Nat × Nat × Nat)
  | 0, _, _ => []
  | f + 1, a, n =>
    if n = 0 then []
    else
      let m := min n (8 - a % 8)
      (a / 8 * 8, a % 8, m) :: regParts f (a + m) (n - m)

/-- The bits of `n` bytes from byte `b` of a register. -/
def covBits (b n : Nat) : Nat := (2 ^ (8 * n) - 1) * 2 ^ (8 * b)

/-- Bytes read from registers, part by part in ascending address; RC fields are cleared (R5, R303). -/
def State.regRead (s : State) (off n : Nat) : State × List Byte :=
  (regParts (n / 8 + 2) off n).foldl (fun (x : State × List Byte) p =>
    let w := (x.1.regGet p.1).toNat
    (x.1.regClear p.1 (covBits p.2.1 p.2.2), x.2 ++ bytesOf p.2.2 (w / 2 ^ (8 * p.2.1)))) (s, [])

/-- Bytes written to registers, part by part in ascending address (R5, R303). -/
def State.regWrite (s : State) (who : Writer) (off : Nat) (bs : List Byte) : State :=
  ((regParts (bs.length / 8 + 2) off bs.length).foldl (fun (x : State × List Byte) p =>
    (x.1.regPut who p.1 (ofBytes (x.2.take p.2.2) * 2 ^ (8 * p.2.1)) (covBits p.2.1 p.2.2), x.2.drop p.2.2)) (s, bs)).1

/-- The register's offset, where locations are registers. -/
def regOff (ls : List Loc) : Option Nat :=
  match ls with
  | .reg off :: _ => some off
  | _ => none

/-- Bytes read at locations, registers among them. -/
def State.ioRead (s : State) (ls : List Loc) : State × List Byte :=
  match regOff ls with
  | some off => s.regRead off ls.length
  | none => (s.touchReads ls, s.readLocs ls)

/-- Bytes written at locations for a party, registers among them. -/
def State.ioWrite (s : State) (p : Party) (ls : List Loc) (bs : List Byte) : State :=
  match regOff ls with
  | some off => s.regWrite .headwater off bs
  | none => s.writeFor p ls bs

/-- The BAR0 offset of the physical function that a virtual function's BAR0 offset shows: SQSTAT of a granted queue, or
one of its job's first 16 counters (R456). -/
def State.vfOff (s : State) (f off : Nat) : Option Nat :=
  let j := s.fnJob f
  if off < 0x4000 then
    (if off % 0x100 < 8 ∧ s.queueOfJob j (off / 0x100) then some (0x200008 + off / 0x100 * 0x100) else none)
  else if 0x8000 ≤ off ∧ off < 0x8200 then
    let n := bitsOf (s.jobWord j 6).toNat 12 0 + (off - 0x8000) / 32
    if s.ctrOfJob j n then some (0x300000 + 32 * n + off % 32) else none
  else none

/-- A read of `n` bytes of a virtual function's BAR0: of each register that it shows, the fields covered (R5, R456). -/
def State.vfRead (s : State) (f off n : Nat) : State :=
  (regParts (n / 8 + 2) off n).foldl (fun (s : State) p => match s.vfOff f p.1 with
    | some o => s.regClear o (covBits p.2.1 p.2.2)
    | none => s) s

/-- REGISTER_READ_CLEAR: a read of BAR0 bytes clears the RC fields that it covers (R5). -/
def execRegisterReadClear (who : Writer) (span : BarSpan) (s : State) : Out :=
  match who with
  | .vf f => .next (s.vfRead f span.off span.n)
  | _ => if span.off + span.n ≤ 0x4000000 then .next (s.regRead span.off span.n).1 else .next s

/-- REGISTER_WRITE: a write of BAR0 bytes sets fields under their access codes (R5). -/
def execRegisterWrite (who : Writer) (off : Nat) (data : List Byte) (s : State) : Out :=
  if off + data.length ≤ 0x4000000 then .next (s.regWrite who off data) else .next s

end Sys2Proof.Machine
end

