-- ==== Sys2Proof/Machine/LoadStore.lean ====
section
/-! DEFINITION. Unit loads, stores and prefetches over every window (R119 to R129), what releases wait for (R308), and the
replay of a side log (R409). -/

namespace Sys2Proof.Machine

/-! ### What a release waits for (R308, R320, R322) -/

/-- Whether every earlier local access of a slot's unit has performed: its side log, and its bank-fill stores (R322). -/
def State.localQuiet (s : State) (slot : Nat) : Bool :=
  let c := s.ctx slot
  c.side.isEmpty && (match c.uid with
    | some u => s.lanes.all (fun l => l.2.fills.all (fun (f : FillWait) => f.uid != some u))
    | none => true)

/-- Whether every earlier access of a slot's unit has performed, its remote atomics too (R320). -/
def State.quiet (s : State) (slot : Nat) : Bool :=
  s.localQuiet slot && (match (s.ctx slot).uid with
    | some u => !(s.remotes.any (fun (r : Remote) => r.uid == u))
    | none => true)

/-- Whether frames that records of a slot's unit have sent are still unacknowledged (R308). -/
def State.sendsLeft (s : State) (slot : Nat) : Bool :=
  match (s.ctx slot).uid with
  | some u => s.engqs.any (fun q => q.2.run.any (fun (r : Rec) => r.uid == some u && r.waits.any (fun w =>
      let x := s.stream w.1
      (x.kept ++ x.queue).any (fun f => f.frame.seq ≤ w.2 && x.freed < f.frame.seq))))
  | none => false

/-- The scopes whose releases differ: .unit and .job (R160, R308). -/
def scopeUnit : Nat := 0
def scopeJob : Nat := 5

/-- Whether a release of a slot's unit at a scope has nothing left to wait for (R308). -/
def State.released (s : State) (slot scope : Nat) : Bool :=
  if scope = scopeUnit then true
  else if scope = scopeJob then s.quiet slot && !s.sendsLeft slot
  else s.localQuiet slot

/-- A unit that has made an access to window 0x1 or 0x2 is noted (R357). -/
def State.noteSpad (s : State) (slot : Nat) (a : Word) : State :=
  let w := bitsOf a.toNat 63 60
  if w = 1 ∨ w = 2 then s.setCtx slot { s.ctx slot with spadUsed := true } else s

/-- Whether a pointer names a device register (R303). -/
def isReg (a : Word) : Bool := bitsOf a.toNat 63 60 == 15 && bitOf a.toNat 59

/-- Whether an access to a pointer is strongly ordered and must still wait for earlier ones of its unit (R303). -/
def State.mustFollow (s : State) (slot : Nat) (p : Party) (a : Word) : Bool :=
  bitsOf a.toNat 63 60 == 15 && p.level == .management && !s.quiet slot

/-- A register access of a slot's unit. -/
def State.regAccess (s : State) (p : Party) (k : AccKind) (a : Word) (n : Nat) (f : State → List Loc → Res) : Res :=
  match s.locate p k 1 a n with
  | (s1, .fault x) => .fault s1 x
  | (s1, .held z _) => .wait s1 z
  | (s1, .absent _) => .wait s1 false
  | (s1, .ok ls _) => f s1 ls

/-- A load of a slot's unit over every window. -/
def State.unitLoad (s : State) (slot : Nat) (p : Party) (a : Word) (n : Nat) : Res :=
  if s.mustFollow slot p a then .wait s false
  else if isReg a then s.regAccess p .load a n (fun s1 ls => let r := s1.ioRead ls; .ok r.1 r.2)
  else match s.load slot p a n with
    | .ok s1 bs => .ok (s1.noteSpad slot a) bs
    | r => r

/-- A store of a slot's unit over every window. `atom` marks a single-copy atomic part (R124). -/
def State.unitStore (s : State) (slot : Nat) (p : Party) (a : Word) (bs : List Byte) (atom : Bool) : Res :=
  if s.mustFollow slot p a then .wait s false
  else if isReg a then s.regAccess p .store a bs.length (fun s1 ls => .ok (s1.ioWrite p ls bs) [])
  else match s.store slot p a bs atom with
    | .ok s1 x => .ok ((if bitsOf a.toNat 63 60 = 4 then s1.markFills s (s.ctx slot).uid none else s1).noteSpad slot a) x
    | r => r

/-- A performed store retires. One that has reset the device, or ended its own task, leaves nothing to retire. -/
def State.retireStore (s0 s : State) (i : Ins) : Out :=
  if s.cur.st = .idle ∧ s0.cur.st ≠ .idle then .next s else s.retire s.cur i

/-- The effective address of a load, store or prefetch (R119). -/
def State.ea (s : State) (a : BitVec 5) (m : Imm) (n : Nat) : Word := s.cur.rd a.toNat + BitVec.ofInt 64 (m.int * n)

/-- The registers that a loaded value is written to (R120). -/
def Ctx.loadInto (c : Ctx) (d : Nat) (bs : List Byte) : Ctx :=
  if bs.length = 16 then (c.wr d (bytesWord (bs.take 8))).wr (d + 1) (bytesWord (bs.drop 8)) else c.wr d (bytesWord bs)

/-- Whether a register and size code are legal together (R37, R120). -/
def sizeOk (d : BitVec 5) (n : Nat) : Bool := n != 16 || d.toNat % 2 == 0

/-- LD, with or without a prefix. -/
def opLd (i : Ins) (d a : BitVec 5) (sz : BitVec 3) (m : Imm) (s : State) : Out :=
  match accessSize sz with
  | none => s.illegal i 0
  | some n =>
    if !sizeOk d n then s.illegal i 0
    else (s.unitLoad s.slot s.party (s.ea a m n) n).thenDo i (fun s1 bs => s1.retire (s1.cur.loadInto d.toNat bs) i)

/-- LD (R119, R120, R122, R125, R126). -/
def execLd (d a : BitVec 5) (sz : BitVec 3) (off : BitVec 13) (s : State) : Out :=
  opLd (ins (.ld d a sz off)) d a sz (.plain off) s

/-- ST, with or without a prefix. -/
def opSt (i : Ins) (r a : BitVec 5) (sz : BitVec 3) (m : Imm) (s : State) : Out :=
  match accessSize sz with
  | none => s.illegal i 0
  | some n =>
    if !sizeOk r n then s.illegal i 0
    else
      let ea := s.ea a m n
      (s.unitStore s.slot s.party ea (s.cur.storeFrom r.toNat n) (ea.toNat % n == 0)).thenDo i
        (fun s1 _ => s.retireStore s1 i)

/-- ST (R119, R120, R122, R125). -/
def execSt (r a : BitVec 5) (sz : BitVec 3) (off : BitVec 13) (s : State) : Out :=
  opSt (ins (.st r a sz off)) r a sz (.plain off) s

/-! ### Side-log replay (R409) -/

/-- A log entry performed at its bytes. -/
def State.performEntry (s : State) (e : SideEntry) (ls : List Loc) : State :=
  if e.red then
    let w := e.data.length
    s.perform ls (bytesOf w (aopValue e.aop w (ofBytes (s.readLocs ls)) (ofBytes e.data)))
  else s.perform ls e.data

/-- The checks of a log entry as it performs: seals were checked when it was issued (R408). -/
def State.locateEntry (s : State) (p : Party) (k : AccKind) (e : SideEntry) : State × Acc :=
  let x := s.job p.job
  let r := (s.setJob p.job { x with seals := [] }).locate p k 1 e.addr e.data.length
  (r.1.setJob p.job x, r.2)

/-- SIDE_LOG_REPLAY: the head entry performs once its pages are present; a reduction whose page is remote is sent there and
stays at the head until it has been acknowledged (R304, R320); a refused page ends the job (R409). -/
def execSideLogReplay (slot : Nat) (s : State) : Out :=
  match (s.ctx slot).side with
  | [] => .next s
  | e :: es =>
    let p := s.entryParty slot e
    let k : AccKind := if e.red then .atomic else .store
    let put (t : State) (rest : List SideEntry) : Out :=
      let c := t.ctx slot
      .next (t.setCtx slot { c with side := if c.side = e :: es then rest else c.side })
    let pop (t : State) : Out := put t es
    let u := (s.ctx slot).uid.getD 0
    if e.sent then (if s.remotes.any (fun (r : Remote) => r.uid == u) then .next s else pop s)
    else match s.locateEntry p k e with
    | (s1, .ok ls _) =>
      (match ls with
      | .remote m a :: _ =>
        if s1.streamFull (streamKey p.job false m) then .next s1
        else put (s1.sendAtomic u p.job m a 2 e.aop e.data.length (ofBytes e.data) 0 false) ({ e with sent := true } :: es)
      | _ =>
        if s1.eccBad k ls then pop (s1.cancelJobN p.job)
        else pop (((s1.performEntry e ls).markFills s1 (s1.ctx slot).uid none).noteSpad slot e.addr))
    | (s1, .fault _) =>
      let n := (s1.unitOf slot).lctr
      let s2 := s1.launchStat n (StatUpd.bad 0x42 0 0 e.addr 0)
      let s3 := s2.setCtx slot { s2.ctx slot with side := [] }
      .next (s3.cancelJobN p.job)
    | (s1, .held true _) => .next (s1.setCtx slot { s1.ctx slot with frz := true })
    | (s1, _) => .next s1

/-! ### Prefetch (R129) -/

/-- The sector that a prefetch fetches: nothing where a check would fail, or the page is not present (R129). -/
def State.prefetch (s : State) (k : AccKind) (a : Word) : State :=
  if bitsOf a.toNat 63 60 ≠ 0 then s
  else match (s.locate s.party k 1 a 1).2 with
    | .ok [.mem pa key] _ => if s.eccBad .load [.mem pa key] then s else s.touch key pa false
    | _ => s

/-- PREF, with or without a prefix. -/
def opPref (i : Ins) (k : AccKind) (a : BitVec 5) (sz : BitVec 3) (m : Imm) (s : State) : Out :=
  match accessSize sz with
  | none => s.illegal i 0
  | some n => (s.prefetch k (s.ea a m n)).retire s.cur i

/-- PREF.LD (R129). -/
def execPrefLd (a : BitVec 5) (sz : BitVec 3) (off : BitVec 13) (s : State) : Out :=
  opPref (ins (.prefLd a sz off)) .load a sz (.plain off) s

/-- PREF.ST (R129). -/
def execPrefSt (a : BitVec 5) (sz : BitVec 3) (off : BitVec 13) (s : State) : Out :=
  opPref (ins (.prefSt a sz off)) .store a sz (.plain off) s

end Sys2Proof.Machine
end

