-- ==== Sys2Proof/Machine/Atomics.lean ====
section
/-! DEFINITION. Atomic read-modify-write instructions (R159 to R164, R320). -/

namespace Sys2Proof.Machine

/-- What an atomic does at its home (R162). -/
inductive AtomKind where
  | amo | cas | red
  deriving DecidableEq, Repr

/-- Its number in an AREQ frame (R422). -/
def AtomKind.code : AtomKind → Nat
  | .amo => 0 | .cas => 1 | .red => 2

/-- An atomic with its operands: aop, width in bytes, the scope at which it is a release (.unit where it is none), address,
operand and expected value. -/
structure Atom where
  kind : AtomKind
  aop  : Nat
  n    : Nat
  rel  : Nat
  d    : Nat
  addr : Word
  val  : Nat
  exp  : Nat
  deriving DecidableEq, Repr

/-- The value that an atomic leaves, `none` where it writes nothing: a failed CAS (R162). -/
def Atom.new (x : Atom) (old : Nat) : Option Nat :=
  match x.kind with
  | .cas => if old = x.exp then some x.val else none
  | _ => some (aopValue x.aop x.n old x.val)

/-- An atomic retires; AMO and CAS write the old value, zero-extended (R162). -/
def State.atomDone (s : State) (i : Ins) (x : Atom) (old : Nat) : Out :=
  s.retire (if x.kind = .red then s.cur else s.cur.wr x.d (toWord old)) i

/-- An atomic performed at its bytes (R122 checks 7 and 8, R162, R163). -/
def State.atomHome (s : State) (i : Ins) (x : Atom) (ls : List Loc) (ts : List Nat) : Out :=
  let p := s.party
  let rd := if isReg x.addr then s.ioRead ls else (s, s.readLocs ls)
  let old := ofBytes rd.2
  let new := x.new old
  match rd.1.race p .atomic new.isNone x.addr ts with
  | .error f => s.faulted i f
  | .ok s1 =>
    if s.eccBad .atomic ls then s.faulted i ⟨8, x.addr, 0⟩
    else
      let s2 := match new with
        | some v => if isReg x.addr then s1.ioWrite p ls (bytesOf x.n v) else s1.perform ls (bytesOf x.n v)
        | none => s1.touchReads ls
      (s2.noteSpad s.slot x.addr).atomDone i x old

/-- A reduction retired into the side log (R125, R163, R407). -/
def State.atomLog (s : State) (i : Ins) (x : Atom) (ts : List Nat) : Out :=
  if !s.logRoom s.slot 1 then s.wait false
  else match s.race s.party .atomic false x.addr ts with
    | .error f => s.faulted i f
    | .ok s1 =>
      let e : SideEntry := ⟨x.addr, true, x.aop, x.n == 8, true, s.cur.level == .supervisor, false, bytesOf x.n x.val⟩
      ((s1.logPut s.slot [e]).noteSpad s.slot x.addr).atomDone i x 0

/-- An atomic whose home lies in another package, sent; a RED retires at once (R164, R320). -/
def State.atomSend (s : State) (i : Ins) (x : Atom) (u member addr : Nat) : Out :=
  let p := s.party
  if s.streamFull (streamKey p.job false member) then s.wait false
  else
    let s1 := s.sendAtomic u p.job member addr x.kind.code x.aop x.n x.val x.exp (x.kind != .red)
    if x.kind = .red then s1.atomDone i x 0 else s1.wait false

/-- The first answer that a waiting unit's remote atomic has received. -/
def State.awaited (s : State) : Option Remote :=
  match s.cur.uid with
  | some u => s.remotes.find? (fun (r : Remote) => r.uid == u && r.awaits)
  | none => none

/-- An atomic: its checks, its waits, and where it performs (R163, R164, R320). -/
def State.atomic (s : State) (i : Ins) (x : Atom) : Out :=
  match s.awaited with
  | some r =>
    (match r.reply with
    | some old => { s with remotes := s.remotes.erase r }.atomDone i x old
    | none => s.wait false)
  | none =>
    match s.locate s.party .atomic x.n x.addr x.n with
    | (s1, .fault f) => s1.faulted i f
    | (s1, .held z ts) =>
      if x.kind = .red ∧ !s1.cur.side.isEmpty ∧ s1.released s.slot x.rel then s1.atomLog i x ts else s1.wait z
    | (s1, .absent ts) =>
      if x.kind = .red ∧ s1.released s.slot x.rel then s1.atomLog i x ts else s1.wait false
    | (s1, .ok ls ts) =>
      if !s1.released s.slot x.rel || s1.mustFollow s.slot s.party x.addr then s1.wait false
      else if !s1.cur.side.isEmpty then (if x.kind = .red then s1.atomLog i x ts else s1.wait false)
      else match ls, s1.cur.uid with
        | .remote m a :: _, some u => s1.atomSend i x u m a
        | .remote _ _ :: _, none => s1.faulted i ⟨6, x.addr, 0⟩
        | _, _ => s1.atomHome i x ls ts

/-- The width that a width bit names (R160). -/
def atomBytes (wd : BitVec 1) : Nat := if wd = 0 then 4 else 8

/-- AMO and CAS: scopes 110 and 111 are illegal (R59, R160). -/
def opAmo (i : Ins) (k : AtomKind) (aop : Nat) (d a b : BitVec 5) (ord : BitVec 2) (sc : BitVec 3) (wd : BitVec 1)
    (s : State) : Out :=
  let n := atomBytes wd
  if !scopeOk sc then s.illegal i 0
  else s.atomic i ⟨k, aop, n, if ord.getLsbD 1 then sc.toNat else scopeUnit, d.toNat, s.cur.rd a.toNat, (s.cur.rd b.toNat).toNat % 256 ^ n,
    (s.cur.rd d.toNat).toNat % 256 ^ n⟩

/-- RED: `ord` is .rlx or .rel. -/
def opRed (i : Ins) (aop : Nat) (a b : BitVec 5) (ord : BitVec 1) (sc : BitVec 3) (wd : BitVec 1) (s : State) : Out :=
  let n := atomBytes wd
  if !scopeOk sc then s.illegal i 0
  else s.atomic i ⟨.red, aop, n, if ord = 1 then sc.toNat else scopeUnit, 0, s.cur.rd a.toNat, (s.cur.rd b.toNat).toNat % 256 ^ n, 0⟩

/-- AMO.ADD (R162). -/
def execAmoAdd (d a b : BitVec 5) (ord : BitVec 2) (sc : BitVec 3) (wd : BitVec 1) (s : State) : Out :=
  opAmo (ins (.amoAdd d a b ord sc wd)) .amo 0 d a b ord sc wd s
/-- AMO.MIN (R162). -/
def execAmoMin (d a b : BitVec 5) (ord : BitVec 2) (sc : BitVec 3) (wd : BitVec 1) (s : State) : Out :=
  opAmo (ins (.amoMin d a b ord sc wd)) .amo 1 d a b ord sc wd s
/-- AMO.MAX (R162). -/
def execAmoMax (d a b : BitVec 5) (ord : BitVec 2) (sc : BitVec 3) (wd : BitVec 1) (s : State) : Out :=
  opAmo (ins (.amoMax d a b ord sc wd)) .amo 2 d a b ord sc wd s
/-- AMO.MINN (R162). -/
def execAmoMinn (d a b : BitVec 5) (ord : BitVec 2) (sc : BitVec 3) (wd : BitVec 1) (s : State) : Out :=
  opAmo (ins (.amoMinn d a b ord sc wd)) .amo 3 d a b ord sc wd s
/-- AMO.MAXN (R162). -/
def execAmoMaxn (d a b : BitVec 5) (ord : BitVec 2) (sc : BitVec 3) (wd : BitVec 1) (s : State) : Out :=
  opAmo (ins (.amoMaxn d a b ord sc wd)) .amo 4 d a b ord sc wd s
/-- AMO.AND (R162). -/
def execAmoAnd (d a b : BitVec 5) (ord : BitVec 2) (sc : BitVec 3) (wd : BitVec 1) (s : State) : Out :=
  opAmo (ins (.amoAnd d a b ord sc wd)) .amo 5 d a b ord sc wd s
/-- AMO.OR (R162). -/
def execAmoOr (d a b : BitVec 5) (ord : BitVec 2) (sc : BitVec 3) (wd : BitVec 1) (s : State) : Out :=
  opAmo (ins (.amoOr d a b ord sc wd)) .amo 6 d a b ord sc wd s
/-- AMO.XOR (R162). -/
def execAmoXor (d a b : BitVec 5) (ord : BitVec 2) (sc : BitVec 3) (wd : BitVec 1) (s : State) : Out :=
  opAmo (ins (.amoXor d a b ord sc wd)) .amo 7 d a b ord sc wd s
/-- AMO.SWAP (R162). -/
def execAmoSwap (d a b : BitVec 5) (ord : BitVec 2) (sc : BitVec 3) (wd : BitVec 1) (s : State) : Out :=
  opAmo (ins (.amoSwap d a b ord sc wd)) .amo 8 d a b ord sc wd s
/-- CAS (R162). -/
def execCas (d a b : BitVec 5) (ord : BitVec 2) (sc : BitVec 3) (wd : BitVec 1) (s : State) : Out :=
  opAmo (ins (.cas d a b ord sc wd)) .cas 0 d a b ord sc wd s
/-- RED.ADD (R162). -/
def execRedAdd (a b : BitVec 5) (ord : BitVec 1) (sc : BitVec 3) (wd : BitVec 1) (s : State) : Out :=
  opRed (ins (.redAdd a b ord sc wd)) 0 a b ord sc wd s
/-- RED.MIN (R162). -/
def execRedMin (a b : BitVec 5) (ord : BitVec 1) (sc : BitVec 3) (wd : BitVec 1) (s : State) : Out :=
  opRed (ins (.redMin a b ord sc wd)) 1 a b ord sc wd s
/-- RED.MAX (R162). -/
def execRedMax (a b : BitVec 5) (ord : BitVec 1) (sc : BitVec 3) (wd : BitVec 1) (s : State) : Out :=
  opRed (ins (.redMax a b ord sc wd)) 2 a b ord sc wd s
/-- RED.MINN (R162). -/
def execRedMinn (a b : BitVec 5) (ord : BitVec 1) (sc : BitVec 3) (wd : BitVec 1) (s : State) : Out :=
  opRed (ins (.redMinn a b ord sc wd)) 3 a b ord sc wd s
/-- RED.MAXN (R162). -/
def execRedMaxn (a b : BitVec 5) (ord : BitVec 1) (sc : BitVec 3) (wd : BitVec 1) (s : State) : Out :=
  opRed (ins (.redMaxn a b ord sc wd)) 4 a b ord sc wd s
/-- RED.AND (R162). -/
def execRedAnd (a b : BitVec 5) (ord : BitVec 1) (sc : BitVec 3) (wd : BitVec 1) (s : State) : Out :=
  opRed (ins (.redAnd a b ord sc wd)) 5 a b ord sc wd s
/-- RED.OR (R162). -/
def execRedOr (a b : BitVec 5) (ord : BitVec 1) (sc : BitVec 3) (wd : BitVec 1) (s : State) : Out :=
  opRed (ins (.redOr a b ord sc wd)) 6 a b ord sc wd s
/-- RED.XOR (R162). -/
def execRedXor (a b : BitVec 5) (ord : BitVec 1) (sc : BitVec 3) (wd : BitVec 1) (s : State) : Out :=
  opRed (ins (.redXor a b ord sc wd)) 7 a b ord sc wd s

end Sys2Proof.Machine
end

