-- ==== Sys2Proof/Machine/Copy.lean ====
section
/-! DEFINITION. The copy engines: COPY, its reductions, pinning and chains (R253 to R257, R362). -/

namespace Sys2Proof.Machine

/-- A COPY descriptor (R253). -/
structure CopyDesc where
  src  : Word
  dst  : Word
  bar  : Word
  next : Word
  len  : Nat
  rows : Nat
  sstr : Int
  dstr : Int
  deriving DecidableEq, Repr

/-- The fields of a COPY descriptor's bytes. -/
def CopyDesc.ofDesc (bs : List Byte) : CopyDesc :=
  { src := dptr bs 0, dst := dptr bs 8, bar := dptr bs 16, next := dptr bs 24, len := dfield bs 32 4,
    rows := dfield bs 36 2 + 1, sstr := sint 32 (dfield bs 40 4), dstr := sint 32 (dfield bs 44 4) }

/-- The address of row `r` from a base under a signed stride (R255). -/
def rowAt (base : Word) (stride : Int) (r : Nat) : Word := base + BitVec.ofInt 64 (r * stride)

/-- Whether a length, addresses and strides suit a ROP (R254, R269). -/
def ropFits (rop len : Nat) (as : List Word) (strides : List Int) : Bool :=
  let m := if rop = 3 then 16 else 4
  rop == 0 || (len % (if rop = 3 then 272 else 4) == 0 && as.all (fun a => a.toNat % m == 0) &&
    strides.all (fun (d : Int) => d % (m : Int) == 0))

/-- Whether a COPY's values are within the limits of R253 and R254. -/
def CopyDesc.fits (d : CopyDesc) (rop : Nat) (chain : Bool) (pin : Nat) : Bool :=
  d.len ≤ 16777216 && ropFits rop d.len [d.src, d.dst] [d.sstr, d.dstr] && !(chain && d.next == 0) &&
    !(pin ≠ 0 && bitsOf d.src.toNat 63 60 ≠ 0) && !(rop ≠ 0 && bitsOf d.dst.toNat 63 60 == 4)

/-- The 512-byte lines of second-tier memory among some bytes. -/
def linesOf (ls : List Loc) : List Nat :=
  (ls.filterMap (fun l => match l with
    | .mem pa _ => some (pa / 512)
    | _ => none)).eraseDups

/-- Lines pinned or unpinned for a record of a core (R256, R362). -/
def State.pinLines (s : State) (core pin : Nat) (r : Rec) (lines : List Nat) : State :=
  if pin = 1 then
    match r.uid with
    | some u =>
      let x := s.unitAt u
      s.setUnit u { x with pins := x.pins ++ (lines.map (fun l => (core, l))).filter (fun p => !x.pins.contains p) }
    | none => s
  else if pin = 2 then
    { s with units := s.units.map (fun (u : Nat × Unit) =>
        (u.1, { u.2 with pins := u.2.pins.filter (fun p => !(p.1 == core && lines.contains p.2)) })) }
  else s

/-- The rows of a COPY moved one after another (R255). -/
def State.copyRows (s : State) (p : Party) (rop : Nat) (d : CopyDesc) (src dst : List (Word × List Loc)) : State :=
  (List.range d.rows).foldl (fun s r =>
    State.moveParts State.ioRead (fun s ls bs => s.ioWrite p ls bs) rop ((d.len + 15) / 16) 0 s
      (locsAt src (rowAt d.src d.sstr r)) (locsAt dst (rowAt d.dst d.dstr r))) s

/-- The windows that a copy engine takes as source and as destination (R254). -/
def copyWindows (core : Nat) : List Nat × List Nat :=
  if classOf core = .head then ([0, 3, 15], [0, 3, 4, 15]) else ([0, 1, 2, 3], [0, 1, 2, 3, 4])

/-- The ranges of a COPY's rows as numbers that two pointers to one byte share, kept apart by job in second-tier memory. -/
def CopyDesc.spans (d : CopyDesc) (p : Party) (base : Word) (stride : Int) : List (Nat × Nat) :=
  (List.range d.rows).map (fun i =>
    let a := rowAt base stride i
    (p.place a + (if bitsOf a.toNat 63 60 = 0 then 2 ^ 65 * (p.job + 1) else 0), d.len))

/-- Whether two lists of ranges share a byte. -/
def spansMeet (xs ys : List (Nat × Nat)) : Bool :=
  xs.any (fun x => ys.any (fun y => x.2 ≠ 0 && y.2 ≠ 0 && x.1 < y.1 + y.2 && y.1 < x.1 + x.2))

/-- Whether a popped COPY is held by an earlier one of its queue that still waits: where their ranges overlap, or where the
earlier one's descriptor has not been read (R321). -/
def State.copyHeld (s : State) (core : Nat) (p : Party) (r : Rec) (d : CopyDesc) : Bool :=
  ((s.engq s.queue).run.takeWhile (fun e => e.seq ≠ r.seq)).any (fun e => e.todo && (e.desc.isEmpty ||
    (let q := s.recParty core e
     let x := CopyDesc.ofDesc e.desc
     let to0 := x.spans q x.dst x.dstr
     spansMeet (d.spans p d.src d.sstr ++ d.spans p d.dst d.dstr) to0 ||
       spansMeet (d.spans p d.dst d.dstr) (x.spans q x.src x.sstr))))

/-- A COPY's checks before its descriptor is read (R249). -/
def State.copyPre (core : Nat) (pin : BitVec 2) (s : State) (r : Rec) (p : Party) : Try PUnit :=
  (s.ensure (pin = 0 || classOf core == .tile) 0x24).andThen fun s _ => s.headCtr p r

/-- A COPY with its descriptor read: its further checks, then its transfer, which an earlier overlapping one holds (R249,
R253 to R257, R321). -/
def State.copyTry (core rop : Nat) (chain : Bool) (pin : BitVec 2) (s : State) (r : Rec) (p : Party) : Try (Option Rec) :=
  let bs := r.desc
  let d := CopyDesc.ofDesc bs
  (s.ensure (dfield bs 38 2 == 0 && dfield bs 48 16 == 0) 0x23).andThen fun s _ =>
  (s.ensure (d.fits rop chain pin.toNat) 0x24).andThen fun s _ =>
  let ranges (base : Word) (st : Int) := (List.range d.rows).map (fun i => (rowAt base st i, d.len))
  (s.operands p .load (copyWindows core).1 (ranges d.src d.sstr)).andThen fun s src =>
  (s.operands p .store (copyWindows core).2 (ranges d.dst d.dstr)).andThen fun s dst =>
  (s.barCheck p d.bar).andThen fun s bar =>
  (s.opReady [src.wait, dst.wait, bar, if s.copyHeld core p r d then some false else none]).andThen fun s _ =>
  let lines := linesOf (src.locs.flatMap (·.2))
  let mine := s.pinnedBy core
  (s.ensure (pin.toNat ≠ 1 || mine.length + (lines.filter (fun l => !mine.contains l)).length ≤ 2048) 0x2D).andThen fun s _ =>
  (s.dataOk (src.locs ++ (if rop = 0 then [] else dst.locs))).andThen fun s _ =>
  let s1 := (s.copyRows p rop d src.locs dst.locs).pinLines core pin.toNat r lines
  .ok s1 (some { r with subs := addSub [] d.bar (d.rows * d.len), chain := if chain then some d.next else none })

/-- COPY with a reduce operation at the head of the current queue (R244, R255). -/
def State.copyOp (s : State) (rop : Nat) (chain : Bool) (pin : BitVec 2) (desc : Word) : Out :=
  let core := s.queue / 8
  s.popHead (fun s r => s.accepts s.queue 4 r) (State.copyPre core pin) (some desc) (State.copyTry core rop chain pin)

/-- COPY (R253 to R257). -/
def execCopy (_h : RecHdr) (chain : Bool) (pin : BitVec 2) (desc : Word) (s : State) : Out := s.copyOp 0 chain pin desc
/-- COPY with FADD: fl32 sums, no FPST flag (R255). -/
def execCopyFadd (_h : RecHdr) (chain : Bool) (pin : BitVec 2) (desc : Word) (s : State) : Out := s.copyOp 1 chain pin desc
/-- COPY with IADD: sums modulo 2^32 (R255). -/
def execCopyIadd (_h : RecHdr) (chain : Bool) (pin : BitVec 2) (desc : Word) (s : State) : Out := s.copyOp 2 chain pin desc
/-- COPY with RI32: chunks added, their flag planes ORed (R95, R96, R255). -/
def execCopyRi32 (_h : RecHdr) (chain : Bool) (pin : BitVec 2) (desc : Word) (s : State) : Out := s.copyOp 3 chain pin desc
/-- COPY with IMAX: the signed larger (R255). -/
def execCopyImax (_h : RecHdr) (chain : Bool) (pin : BitVec 2) (desc : Word) (s : State) : Out := s.copyOp 4 chain pin desc
/-- COPY with OR (R255). -/
def execCopyOr (_h : RecHdr) (chain : Bool) (pin : BitVec 2) (desc : Word) (s : State) : Out := s.copyOp 5 chain pin desc

end Sys2Proof.Machine
end

