-- ==== Sys2Proof/Machine/Collective.lean ====
section
/-! DEFINITION. The collective engines: slots and their triggers, QPW, QPWR, RAFTX and RAFTA (R96, R267 to R271, R421,
R424, R433, R434). -/

namespace Sys2Proof.Machine

/-- A collective slot of a core (R267). -/
def State.cslot (s : State) (core slot : Nat) : CSlot := (SMap.find s.cslots (64 * core + slot)).getD ⟨none, none⟩

/-- The state with a collective slot replaced; an empty one is not listed. -/
def State.setCslot (s : State) (core slot : Nat) (c : CSlot) : State :=
  { s with cslots := SMap.set s.cslots ⟨none, none⟩ (64 * core + slot) c }

/-- What an entry of a slot does: QPW is a write with ROP 0. -/
inductive Entry where
  | write (rop : Nat)
  | reduce (op : Nat)
  | back
  deriving DecidableEq, Repr

/-- What a parked record does, by its type and its ROP or OP (R269 to R271). -/
def Rec.entry (r : Rec) : Entry :=
  match bitsOf r.bits.toNat 127 122 with
  | 0x11 => .write (bitsOf r.bits.toNat 90 88)
  | 0x14 => .reduce (bitsOf r.bits.toNat 90 89)
  | 0x15 => .back
  | _ => .write 0

/-! ### QPW and QPWR (R269) -/

/-- A QPW or QPWR descriptor. -/
structure QpwDesc where
  src  : Word
  dst  : Word
  bar  : Word
  rbar : Word
  len  : Nat
  dm   : Nat
  deriving DecidableEq, Repr

/-- The fields of a QPW descriptor's bytes. -/
def QpwDesc.ofDesc (x : List Byte) : QpwDesc :=
  { src := dptr x 0, dst := dptr x 8, bar := dptr x 16, rbar := dptr x 24, len := dfield x 32 4, dm := dfield x 36 2 }

/-- The checks of a descriptor at pop (R249, R269). -/
def State.qpwCheck (s : State) (rop : Nat) (p : Party) (x : List Byte) : Try PUnit :=
  let d := QpwDesc.ofDesc x
  (s.ensure (dfield x 38 26 == 0) 0x23).andThen fun s _ =>
  s.ensure (d.dm < s.jobMembers p.job && ropFits rop d.len [d.src, d.dst] []) 0x24

/-- The party that DST is resolved for: through the job's shared extent map (R269, R291). -/
def State.sharedParty (s : State) (p : Party) : Party :=
  if p.task then p else { p with xtab := s.sharedMap p.job, dom := jobDom p.job }

/-- Checks 1 to 4 of R122 for a store of `n` bytes to another member's memory: the check that fails, and its first byte. -/
def Party.farBad (p : Party) (a : Word) (n : Nat) : Option (Nat × Word) :=
  let e := (p.extent (bitsOf a.toNat 59 56)).1
  let off := bitsOf a.toNat 55 0
  if bitsOf a.toNat 63 60 ≠ 0 then some (1, a)
  else if !xValid e || xSize e ≤ off then some (2, a)
  else if off + n > xSize e then some (3, a + BitVec.ofNat 64 (xSize e - off))
  else if !xW e then some (4, a)
  else none

/-- The job address of DST at another member, with checks 1 to 4 at the sender, part by part (R248, R269). -/
def State.remoteDst (s : State) (p : Party) (a : Word) (n : Nat) : Try Nat :=
  if n = 0 then .ok s 0
  else match p.farBad a n with
    | none => .ok s (xBase (p.extent (bitsOf a.toNat 59 56)).1 + bitsOf a.toNat 55 0)
    | some b =>
      let c := ((parts16 (n / 16 + 1) a n).findSome? (fun x => p.farBad x.1 x.2)).getD b
      .fault 0x2B c.1 c.2

/-- A record's data cut into frames of at most `m` bytes: offset and bytes. -/
def frameParts (m : Nat) (bs : List Byte) : List (Nat × List Byte) :=
  (groups m bs.length bs).zipIdx.map (fun g => (m * g.2, g.1))

/-- The DATA frames of a record sent to a member; the stream and number that it then waits for (R421, R424, R269). -/
def State.sendData (s : State) (p : Party) (r : Rec) (dm rop addr rbar : Nat) (bs : List Byte) : State × List (Nat × Nat) :=
  let k := streamKey p.job false dm
  (frameParts (if rop = 3 then 4080 else 4096) bs).foldl (fun (x : State × List (Nat × Nat)) f =>
    let h := x.1.frameOf p.job 0 rop
    let s1 := x.1.sendOwned r.seq k { h with
      dstm := dm, addr := addr + f.1, chunk := f.2.length, payload := f.2, rbar := rbar, tsv := r.ts.isSome,
      ts := match r.ts with | some (t, _) => t.toNat | none => 0 }
    (s1, addWait x.2 k (s1.stream k).seq)) (s, [])

/-- A QPW or QPWR starts: to its own member over UCIe or the mesh, to another by fabric (R248, R269). -/
def State.qpwStart (s : State) (rop : Nat) (r : Rec) (p : Party) (x : List Byte) : Try (Option Rec) :=
  let d := QpwDesc.ofDesc x
  let dp := s.sharedParty p
  (if p.task then .ok s .unit else s.mapReady p.job).andThen fun s _ =>
  (s.operand p .load [0, 1, 2, 3] d.src d.len).andThen fun s so =>
  let src := locsAt so.locs d.src
  if d.dm = s.jobMemb p.job then
    (s.operand dp .store [0] d.dst d.len).andThen fun s dso =>
    let dst := locsAt dso.locs d.dst
    (s.barCheck p d.bar).andThen fun s b =>
    (s.barCheck p d.rbar).andThen fun s rb =>
    (s.opReady [so.wait, dso.wait, b, rb]).andThen fun s _ =>
    (s.dataOk ((d.src, src) :: (if rop = 0 then [] else [(d.dst, dst)]))).andThen fun s _ =>
    let s1 := State.moveParts (fun s ls => (s.touchReads ls, s.readLocs ls)) (fun s ls bs => s.writeFor dp ls bs) rop
      ((d.len + 15) / 16) 0 s src dst
    .ok s1 (some { r with subs := addSub (addSub [] d.bar d.len) d.rbar d.len })
  else
    (s.remoteDst dp d.dst d.len).andThen fun s addr =>
    (s.barCheck p d.bar).andThen fun s b =>
    (s.opReady [so.wait, b]).andThen fun s _ =>
    (s.dataOk [(d.src, src)]).andThen fun s _ =>
    if s.streamFull (streamKey p.job false d.dm) then .wait s false
    else
      let y := (s.touchReads src).sendData p r d.dm rop addr d.rbar.toNat (s.readLocs src)
      .ok y.1 (some { r with subs := addSub [] d.bar d.len, waits := y.2 })

/-! ### RAFTX (R270, R433, R434) -/

/-- A RAFTX descriptor. -/
structure RaftxDesc where
  src    : Word
  dst    : Word
  bar    : Word
  nchunk : Nat
  group  : Nat
  hr     : Nat
  deriving DecidableEq, Repr

/-- The fields of a RAFTX descriptor's bytes. -/
def RaftxDesc.ofDesc (x : List Byte) : RaftxDesc :=
  { src := dptr x 0, dst := dptr x 8, bar := dptr x 16, nchunk := dfield x 24 4, group := dfield x 28 2, hr := dfield x 30 1 }

/-- NCHUNK within its limits (R270, R271). -/
def chunksFit (n : Nat) : Bool := 1 ≤ n && n ≤ 1048576

/-- Whether two ranges of `n` bytes overlap without being one range (R270). -/
def partOverlap (a b : Word) (n : Nat) : Bool := a != b && a.toNat < b.toNat + n && b.toNat < a.toNat + n

/-- The checks of a descriptor at pop (R249, R270). -/
def State.raftxCheck (s : State) (op : Nat) (p : Party) (x : List Byte) : Try PUnit :=
  let d := RaftxDesc.ofDesc x
  (s.ensure (dfield x 31 33 == 0) 0x23).andThen fun s _ =>
  (s.ensure (s.rgEn d.group && (p.task || s.rgJob d.group == p.job)) 0x25).andThen fun s _ =>
  s.ensure (chunksFit d.nchunk && d.hr == ceilLog2 (s.rgMembers d.group) &&
    !partOverlap d.src d.dst (d.nchunk * chunkBytes op)) 0x24

/-- The windows of a collective's chunks: those of R122 that hold bytes. Registers hold none (check 1). -/
def State.chunksAt (s : State) (p : Party) (k : AccKind) (a : Word) (n : Nat) : Try (List Loc × Option Bool) :=
  (s.operand p k (if k = .store then [0, 1, 2, 3, 4, 15] else [0, 1, 2, 3, 15]) a n).andThen fun s x =>
  let ls := locsAt x.locs a
  if (regOff ls).isSome then .fault 0x2B 1 a else .ok s (ls, x.wait)

/-- A RAFTX starts, unless its group is held: its reduction is set up (R270, R434). -/
def State.raftxStart (s : State) (core op : Nat) (r : Rec) (p : Party) (x : List Byte) : Try (Option Rec) :=
  let d := RaftxDesc.ofDesc x
  let n := d.nchunk * chunkBytes op
  if (s.rg d.group).hold then .wait s false
  else
  (s.chunksAt p .load d.src n).andThen fun s so =>
  let src := so.1
  (s.chunksAt p .store d.dst n).andThen fun s dso =>
  (s.barCheck p d.bar).andThen fun s b =>
  (s.opReady [so.2, dso.2, b]).andThen fun s _ =>
  (s.dataOk [(d.src, src)]).andThen fun s _ =>
  let y : Raft := { seq := r.seq, core := core, group := d.group, round := 0, op := op, src := d.src, dst := d.dst,
                    bar := d.bar, nchunk := d.nchunk, got := [], endpoint := false, usedEp := false, todo := [] }
  .ok { (s.touchReads src) with rafts := s.rafts ++ [y] } (some r)

/-! ### RAFTA (R96, R271) -/

/-- The 256 bytes of FP32 that a reduced chunk gives (R96). -/
def chunkBack (bs : List Byte) (x hr : Nat) : List Byte :=
  let plane := dfield bs 256 16
  (List.range 64).flatMap (fun j => wordBytes 4 ((ri32Back (bitsOf plane (2 * j + 1) (2 * j)) (dfield bs (4 * j) 4) x hr).setWidth 64))

/-- The checks of a descriptor at pop (R249, R271). -/
def State.raftaCheck (s : State) (x : List Byte) : Try PUnit :=
  (s.ensure (dfield x 29 35 == 0) 0x23).andThen fun s _ => s.ensure (chunksFit (dfield x 24 4) && dfield x 28 1 ≤ 16) 0x24

/-- RAFTA: chunks converted one after another as a local copy (R271, R323). -/
def State.raftaStart (s : State) (r : Rec) (p : Party) (x : List Byte) : Try (Option Rec) :=
  let src := dptr x 0
  let dst := dptr x 8
  let xp := dptr x 16
  let n := dfield x 24 4
  let hr := dfield x 28 1
  (s.chunksAt p .load src (272 * n)).andThen fun s so =>
  (s.chunksAt p .store dst (256 * n)).andThen fun s dso =>
  (s.chunksAt p .load xp n).andThen fun s xo =>
  (s.opReady [so.2, dso.2, xo.2]).andThen fun s _ =>
  let ls := so.1
  let ld := dso.1
  let lx := xo.1
  (s.dataOk [(src, ls), (xp, lx)]).andThen fun s _ =>
  let xs := s.readLocs lx
  (s.ensure (xs.all (fun b => b ≠ 0 && b ≠ 255)) 0x24).andThen fun s _ =>
  .ok (((s.touchReads ls).touchReads lx) |> fun s => (List.range n).foldl (fun s c =>
    s.writeFor p ((ld.drop (256 * c)).take 256) (chunkBack (s.readLocs ((ls.drop (272 * c)).take 272)) (xs.getD c 0).toNat hr)) s)
    (some r)

/-! ### Slots (R267, R268) -/

/-- An entry's checks at pop. -/
def State.entryCheck (s : State) (k : Entry) (p : Party) (x : List Byte) : Try PUnit :=
  match k with
  | .write rop => s.qpwCheck rop p x
  | .reduce op => s.raftxCheck op p x
  | .back => s.raftaCheck x

/-- An entry starts. -/
def State.entryStart (s : State) (core : Nat) (k : Entry) (r : Rec) (p : Party) (x : List Byte) : Try (Option Rec) :=
  match k with
  | .write rop => s.qpwStart rop r p x
  | .reduce op => s.raftxStart core op r p x
  | .back => s.raftaStart r p x

/-- Whether a trigger's condition holds (R268). -/
def State.triggerDue (s : State) : Trigger → Bool
  | .counter c v => v ≤ (s.counter c).value
  | .time t _ => t.toNat ≤ s.time.toNat

/-- Records of a queue that have started and not completed. -/
def EngQ.started (e : EngQ) : Nat := (e.run.filter (fun (r : Rec) => !r.todo)).length

/-- An entry runs once fewer than 16 others do (R244). -/
def State.entryRun (s : State) (core : Nat) (k : Entry) (r : Rec) (p : Party) (x : List Byte) : Try (Option Rec) :=
  if 16 ≤ (s.engq (8 * core + 4)).started then .wait s false else s.entryStart core k r p x

/-- A slot with an entry and a due trigger fires: it is freed, its trigger's record completes, and its entry runs, or waits
to (R267, R268). -/
def State.fireSlot (s : State) (core slot : Nat) : State :=
  let q := 8 * core + 4
  match s.cslot core slot with
  | ⟨some e, some (t, tr)⟩ =>
    if !s.triggerDue t then s
    else
      let s1 := (s.setCslot core slot ⟨none, none⟩).finishRec tr true
      let e' := { e with fired := true, ts := match t with | .time a w => some (a, w) | _ => none }
      match s1.entryRun core e.entry e' (s1.recParty core e') e.desc with
      | .ok s2 none => s2
      | .ok s2 (some r) => ((s2.markFills s1 none (some r.seq)).putRun q { r with todo := false }).startRafts
      | .wait s2 z => ((s1.putRun q { e' with todo := true }).portHeld q z).keepPages s2
      | .fault f c a => s1.recFault q { e' with desc := [] } f c a
  | _ => s

/-- Whether a record is a slot's entry: its type, and SLOT (R267). -/
def Rec.entryOf (r : Rec) (slot : Nat) : Bool :=
  [0x10, 0x11, 0x14, 0x15].contains (bitsOf r.bits.toNat 127 122) && bitsOf r.bits.toNat 96 91 == slot

/-- Whether a slot has an entry: one that is parked, or another that was popped for it and waits for its descriptor (R244,
R267). -/
def State.slotTaken (s : State) (core slot seq : Nat) : Bool :=
  (s.cslot core slot).entry.isSome ||
    (s.engq (8 * core + 4)).run.any (fun x => x.todo && !x.fired && x.seq ≠ seq && x.entryOf slot)

/-- An entry's checks before its descriptor is read (R249, R267). -/
def State.entryPre (core slot : Nat) (s : State) (r : Rec) (p : Party) : Try PUnit :=
  (s.ensure (slot == 0 || r.fired || !s.slotTaken core slot r.seq) 0x24).andThen fun s _ => s.headCtr p r

/-- An entry with its descriptor read; one that has passed its checks and waits runs. With SLOT 0, or once its slot has fired, it runs; else it is parked (R249, R267). -/
def State.entryTry (core : Nat) (k : Entry) (slot : Nat) (s : State) (r : Rec) (p : Party) : Try (Option Rec) :=
  if r.todo then s.entryRun core k r p r.desc
  else
  (s.entryCheck k p r.desc).andThen fun s _ =>
  if slot == 0 || r.fired then s.entryRun core k r p r.desc
  else
    let c := s.cslot core slot
    .ok ((s.setCslot core slot { c with entry := some { r with todo := false } }).fireSlot core slot) none

/-- Reductions that a popped record has set up start. -/
def thenRafts (o : Out) : Out :=
  match o with
  | .next s => .next s.startRafts
  | x => x

/-- An entry at the head of the current queue (R244, R267). -/
def State.entryOp (s : State) (k : Entry) (slot : BitVec 6) (desc : Word) : Out :=
  let core := s.queue / 8
  thenRafts (s.popHead (fun s r => s.accepts s.queue (if slot = 0 then 16 else 80) r) (State.entryPre core slot.toNat)
    (some desc) (State.entryTry core k slot.toNat))

/-- A trigger at the head of the current queue: it fires its slot at once if it can, or waits there (R267, R268). -/
def State.triggerOp (s : State) (slot : BitVec 6) (t : Trigger) (fits : State → Party → Bool) (late : State → Bool) : Out :=
  s.popPlain (fun s r => s.accepts s.queue 80 r) (fun s r p =>
    let core := s.queue / 8
    (s.ensure (s.cslot core slot.toNat).trigger.isNone 0x24).andThen fun s _ =>
    (s.headCtr p r).andThen fun s _ =>
    (s.ensure (fits s p) 0x25).andThen fun s _ =>
    let c := s.cslot core slot.toNat
    let r' := { r with flags := r.flags ||| (if late s then 8 else 0) }
    .ok ((s.setCslot core slot.toNat { c with trigger := some (t, r') }).fireSlot core slot.toNat) none)

/-! ### Meanings -/

/-- QPW (R267, R269). -/
def execQpw (_h : RecHdr) (slot : BitVec 6) (desc : Word) (s : State) : Out := s.entryOp (.write 0) slot desc
/-- QPWR: the destination applies ROP (R267, R269). -/
def execQpwr (_h : RecHdr) (slot : BitVec 6) (rop : BitVec 3) (desc : Word) (s : State) : Out :=
  s.entryOp (.write rop.toNat) slot desc
/-- RAFTX with RI32 add (R267, R270). -/
def execRaftxRi32 (_h : RecHdr) (slot : BitVec 6) (desc : Word) (s : State) : Out := s.entryOp (.reduce 0) slot desc
/-- RAFTX with I32 max (R267, R270). -/
def execRaftxMax (_h : RecHdr) (slot : BitVec 6) (desc : Word) (s : State) : Out := s.entryOp (.reduce 1) slot desc
/-- RAFTX with OR (R267, R270). -/
def execRaftxOr (_h : RecHdr) (slot : BitVec 6) (desc : Word) (s : State) : Out := s.entryOp (.reduce 2) slot desc
/-- RAFTA (R267, R271). -/
def execRafta (_h : RecHdr) (slot : BitVec 6) (desc : Word) (s : State) : Out := s.entryOp .back slot desc

/-- ARM: a counter trigger (R268). -/
def execArm (_h : RecHdr) (slot : BitVec 6) (ctr : BitVec 13) (threshold : BitVec 48) (s : State) : Out :=
  s.triggerOp slot (.counter ctr.toNat threshold.toNat) (fun s p => s.ctrFits p ctr.toNat) (fun _ => false)

/-- TSEND: a time trigger; LATE where its time has passed (R268). -/
def execTsend (_h : RecHdr) (slot : BitVec 6) (width : BitVec 16) (time : Word) (s : State) : Out :=
  s.triggerOp slot (.time time width.toNat) (fun _ _ => true) (fun s => time.toNat ≤ s.time.toNat)

/-- SLOT_COUNTER_TRIGGER: the counter has reached an ARM's threshold (R268). -/
def execSlotCounterTrigger (core slot : Nat) (s : State) : Out :=
  match (s.cslot core slot).trigger with
  | some (.counter _ _, _) => .next (s.fireSlot core slot)
  | _ => .next s

/-- SLOT_TIME_TRIGGER: TIME has reached a TSEND's time (R268). -/
def execSlotTimeTrigger (core slot : Nat) (s : State) : Out :=
  match (s.cslot core slot).trigger with
  | some (.time _ _, _) => .next (s.fireSlot core slot)
  | _ => .next s

end Sys2Proof.Machine
end

