-- ==== Sys2Proof/Machine/Sync.lean ====
section
/-! DEFINITION. Fences, seals, barriers, waits, cache write-back and lane alignment (R165 to R180, R197, R198). -/

namespace Sys2Proof.Machine

/-! ### Fences (R165, R166) -/

/-- FENCE with its kind; scopes 110 and 111 are illegal. A release waits until every earlier access has performed at
its scope (R308). -/
def fence (i : Ins) (rel : Bool) (sc : BitVec 3) (s : State) : Out :=
  if !scopeOk sc then s.illegal i 0
  else if rel && !s.released s.slot sc.toNat then s.wait false
  else s.retire s.cur i

/-- FENCE.ACQ: every earlier load and atomic has returned its value already (R165). -/
def execFenceAcq (sc : BitVec 3) (s : State) : Out := fence (ins (.fenceAcq sc)) false sc s
/-- FENCE.REL (R165). -/
def execFenceRel (sc : BitVec 3) (s : State) : Out := fence (ins (.fenceRel sc)) true sc s
/-- FENCE.SC (R165). -/
def execFenceSc (sc : BitVec 3) (s : State) : Out := fence (ins (.fenceSc sc)) true sc s

/-- Whether a bank-fill store of the current unit to a layer of the stacks named waits in some column, or stands in the
unit's side log (R166, R322). -/
def State.fillsLeft (s : State) (named : Nat → Bool) (layer : Nat) : Bool :=
  s.cur.side.any (fun e => bitsOf e.addr.toNat 63 60 == 4 && named (bitsOf e.addr.toNat 59 57) &&
    bitsOf e.addr.toNat 30 27 == layer) ||
  s.lanes.any (fun l => named (l.1 / 64) &&
    l.2.fills.any (fun (f : FillWait) => f.uid == s.cur.uid && f.uid.isSome && f.bank / 4 == layer))

/-- LFENCE (R166). With ALL, a must be 0. -/
def execLfence (a : BitVec 5) (all : BitVec 1) (layer : BitVec 4) (s : State) : Out :=
  let i := ins (.lfence a all layer)
  if all = 1 ∧ a ≠ 0 then s.illegal i 0
  else if s.fillsLeft (fun st => all = 1 || st == (s.cur.rd a.toNat).toNat % 8) layer.toNat then s.wait false
  else s.retire s.cur i

/-! ### Seals (R167 to R169, R397) -/

/-- What checks 1 to 3 of a range in window 0x0 give: its extent entry and job address (R167). -/
def Party.rangeCheck (p : Party) (a : Word) (n : Nat) : Except AccFault (BitVec 128 × Nat) :=
  let e := (p.extent (bitsOf a.toNat 59 56)).1
  let off := bitsOf a.toNat 55 0
  if bitsOf a.toNat 63 60 ≠ 0 then .error ⟨1, a, 0⟩
  else if !xValid e || xSize e ≤ off then .error ⟨2, a, 0⟩
  else if off + n > xSize e then .error ⟨3, a, 0⟩
  else .ok (e, xBase e + off)

/-- The party of a saved unit's side log (R410). -/
def State.savedParty (s : State) (x : Unit) (sup : Bool) : Party :=
  { level := .unit, core := x.lastCore, job := x.job, key := s.jobKey x.job, xtab := x.xtab, dom := x.lctr,
    sup := if sup then some (s.trapExtent x.job 0, s.trapExtent x.job 16) else none, race := none, engine := false,
    task := false }

/-- Whether a store of the job to a range has been issued and not performed (R168 step 3). -/
def State.storesLeft (s : State) (j a n : Nat) : Bool :=
  let hits (p : Party) (e : SideEntry) : Bool :=
    let x := p.place e.addr
    x < a + n && a < x + e.data.length && bitsOf e.addr.toNat 63 60 == 0
  s.ctxs.any (fun c => c.2.uid.isSome && (s.unitOf c.1).job == j && c.2.side.any (fun e => hits (s.entryParty c.1 e) e)) ||
    s.units.any (fun u => u.2.job == j && u.2.side.any (fun e => hits (s.savedParty u.2 e.sup) e))

/-- SEAL (R167, R168). -/
def execSeal (d a : BitVec 5) (s : State) : Out :=
  let i := ins (.seal d a)
  let ea := s.cur.rd a.toNat
  let n := (s.cur.rd d.toNat).toNat
  let p := s.party
  if ea.toNat % 128 ≠ 0 ∨ n % 128 ≠ 0 ∨ n = 0 then s.faulted i ⟨9, ea, 0⟩
  else match p.rangeCheck ea n with
    | .error f => s.faulted i f
    | .ok (e, ja) =>
      if !xW e && !xSeal e then s.faulted i ⟨4, ea, 0⟩
      else if !s.released s.slot scopeJob then s.wait false
      else
        let x := s.job p.job
        let done := s.sealed p.job ja n
        if !done ∧ 64 ≤ x.seals.length then s.trap i ⟨2, 0, ea, 0⟩
        else
          let s1 := if done then s else s.setJob p.job { x with seals := x.seals ++ [(ja, n)] }
          if s1.storesLeft p.job ja n then s1.wait false else s1.retire s1.cur i

/-- A sealed range without a range: what is left below and above it (R397). -/
def sealMinus (a n : Nat) (r : Nat × Nat) : List (Nat × Nat) :=
  if a + n ≤ r.1 ∨ r.1 + r.2 ≤ a then [r]
  else (if r.1 < a then [(r.1, a - r.1)] else []) ++ (if a + n < r.1 + r.2 then [(a + n, r.1 + r.2 - (a + n))] else [])

/-- UNSEAL (R167, R169, R397): supervisor privilege. -/
def execUnseal (d a : BitVec 5) (s : State) : Out :=
  let i := ins (.unseal d a)
  let ea := s.cur.rd a.toNat
  let n := (s.cur.rd d.toNat).toNat
  let p := s.party
  if s.cur.level = .unit then s.denied i
  else if ea.toNat % 128 ≠ 0 ∨ n % 128 ≠ 0 ∨ n = 0 then s.faulted i ⟨9, ea, 0⟩
  else match p.rangeCheck ea n with
    | .error f => s.faulted i f
    | .ok (_, ja) =>
      let x := s.job p.job
      let left := x.seals.flatMap (sealMinus ja n)
      if 64 < left.length ∨ (x.seals.length = 64 ∧ x.seals.any (fun r => (sealMinus ja n r).length == 2)) then
        s.trap i ⟨2, 0, ea, 0⟩
      else
        let s1 := s.setJob p.job { x with seals := left }
        s1.retire s1.cur i

/-! ### Barriers (R170 to R177) -/

/-- A record a unit registers: it enters the watch list if there is room, GUARD and EPOCH at the first (R177, R313). -/
def Ctx.register (c : Ctx) (a : Word) (gen : Nat) (upd : Watch → Watch) : Ctx :=
  let c1 := if c.guard = 0 then { c with guard := a, epoch := BitVec.ofNat 6 gen } else c
  if c1.watch.any (fun w => w.addr == a) then
    { c1 with watch := c1.watch.map (fun w => if w.addr == a then upd w else w) }
  else if c1.watch.length < 4 then { c1 with watch := c1.watch ++ [upd ⟨a, 0⟩] }
  else c1

/-- The checks and waits that the barrier instructions share (R171); `k` takes the record and its bytes. `own` says
that a record of another job's tag is refused, `yields` that its waits are a yield point (R200), `ready` that what it is
a release of has performed. -/
def State.barrier (s : State) (i : Ins) (a : Word) (ready : State → Bool) (own yields : Bool) (k : State → List Loc → Nat → Out) : Out :=
  let p := s.party
  let wait (s : State) (z : Bool) : Out := if yields then s.yieldPoint z else s.wait z
  if bitsOf a.toNat 63 60 = 15 then s.faulted i ⟨1, a, 0⟩
  else match s.locate p .barrier 16 a 16 with
  | (s1, .fault f) => s1.faulted i f
  | (s1, .held z _) => wait s1 z
  | (s1, .absent _) => wait s1 false
  | (s1, .ok ls ts) =>
    if !s1.cur.side.isEmpty || !ready s1 then wait s1 false
    else match s1.race p .barrier false a ts with
      | .error f => s1.faulted i f
      | .ok s2 =>
        if s1.eccBad .barrier ls then s1.faulted i ⟨8, a, 0⟩
        else
          let r := ofBytes (s1.readLocs ls)
          if own && bitsOf r 127 112 ≠ s.jobTag p.job then s1.trap i ⟨0x0A, 0, a, BitVec.ofNat 128 r⟩
          else k (s2.noteSpad s.slot a) ls r

/-- BARINIT (R172). -/
def execBarinit (d a : BitVec 5) (sc : BitVec 3) (s : State) : Out :=
  let i := ins (.barinit d a sc)
  let ea := s.cur.rd a.toNat
  if !scopeOk sc then s.illegal i 0
  else s.barrier i ea (fun s => s.released s.slot sc.toNat) false false (fun s ls r =>
    let tag := s.jobTag s.party.job
    let c := (s.cur.rd d.toNat).toNat % 65536
    let gen := if bitsOf r 127 112 = tag then r % 65536 else 0
    let r' := setBits (setBits (setBits (2 ^ 56 * (c == 0).toNat) 127 112 tag) 31 16 c) 15 0 gen
    let s1 := s.putBar s.party.job ls r' false
    s1.retire (s1.cur.register ea r (fun w => { w with arrived := 0 })) i)

/-- BARARRIVE (R173, R175). -/
def execBararrive (d a : BitVec 5) (trapf : BitVec 1) (sc : BitVec 3) (s : State) : Out :=
  let i := ins (.bararrive d a trapf sc)
  let ea := s.cur.rd a.toNat
  if !scopeOk sc then s.illegal i 0
  else s.barrier i ea (fun s => s.quiet s.slot && s.released s.slot sc.toNat) true false (fun s ls r =>
    let g := r % 65536
    if bitOf r 56 then
      let s1 := s.setCur (s.cur.register ea r id)
      if trapf = 1 then s1.trap i ⟨0x0B, 0, ea, BitVec.ofNat 128 r⟩
      else s1.retire (s1.cur.wr d.toNat (toWord (2 ^ 63 + g))) i
    else if bitsOf r 47 32 = bitsOf r 31 16 then
      s.retire ((s.cur.register ea r id).wr d.toNat (toWord (2 ^ 62 + g))) i
    else
      let s1 := s.putBar s.party.job ls (setBits r 47 32 (bitsOf r 47 32 + 1)) true
      s1.retire ((s1.cur.register ea r (fun w => { w with arrived := g + 1 })).wr d.toNat (toWord g)) i)

/-- BARWAIT (R176); a yield point (R200). Every attempt raises INHERIT, one that returns or traps too; a trap shows the record
as it was read (R368). -/
def execBarwait (d a : BitVec 5) (trapf : BitVec 1) (sc : BitVec 3) (s : State) : Out :=
  let i := ins (.barwait d a trapf sc)
  let ea := s.cur.rd a.toNat
  if !scopeOk sc then s.illegal i 0
  else s.barrier i ea (fun _ => true) true true (fun s0 ls r0 =>
    let pr := s0.effPrio s0.slot
    let up : Bool := decide (bitsOf r0 55 48 < pr)
    let r := if up then setBits r0 55 48 pr else r0
    let s := if up then s0.putBar s0.party.job ls r false else s0
    let gen := r % 65536
    let leave (c : Ctx) : Ctx := { c with watch := c.watch.filter (fun w => w.addr ≠ ea) }
    if bitOf r 56 then
      (if trapf = 1 then s.trap i ⟨0x0B, 0, ea, BitVec.ofNat 128 r0⟩
      else s.retire (leave (s.cur.wr d.toNat (toWord (2 ^ 63 + gen)))) i)
    else if gen ≠ (s.cur.rd d.toNat).toNat % 65536 then
      let c := s.cur
      let c1 := if c.guard = ea then { c with epoch := BitVec.ofNat 6 gen } else c
      s.retire (leave (c1.wr d.toNat (toWord gen))) i
    else s.yieldPoint false)

/-- BARPEND (R174). -/
def execBarpend (d a : BitVec 5) (s : State) : Out :=
  let i := ins (.barpend d a)
  s.barrier i (s.cur.rd a.toNat) (fun _ => true) true false (fun s ls r =>
    let sum := bitsOf r 111 64 + (s.cur.rd d.toNat).toNat % 2 ^ 48
    let r' := if 2 ^ 48 ≤ sum then setBits (setBits r 111 64 (2 ^ 48 - 1)) 57 57 1 else setBits r 111 64 sum
    let s1 := s.putBar s.party.job ls r' false
    s1.retire s1.cur i)

/-! ### Counters and time (R179, R180) -/

/-- CWAIT (R179); a yield point. -/
def execCwait (d a : BitVec 5) (s : State) : Out :=
  let i := ins (.cwait d a)
  let n := (s.cur.rd a.toNat).toNat % 8192
  let c := s.counter n
  if !s.ctrFits s.party n then s.denied i
  else if c.state = 3 then s.retire (s.cur.wr d.toNat (toWord (2 ^ 63 + c.value))) i
  else if (s.cur.rd d.toNat).toNat % 2 ^ 48 ≤ c.value then s.retire (s.cur.wr d.toNat (toWord c.value)) i
  else s.yieldPoint false

/-- WAITT (R180); a yield point. -/
def execWaitt (a : BitVec 5) (s : State) : Out :=
  let i := ins (.waitt a)
  if (s.cur.rd a.toNat).toNat ≤ s.time.toNat then s.retire s.cur i else s.yieldPoint false

/-- WAITT_TIME_REACHED: a unit that waits at a WAITT whose time has come goes on (R180), unless a pre-emption request has been
answered by its wait (R200). -/
def execWaittTimeReached (slot : Nat) (s : State) : Out :=
  let c := s.ctx slot
  if (c.st ≠ .running ∧ c.st ≠ .preempt) ∨ c.preq then .next s
  else match s.heldIns slot with
    | some (.waitt a) => if (c.rd a.toNat).toNat ≤ s.time.toNat then .next (s.setCtx slot (c.fall 4)) else .next s
    | _ => .next s

/-! ### Cache write-back (R197, R388) -/

/-- Growth counter of pinned lines that a CWB.INV met (R197). -/
def gPinnedCwb : Nat := 1102

/-- Sectors of a line that a physical range covers. -/
def sectorsIn (line a n : Nat) : BitVec 4 :=
  (List.range 4).foldl (fun m k =>
    let pa := line * 512 + 128 * k
    if a < pa + 128 && pa < a + n then m ||| 1#4 <<< k else m) 0

/-- One line under a CWB of physical ranges: dirty sectors of the ranges are written back, and with INV the line goes
unless it is pinned. Tags of a line written back spill (R197, R317). -/
def State.cwbLine (s : State) (rs : List (Nat × Nat)) (inv : Bool) (l : Line) : State :=
  let m := rs.foldl (fun (m : BitVec 4) r => m ||| sectorsIn l.line r.1 r.2) 0
  if m = 0 then s
  else
    let s1 := if l.dirty &&& m ≠ 0 ∨ inv then s.spillTags l.line else s
    let upd (f : Line → Option Line) : List Line :=
      s1.lines.filterMap (fun x => if x.line == l.line && x.slice == l.slice then f x else some x)
    if inv && !s.pinned l.line then { s1 with lines := upd (fun _ => none) }
    else
      let s2 := { s1 with lines := upd (fun x => some
        { x with dirty := x.dirty &&& ~~~m, old := x.old.filter (fun o => !m.getLsbD o.1) }) }
      if inv then s2.grow gPinnedCwb 1 else s2

/-- The physical ranges of a job range: those of its present pages. -/
def State.physical (s : State) (p : Party) (dom a n : Nat) : List (Nat × Nat) :=
  (pageParts (n / 65536 + 2) a n).filterMap (fun x =>
    match (s.runOf dom p.job x.1).state with
    | .present pa => some (pa + x.1 % 65536, x.2)
    | _ => none)

/-- CWB and CWB.INV: supervisor privilege; at management level a physical range too (R197, R388). -/
def cwb (i : Ins) (inv : Bool) (d a : BitVec 5) (s : State) : Out :=
  let ea := s.cur.rd a.toNat
  let n := (s.cur.rd d.toNat).toNat
  let p := s.party
  let fin (rs : List (Nat × Nat)) : Out :=
    let s1 := s.lines.foldl (fun (s : State) l => s.cwbLine rs inv l) s
    s1.retire s1.cur i
  if s.cur.level = .unit then s.denied i
  else if ea.toNat % 128 ≠ 0 ∨ n % 128 ≠ 0 then s.faulted i ⟨9, ea, 0⟩
  else if n = 0 then s.retire s.cur i
  else if s.cur.level = .management ∧ bitsOf ea.toNat 63 60 = 15 ∧ !bitOf ea.toNat 59 then
    (if bitsOf ea.toNat 58 48 ≠ 0 ∨ bitsOf ea.toNat 47 0 + n > paEnd then s.faulted i ⟨3, ea, 0⟩
    else fin [(bitsOf ea.toNat 47 0, n)])
  else match p.rangeCheck ea n with
    | .error f => s.faulted i f
    | .ok (_, ja) => fin (if p.task then [] else s.physical p (p.extent (bitsOf ea.toNat 59 56)).2 ja n)

/-- CWB (R197). -/
def execCwb (d a : BitVec 5) (s : State) : Out := cwb (ins (.cwb d a)) false d a s
/-- CWB.INV (R197). -/
def execCwbInv (d a : BitVec 5) (s : State) : Out := cwb (ins (.cwbInv d a)) true d a s

/-! ### Alignment of lanes (R198) -/

/-- RALIGN: the named lanes of the core's quadrant are to start their next streams on one tick. Stack cores only. -/
def execRalign (a : BitVec 5) (s : State) : Out :=
  let i := ins (.ralign a)
  let core := coreOf s.slot
  if classOf core ≠ .stack then s.illegal i 0
  else
    let mask := (s.cur.rd a.toNat).toNat % 65536
    let s1 := (maskLanes core mask).foldl (fun (s : State) l =>
      s.setLane l { s.laneOf l with align := some (.pending (s.cclk (core / 4)) mask) }) s
    s1.retire s1.cur i

end Sys2Proof.Machine
end

