-- ==== Sys2Proof/Machine/Queue.lean ====
section
/-! DEFINITION. The queue instructions (R55, R181 to R190, R209, R325). -/

namespace Sys2Proof.Machine

/-- Whether an engine queue is present on a class of core (R55). -/
def queueOn (k : CoreClass) (q : Nat) : Bool :=
  match k with
  | .stack => q == 4
  | .tile => q < 5
  | .head => q == 0 || q == 4

/-- Entries that an engine queue holds; the next record of a chain takes none (R257). -/
def EngQ.used (e : EngQ) : Nat := (e.recs.filter (fun (r : Rec) => !r.chained)).length

/-- PUSH (R53, R55, R183, R184). -/
def execPush (d : BitVec 5) (q : BitVec 3) (s : State) : Out :=
  let i := ins (.push d q)
  let core := coreOf s.slot
  let k := 8 * core + q.toNat
  if !queueOn (classOf core) q.toNat ∨ d.toNat % 2 = 1 then s.illegal i 0
  else if 32 ≤ (s.engq k).used then s.wait false
  else
    let s1 := s.enterRec k s.slot s.cur.uid none (s.cur.rd (d.toNat + 1) ++ s.cur.rd d.toNat)
    s1.retire s1.cur i

/-- PUSHF (R183, R185): tile cores. -/
def execPushf (d : BitVec 5) (s : State) : Out :=
  let i := ins (.pushf d)
  let core := coreOf s.slot
  let x := s.core core
  if classOf core ≠ .tile then s.illegal i 0
  else if 16 ≤ x.fmtq.length then s.wait false
  else
    let s1 := s.setCore core { x with fmtq := x.fmtq ++ [(s.cur.uid.getD 0, s.cur.rd d.toNat)] }
    s1.retire s1.cur i

/-- Words accepted by a lane and not retired (R209). -/
def Lane.used (l : Lane) : Nat := l.words.length + l.issued.length

/-- Whether a VSEND or LPUSH of the current core waits for an island: its own lanes are held, or one of the core's other
context is (R443). -/
def State.islandWait (s : State) (mask : Nat) : Bool :=
  let core := coreOf s.slot
  s.sendHeld core mask || (match s.waitingMask (s.slot ^^^ 1) with
    | some m => s.sendHeld core m
    | none => false)

/-- The room in the fullest of some lanes' word queues; none while a lane's column is scrubbed, which ends before a word
reaches the lane (R183, R331). -/
def State.laneRoom (s : State) (ls : List Nat) : Nat :=
  ls.foldl (fun m l => min m (if (s.laneOf l).scrubbing then 0 else 64 - (s.laneOf l).used)) 64

/-- Words of the current unit entered in the queues of lanes, as one push group (R186, R325). -/
def State.pushWords (s : State) (ls : List Nat) (group : Nat) (ws : List (BitVec 48 × Bool)) : State :=
  let u := s.unitOf s.slot
  let now := s.cclk (coreOf s.slot / 4)
  let new : List LWord := ws.map (fun w => ⟨w.1, s.cur.uid, u.strict, u.lctr, now, group, w.2⟩)
  ls.foldl (fun (s : State) l => s.setLane l { s.laneOf l with words := (s.laneOf l).words ++ new }) s

/-- Words that are to enter the queues of a mask's lanes: as many as there is room for now; the instruction retires with
its last word (R183, R186). -/
def State.enterWords (s : State) (i : Ins) (mask group : Nat) (ws : List (BitVec 48 × Bool)) : Out :=
  let ls := maskLanes (coreOf s.slot) mask
  let n := s.laneRoom ls
  if n = 0 then s.wait false
  else
    let s1 := s.pushWords ls group (ws.take n)
    if ws.length ≤ n then s1.retire s1.cur i
    else .next (s1.setCur { s1.cur with held := true, frz := false, pushing := ws.drop n, pushGroup := group })

/-- An LPUSH: `words` reads what it is to send (R182, R186, R209, R443). -/
def State.lpush (s : State) (i : Ins) (a : BitVec 5) (words : State → Reads (List (BitVec 48 × Bool))) : Out :=
  let mask := (s.cur.rd a.toNat).toNat % 65536
  if classOf (coreOf s.slot) ≠ .stack then s.illegal i 0
  else if mask = 0 then s.retire s.cur i
  else if !s.cur.pushing.isEmpty then
    if s.sendHeld (coreOf s.slot) mask then s.wait false else s.enterWords i mask s.cur.pushGroup s.cur.pushing
  else if s.islandWait mask || !s.quiet s.slot then s.wait false
  else match words s with
    | .fault s1 f => s1.faulted i f
    | .wait s1 z => (s.keepPages s1).wait z
    | .got s1 ws =>
      if s1.laneRoom (maskLanes (coreOf s.slot) mask) = 0 then s1.wait false
      else { s1 with nextGroup := s1.nextGroup + 1 }.enterWords i mask (65536 * s1.nextGroup + mask) ws

/-- LPUSH of one word (R186). -/
def execLpush (d a : BitVec 5) (s : State) : Out :=
  s.lpush (ins (.lpush d a)) a (fun s => .got s [((s.cur.rd d.toNat).setWidth 48, false)])

/-- The slots of a lane image up to its HALTL, read in ascending order as LD .d; after the last slot without one stands
a mark, at a place that holds no word: a lane that reaches it reports WORD 0 (R186, R213; log 89). Bits 63:48 of a slot are
zero by R26; the model reads a slot as R186 reads g(d), its bits 47:0, whatever stands above them (log 98). -/
def State.readImage (s : State) (a : Word) : Nat → Reads (List (BitVec 48 × Bool))
  | 0 => .got s [(0, true)]
  | n + 1 =>
    match s.unitLoad s.slot s.party a 8 with
    | .fault s1 f => .fault s1 f
    | .wait s1 z => .wait s1 z
    | .ok s1 bs =>
      let w : BitVec 48 := (bytesWord bs).setWidth 48
      if w.toNat / 2 ^ 42 = 0x3F then .got s1 [(w, false)]
      else match s1.readImage (a + 8) n with
        | .got s2 ws => .got s2 ((w, false) :: ws)
        | r => r

/-- LPUSH of an image (R186): in window 0x0. DESIGN CHOICE (log 119): a g(d) that names another window fails check 1. -/
def execLpushImg (d a : BitVec 5) (s : State) : Out :=
  s.lpush (ins (.lpushImg d a)) a (fun s =>
    let base := s.cur.rd d.toNat &&& ~~~(7 : Word)
    if bitsOf base.toNat 63 60 ≠ 0 then .fault s ⟨1, base, 0⟩ else s.readImage base 65536)

/-- VSEND (R182, R183, R187, R443): stack cores. -/
def execVsend (d a : BitVec 5) (slot : BitVec 6) (buf : BitVec 2) (s : State) : Out :=
  let i := ins (.vsend d a slot buf)
  let core := coreOf s.slot
  let mask := (s.cur.rd a.toNat).toNat % 65536
  if classOf core ≠ .stack then s.illegal i 0
  else if mask = 0 then s.retire s.cur i
  else if s.islandWait mask then s.wait false
  else
    let q := s.quadOf core
    if 16 ≤ q.vfifo.length then s.wait false
    else
      let s1 := s.setQuad core { q with vfifo := q.vfifo ++
        [⟨BitVec.ofNat 16 mask, buf.toNat, slot.toNat, s.cur.rdV d.toNat, s.cclk (core / 4), s.cur.uid⟩] }
      s1.retire s1.cur i

/-- The fault code that QSTAT gives for a quadrant's lanes, 0 for none: of several faulted lanes the lowest one's, which R188
and R211 leave open (log 99). -/
def State.quadFault (s : State) (core : Nat) : Nat :=
  ((List.range 16).filterMap (fun i => (s.laneOf (16 * core + i)).fault)).headD 0

/-- The occupied and the free entries of a queue, its fault code, and whether it is held by a fault (R183, R188). -/
def State.qstatParts (s : State) (core q : Nat) : Nat × Nat × Nat × Bool :=
  if q < 5 then
    let e := s.engq (8 * core + q)
    (e.used, 32 - e.used, (e.fault.map (·.1)).headD 0, !e.fault.isEmpty)
  else if q = 5 then ((s.core core).fmtq.length, 16 - (s.core core).fmtq.length, 0, false)
  else if q = 6 then
    let used := (List.range 16).map (fun i => (s.laneOf (16 * core + i)).used)
    (used.foldl max 0, 64 - used.foldl max 0, s.quadFault core, s.quadFault core ≠ 0)
  else ((s.quadOf core).vfifo.length, 16 - (s.quadOf core).vfifo.length, 0, false)

/-- Whether QSTAT may name a queue on a class of core (R188). -/
def qstatOn (k : CoreClass) (q : Nat) : Bool :=
  if q < 5 then queueOn k q else if q = 5 then k == .tile else k == .stack

/-- QSTAT (R188, R209). -/
def execQstat (d : BitVec 5) (q : BitVec 3) (s : State) : Out :=
  let i := ins (.qstat d q)
  let core := coreOf s.slot
  if !qstatOn (classOf core) q.toNat then s.illegal i 0
  else
    let x := s.qstatParts core q.toNat
    let base := SMap.get s.cur.popBase 0 q.toNat
    let popped := (s.popped core q.toNat + 2 ^ 32 - base % 2 ^ 32) % 2 ^ 32
    s.retire (s.cur.wr d.toNat (toWord (2 ^ 32 * popped + 2 ^ 24 * (x.2.2.1 % 256) + 2 ^ 16 * x.2.2.2.toNat +
      2 ^ 8 * x.1 + x.2.1))) i

/-- The 128 bytes of a packet read as eight LD .q (R189), `n` of them left. -/
def State.readPacket (s : State) (a : Word) : Nat → Reads (List Byte)
  | 0 => .got s []
  | n + 1 =>
    match s.unitLoad s.slot s.party a 16 with
    | .fault s1 f => .fault s1 f
    | .wait s1 z => .wait s1 z
    | .ok s1 bs =>
      match s1.readPacket (a + 16) n with
      | .got s2 cs => .got s2 (bs ++ cs)
      | r => r

/-- What LAUNCH writes to g(d) (R189, R280). -/
def Accept.word : Accept → Word
  | .full => toWord (2 ^ 63)
  | .refused r => toWord (2 ^ 62 + r)
  | .accepted n => toWord n

/-- LAUNCH (R189, R280, R283). -/
def execLaunch (d a : BitVec 5) (q : BitVec 6) (s : State) : Out :=
  let i := ins (.launch d a q)
  let ea := s.cur.rd a.toNat
  let p := s.party
  if ea.toNat % 128 ≠ 0 then s.faulted i ⟨9, ea, 0⟩
  else match s.readPacket ea 8 with
    | .fault s1 f => s1.faulted i f
    | .wait s1 z => (s.keepPages s1).wait z
    | .got s1 bs =>
      if !p.task && !s.queueOfJob p.job q.toNat then s.denied i
      else if !s.released s.slot scopeJob then s.wait false
      else
        let r := s1.submit q.toNat (if p.task then s1.queueJob q.toNat else p.job) (ofBytes bs) true none none
        r.1.retire (r.1.cur.wr d.toNat r.2.word) i

/-! ### CANCEL (R190, R293) -/

/-- A CANCEL of work by its counter, which must be an ACTIVE one of a kind; the unit may end with it. -/
def State.cancelOp (s : State) (i : Ins) (d a : BitVec 5) (kind : Nat) (down : State → Nat → State) : Out :=
  let n := (s.cur.rd a.toNat).toNat % 8192
  let c := s.counter n
  if !s.ctrFits s.party n then s.denied i
  else if c.kind ≠ kind ∨ c.state ≠ 1 then s.retire (s.cur.wr d.toNat 1) i
  else .next (down (s.setCur ((s.cur.wr d.toNat 0).fall i.size)) n)

/-- CANCEL.LAUNCH (R190). -/
def execCancelLaunch (d a : BitVec 5) (s : State) : Out :=
  s.cancelOp (ins (.cancelLaunch d a)) d a 2 State.cancelLaunchN
/-- CANCEL.GRAPH (R190). -/
def execCancelGraph (d a : BitVec 5) (s : State) : Out :=
  s.cancelOp (ins (.cancelGraph d a)) d a 3 State.cancelGraphN
/-- CANCEL.PHASE (R190). -/
def execCancelPhase (d a : BitVec 5) (s : State) : Out :=
  s.cancelOp (ins (.cancelPhase d a)) d a 4 State.phaseDown
/-- CANCEL.JOB: the unit's own job; g(a) is not read (R190). DESIGN CHOICE (log 120): a service task has none, and is answered
1. -/
def execCancelJob (d a : BitVec 5) (s : State) : Out :=
  let i := ins (.cancelJob d a)
  let p := s.party
  if p.task ∨ (s.counter (s.jobCtr p.job)).state ≠ 1 then s.retire (s.cur.wr d.toNat 1) i
  else .next ((s.setCur ((s.cur.wr d.toNat 0).fall i.size)).cancelJobN p.job)

end Sys2Proof.Machine
end

