-- ==== Sys2Proof/Machine/Scalar.lean ====
section
/-! DEFINITION. The scalar instructions on registers and the program counter (R97 to R115). -/

namespace Sys2Proof.Machine

/-- A register-register operation (R101). -/
def aluR (i : Ins) (d a b : BitVec 5) (f : Word → Word → Word) (s : State) : Out :=
  s.retire (s.cur.wr d.toNat (f (s.cur.rd a.toNat) (s.cur.rd b.toNat))) i

/-- A one-operand operation (R101). -/
def aluU (i : Ins) (d a : BitVec 5) (f : Word → Word) (s : State) : Out :=
  s.retire (s.cur.wr d.toNat (f (s.cur.rd a.toNat))) i

/-- 1 or 0. -/
def bit (b : Bool) : Word := if b then 1 else 0

/-- The high half of a signed product (R101). -/
def mulHigh (a b : Word) : Word := BitVec.ofInt 64 (a.toInt * b.toInt / 2 ^ 64)

/-- The high half of an unsigned product (R101). -/
def mulHighN (a b : Word) : Word := BitVec.ofNat 64 (a.toNat * b.toNat / 2 ^ 64)

/-- Signed quotient (R102). -/
def quot (a b : Word) : Word := if b = 0 then BitVec.allOnes 64 else a.sdiv b

/-- Unsigned quotient (R102). -/
def quotN (a b : Word) : Word := if b = 0 then BitVec.allOnes 64 else a.udiv b

/-- Signed remainder (R102). -/
def remS (a b : Word) : Word := if b = 0 then a else a.srem b

/-- Unsigned remainder (R102). -/
def remU (a b : Word) : Word := if b = 0 then a else a.umod b

/-- Zero bits above the highest one bit of the low `n` bits. -/
def leadZeros (a : Word) : Nat → Nat
  | 0 => 0
  | n + 1 => if a.getLsbD n then 0 else 1 + leadZeros a n

/-- Zero bits below the lowest one bit: `n` bits are left to look at, from bit `k` up. -/
def trailZeros (a : Word) : Nat → Nat → Nat
  | 0, _ => 0
  | n + 1, k => if a.getLsbD k then 0 else 1 + trailZeros a n (k + 1)

/-- One bits among the low `n`. -/
def ones (a : Word) : Nat → Nat
  | 0 => 0
  | n + 1 => (a.getLsbD n).toNat + ones a n

/-- ADD (R101). -/
def execAdd (d a b : BitVec 5) (s : State) : Out := aluR (ins (.add d a b)) d a b (· + ·) s
/-- SUB (R101). -/
def execSub (d a b : BitVec 5) (s : State) : Out := aluR (ins (.sub d a b)) d a b (· - ·) s
/-- AND (R101). -/
def execAnd (d a b : BitVec 5) (s : State) : Out := aluR (ins (.and d a b)) d a b (· &&& ·) s
/-- OR (R101). -/
def execOr (d a b : BitVec 5) (s : State) : Out := aluR (ins (.or d a b)) d a b (· ||| ·) s
/-- XOR (R101). -/
def execXor (d a b : BitVec 5) (s : State) : Out := aluR (ins (.xor d a b)) d a b (· ^^^ ·) s
/-- ANDN (R101). -/
def execAndn (d a b : BitVec 5) (s : State) : Out := aluR (ins (.andn d a b)) d a b (fun x y => x &&& ~~~y) s
/-- SHL (R101). -/
def execShl (d a b : BitVec 5) (s : State) : Out := aluR (ins (.shl d a b)) d a b (fun x y => x <<< (y.toNat % 64)) s
/-- SHR (R101). -/
def execShr (d a b : BitVec 5) (s : State) : Out := aluR (ins (.shr d a b)) d a b (fun x y => x >>> (y.toNat % 64)) s
/-- SRA (R101). -/
def execSra (d a b : BitVec 5) (s : State) : Out :=
  aluR (ins (.sra d a b)) d a b (fun x y => x.sshiftRight (y.toNat % 64)) s
/-- ROTR (R101). -/
def execRotr (d a b : BitVec 5) (s : State) : Out :=
  aluR (ins (.rotr d a b)) d a b (fun x y => x.rotateRight (y.toNat % 64)) s
/-- MUL (R101). -/
def execMul (d a b : BitVec 5) (s : State) : Out := aluR (ins (.mul d a b)) d a b (· * ·) s
/-- MULHI (R101). -/
def execMulhi (d a b : BitVec 5) (s : State) : Out := aluR (ins (.mulhi d a b)) d a b mulHigh s
/-- MULHN (R101). -/
def execMulhn (d a b : BitVec 5) (s : State) : Out := aluR (ins (.mulhn d a b)) d a b mulHighN s
/-- DIV (R102). -/
def execDiv (d a b : BitVec 5) (s : State) : Out := aluR (ins (.div d a b)) d a b quot s
/-- DIVN (R102). -/
def execDivn (d a b : BitVec 5) (s : State) : Out := aluR (ins (.divn d a b)) d a b quotN s
/-- REM (R102). -/
def execRem (d a b : BitVec 5) (s : State) : Out := aluR (ins (.rem d a b)) d a b remS s
/-- REMN (R102). -/
def execRemn (d a b : BitVec 5) (s : State) : Out := aluR (ins (.remn d a b)) d a b remU s
/-- MIN (R101). -/
def execMin (d a b : BitVec 5) (s : State) : Out :=
  aluR (ins (.min d a b)) d a b (fun x y => if x.slt y then x else y) s
/-- MAX (R101). -/
def execMax (d a b : BitVec 5) (s : State) : Out :=
  aluR (ins (.max d a b)) d a b (fun x y => if x.slt y then y else x) s
/-- MINN (R101). -/
def execMinn (d a b : BitVec 5) (s : State) : Out :=
  aluR (ins (.minn d a b)) d a b (fun x y => if x.ult y then x else y) s
/-- MAXN (R101). -/
def execMaxn (d a b : BitVec 5) (s : State) : Out :=
  aluR (ins (.maxn d a b)) d a b (fun x y => if x.ult y then y else x) s
/-- SLT (R101). -/
def execSlt (d a b : BitVec 5) (s : State) : Out := aluR (ins (.slt d a b)) d a b (fun x y => bit (x.slt y)) s
/-- SLTN (R101). -/
def execSltn (d a b : BitVec 5) (s : State) : Out := aluR (ins (.sltn d a b)) d a b (fun x y => bit (x.ult y)) s
/-- CLZ (R101). -/
def execClz (d a : BitVec 5) (s : State) : Out :=
  aluU (ins (.clz d a)) d a (fun x => BitVec.ofNat 64 (leadZeros x 64)) s
/-- CTZ (R101). -/
def execCtz (d a : BitVec 5) (s : State) : Out :=
  aluU (ins (.ctz d a)) d a (fun x => BitVec.ofNat 64 (trailZeros x 64 0)) s
/-- POPC (R101). -/
def execPopc (d a : BitVec 5) (s : State) : Out :=
  aluU (ins (.popc d a)) d a (fun x => BitVec.ofNat 64 (ones x 64)) s

/-! ### Immediates (R103 to R106) -/

/-- An operation on a register and an extended immediate (R103). -/
def aluI (i : Ins) (d a : BitVec 5) (v : Word) (f : Word → Word → Word) (s : State) : Out :=
  s.retire (s.cur.wr d.toNat (f (s.cur.rd a.toNat) v)) i

/-- ADDI, with or without a prefix. -/
def opAddi (i : Ins) (d a : BitVec 5) (m : Imm) (s : State) : Out := aluI i d a m.sext (· + ·) s
/-- ANDI, with or without a prefix. -/
def opAndi (i : Ins) (d a : BitVec 5) (m : Imm) (s : State) : Out := aluI i d a m.zext (· &&& ·) s
/-- ORI, with or without a prefix. -/
def opOri (i : Ins) (d a : BitVec 5) (m : Imm) (s : State) : Out := aluI i d a m.zext (· ||| ·) s
/-- XORI, with or without a prefix. -/
def opXori (i : Ins) (d a : BitVec 5) (m : Imm) (s : State) : Out := aluI i d a m.zext (· ^^^ ·) s
/-- SLTI, with or without a prefix. -/
def opSlti (i : Ins) (d a : BitVec 5) (m : Imm) (s : State) : Out := aluI i d a m.sext (fun x y => bit (x.slt y)) s
/-- SLTNI, with or without a prefix. -/
def opSltni (i : Ins) (d a : BitVec 5) (m : Imm) (s : State) : Out := aluI i d a m.zext (fun x y => bit (x.ult y)) s

/-- ADDI (R103). -/
def execAddi (d a : BitVec 5) (imm : BitVec 16) (s : State) : Out := opAddi (ins (.addi d a imm)) d a (.plain imm) s
/-- ANDI (R103). -/
def execAndi (d a : BitVec 5) (imm : BitVec 16) (s : State) : Out := opAndi (ins (.andi d a imm)) d a (.plain imm) s
/-- ORI (R103). -/
def execOri (d a : BitVec 5) (imm : BitVec 16) (s : State) : Out := opOri (ins (.ori d a imm)) d a (.plain imm) s
/-- XORI (R103). -/
def execXori (d a : BitVec 5) (imm : BitVec 16) (s : State) : Out := opXori (ins (.xori d a imm)) d a (.plain imm) s
/-- SLTI (R103). -/
def execSlti (d a : BitVec 5) (imm : BitVec 16) (s : State) : Out := opSlti (ins (.slti d a imm)) d a (.plain imm) s
/-- SLTNI (R103). -/
def execSltni (d a : BitVec 5) (imm : BitVec 16) (s : State) : Out := opSltni (ins (.sltni d a imm)) d a (.plain imm) s

/-- SHLI (R104). -/
def execShli (d a : BitVec 5) (n : BitVec 6) (s : State) : Out :=
  aluU (ins (.shli d a n)) d a (fun x => x <<< n.toNat) s
/-- SHRI (R104). -/
def execShri (d a : BitVec 5) (n : BitVec 6) (s : State) : Out :=
  aluU (ins (.shri d a n)) d a (fun x => x >>> n.toNat) s
/-- SRAI (R104). -/
def execSrai (d a : BitVec 5) (n : BitVec 6) (s : State) : Out :=
  aluU (ins (.srai d a n)) d a (fun x => x.sshiftRight n.toNat) s

/-- LUI, with or without a prefix: the value at bits 16 and up, sign-extended (R105). -/
def opLui (i : Ins) (d : BitVec 5) (m : Imm) (s : State) : Out :=
  s.retire (s.cur.wr d.toNat (BitVec.ofInt 64 (m.int * 65536))) i
/-- LUI (R105). -/
def execLui (d : BitVec 5) (imm : BitVec 16) (s : State) : Out := opLui (ins (.lui d imm)) d (.plain imm) s

/-- ADDPC, with or without a prefix (R106). -/
def opAddpc (i : Ins) (d : BitVec 5) (m : Imm) (s : State) : Out := s.retire (s.cur.wr d.toNat (s.cur.pc + m.sext)) i
/-- ADDPC (R106). -/
def execAddpc (d : BitVec 5) (imm : BitVec 16) (s : State) : Out := opAddpc (ins (.addpc d imm)) d (.plain imm) s

/-! ### Control flow (R107 to R112) -/

/-- A target that is a signed count of words away (R36). -/
def wordsAway (pc : Word) (n : Int) : Word := pc + BitVec.ofInt 64 (4 * n)

/-- A conditional branch, with or without a prefix (R107). -/
def opBranch (i : Ins) (a b : BitVec 5) (m : Imm) (f : Word → Word → Bool) (s : State) : Out :=
  if f (s.cur.rd a.toNat) (s.cur.rd b.toNat) then s.jump s.cur (wordsAway s.cur.pc m.int) else s.retire s.cur i

/-- The six conditions of R107. -/
def condEq (x y : Word) : Bool := x == y
def condNe (x y : Word) : Bool := x != y
def condLt (x y : Word) : Bool := x.slt y
def condGe (x y : Word) : Bool := !x.slt y
def condLtn (x y : Word) : Bool := x.ult y
def condGen (x y : Word) : Bool := !x.ult y

/-- B.EQ (R107). -/
def execBEq (a b : BitVec 5) (off : BitVec 13) (s : State) : Out :=
  opBranch (ins (.bEq a b off)) a b (.plain off) condEq s
/-- B.NE (R107). -/
def execBNe (a b : BitVec 5) (off : BitVec 13) (s : State) : Out :=
  opBranch (ins (.bNe a b off)) a b (.plain off) condNe s
/-- B.LT (R107). -/
def execBLt (a b : BitVec 5) (off : BitVec 13) (s : State) : Out :=
  opBranch (ins (.bLt a b off)) a b (.plain off) condLt s
/-- B.GE (R107). -/
def execBGe (a b : BitVec 5) (off : BitVec 13) (s : State) : Out :=
  opBranch (ins (.bGe a b off)) a b (.plain off) condGe s
/-- B.LTN (R107). -/
def execBLtn (a b : BitVec 5) (off : BitVec 13) (s : State) : Out :=
  opBranch (ins (.bLtn a b off)) a b (.plain off) condLtn s
/-- B.GEN (R107). -/
def execBGen (a b : BitVec 5) (off : BitVec 13) (s : State) : Out :=
  opBranch (ins (.bGen a b off)) a b (.plain off) condGen s

/-- J (R108). -/
def execJ (off : BitVec 26) (s : State) : Out := s.jump s.cur (wordsAway s.cur.pc off.toInt)
/-- JAL (R108). -/
def execJal (off : BitVec 26) (s : State) : Out :=
  s.jump (s.cur.wr 31 (s.cur.pc + 4)) (wordsAway s.cur.pc off.toInt)

/-- JALR, with or without a prefix (R109). -/
def opJalr (i : Ins) (d a : BitVec 5) (m : Imm) (s : State) : Out :=
  let t := s.cur.rd a.toNat + m.sext
  s.jump (s.cur.wr d.toNat (s.cur.nextPc i.size)) (t &&& ~~~(3 : Word))
/-- JALR (R109). -/
def execJalr (d a : BitVec 5) (imm : BitVec 16) (s : State) : Out := opJalr (ins (.jalr d a imm)) d a (.plain imm) s

/-- LOOP, with or without a prefix (R111, R112). -/
def opLoop (i : Ins) (a : BitVec 5) (m : Imm) (s : State) : Out :=
  let c := s.cur
  let stop := wordsAway c.pc m.int + BitVec.ofNat 64 (i.size - 4)
  if m.int ≤ 0 ∨ 2 ≤ c.entries.length ∨ c.entries.any (fun e => e.stop.toNat < stop.toNat) then s.illegal i 0
  else
    let n := c.rd a.toNat
    if n = 0 then .next (s.setCur (c.at (stop + 4)))
    else .next (s.setCur ((c.setEntries (⟨c.nextPc i.size, stop, n⟩ :: c.entries)).at (c.nextPc i.size)))
/-- LOOP (R111). -/
def execLoop (a : BitVec 5) (imm : BitVec 16) (s : State) : Out := opLoop (ins (.loop a imm)) a (.plain imm) s

end Sys2Proof.Machine
end

