-- ==== Sys2Proof/Machine/Vector.lean ====
section
/-! DEFINITION. Vector arithmetic, conversion, masks and cross-element instructions (R132 to R141, R147 to R152). -/

namespace Sys2Proof.Machine

/-- Vector element types (R29, R38). -/
inductive VTy where
  | f32 | bf | i32 | n32 | i16 | i8 | n8
  deriving DecidableEq, Repr

/-- The type of a ty code (R38). -/
def VTy.ofCode (c : Nat) : Option VTy :=
  match c with
  | 0 => some .f32
  | 1 => some .bf
  | 2 => some .i32
  | 3 => some .n32
  | 4 => some .i16
  | 5 => some .i8
  | 6 => some .n8
  | _ => none

/-- Bits of an element. -/
def VTy.width : VTy → Nat
  | .f32 => 32 | .i32 => 32 | .n32 => 32 | .bf => 16 | .i16 => 16 | .i8 => 8 | .n8 => 8

/-- Elements of a register (R29). -/
def VTy.count (t : VTy) : Nat := 2048 / t.width

/-- Whether a type is a float. -/
def VTy.isFloat : VTy → Bool
  | .f32 => true | .bf => true | _ => false

/-- Whether a type is a signed integer. -/
def VTy.isSigned : VTy → Bool
  | .i32 => true | .i16 => true | .i8 => true | _ => false

/-- The format of a float type. -/
def VTy.fmt : VTy → FpFmt
  | .bf => fmtBf | _ => fmt32

/-- The sets of types that instructions accept (R134). -/
def tyAll (_ : VTy) : Bool := true
def tyInt (t : VTy) : Bool := !t.isFloat
def tySigned (t : VTy) : Bool := t.isFloat || t.isSigned
def tyFloat (t : VTy) : Bool := t.isFloat
def tyShiftS (t : VTy) : Bool := t.isSigned
def tyWord (t : VTy) : Bool := t.width == 32

/-- Element `k` of a register (R28). -/
def VTy.elem (t : VTy) (v : VWord) (k : Nat) : Nat := v.toNat / 2 ^ (t.width * k) % 2 ^ t.width

/-- Elements laid out from bit 0 upward. -/
def packElems (w : Nat) : List Nat → Nat
  | [] => 0
  | x :: xs => x % 2 ^ w + 2 ^ w * packElems w xs

/-- A register of elements. -/
def VTy.pack (t : VTy) (xs : List Nat) : VWord := BitVec.ofNat 2048 (packElems t.width xs)

/-- The integer value of an element. -/
def VTy.int (t : VTy) (x : Nat) : Int := if t.isSigned then sint t.width x else (x : Int)

/-- The value of a float element. -/
def VTy.fp (t : VTy) (x : Nat) : Fp := t.fmt.value x

/-- A mask from its bits, from bit 0 upward. -/
def packMask (bs : List Bool) : MWord := BitVec.ofNat 256 (packElems 1 (bs.map Bool.toNat))

/-- Runs `k` on an accepted type; another type is an illegal instruction (R134). -/
def State.vtyped (s : State) (i : Ins) (ok : VTy → Bool) (ty : BitVec 3) (k : VTy → Out) : Out :=
  match VTy.ofCode ty.toNat with
  | some t => if ok t then k t else s.illegal i 0
  | none => s.illegal i 0

/-- Active elements of vd take the values and flags of `f`; the others keep theirs (R132, R133). -/
def State.vmap (s : State) (i : Ins) (t : VTy) (d : BitVec 5) (mk : BitVec 3) (f : Nat → Nat × Nat) : Out :=
  let c := s.cur
  let old := c.rdV d.toNat
  let m := c.rdM mk.toNat
  let rs := (List.range t.count).map (fun k => if m.getLsbD k then f k else (t.elem old k, 0))
  s.retire ((c.wrV d.toNat (t.pack (rs.map (·.1)))).orFlags (rs.foldl (fun a r => a ||| r.2) 0)) i

/-- An operation on two elements. -/
def State.vbin (s : State) (i : Ins) (ok : VTy → Bool) (d a b : BitVec 5) (mk ty : BitVec 3)
    (f : VTy → Nat → Nat → Nat × Nat) : Out :=
  s.vtyped i ok ty (fun t =>
    let x := s.cur.rdV a.toNat
    let y := s.cur.rdV b.toNat
    s.vmap i t d mk (fun k => f t (t.elem x k) (t.elem y k)))

/-- An operation on two elements and the destination's. -/
def State.vter (s : State) (i : Ins) (ok : VTy → Bool) (d a b : BitVec 5) (mk ty : BitVec 3)
    (f : VTy → Nat → Nat → Nat → Nat × Nat) : Out :=
  s.vtyped i ok ty (fun t =>
    let x := s.cur.rdV a.toNat
    let y := s.cur.rdV b.toNat
    let z := s.cur.rdV d.toNat
    s.vmap i t d mk (fun k => f t (t.elem x k) (t.elem y k) (t.elem z k)))

/-- An operation on one element. -/
def State.vun (s : State) (i : Ins) (ok : VTy → Bool) (d a : BitVec 5) (mk ty : BitVec 3)
    (f : VTy → Nat → Nat × Nat) : Out :=
  s.vtyped i ok ty (fun t =>
    let x := s.cur.rdV a.toNat
    s.vmap i t d mk (fun k => f t (t.elem x k)))

/-! ### Arithmetic (R135) -/

/-- va + vb. -/
def elAdd (t : VTy) (x y : Nat) : Nat × Nat :=
  if t.isFloat then addF t.fmt (t.fp x) (t.fp y) else ((x + y) % 2 ^ t.width, 0)
/-- va − vb. -/
def elSub (t : VTy) (x y : Nat) : Nat × Nat :=
  if t.isFloat then addF t.fmt (t.fp x) (t.fp y).neg else ((x + (2 ^ t.width - y)) % 2 ^ t.width, 0)
/-- va × vb. -/
def elMul (t : VTy) (x y : Nat) : Nat × Nat :=
  if t.isFloat then mulF t.fmt (t.fp x) (t.fp y) else (x * y % 2 ^ t.width, 0)
/-- va × vb + vd, fused. -/
def elFma (t : VTy) (x y z : Nat) : Nat × Nat :=
  if t.isFloat then fmaF t.fmt (t.fp x) (t.fp y) (t.fp z) else ((x * y + z) % 2 ^ t.width, 0)
/-- va × vb − vd, fused. -/
def elFms (t : VTy) (x y z : Nat) : Nat × Nat :=
  if t.isFloat then fmaF t.fmt (t.fp x) (t.fp y) (t.fp z).neg else ((x * y + (2 ^ t.width - z)) % 2 ^ t.width, 0)
/-- The smaller. -/
def elMin (t : VTy) (x y : Nat) : Nat × Nat :=
  if t.isFloat then ((Fp.round t.fmt false (Fp.min (t.fp x) (t.fp y))).1, 0)
  else (if t.int y < t.int x then y else x, 0)
/-- The larger. -/
def elMax (t : VTy) (x y : Nat) : Nat × Nat :=
  if t.isFloat then ((Fp.round t.fmt false (Fp.max (t.fp x) (t.fp y))).1, 0)
  else (if t.int x < t.int y then y else x, 0)
/-- |va|. -/
def elAbs (t : VTy) (x : Nat) : Nat × Nat :=
  if t.isFloat then (if (t.fp x).isNaN then t.fmt.qnan else x % 2 ^ (t.width - 1), 0)
  else (wrap t.width (t.int x).natAbs, 0)
/-- −va. -/
def elNeg (t : VTy) (x : Nat) : Nat × Nat :=
  if t.isFloat then (if (t.fp x).isNaN then t.fmt.qnan else x ^^^ 2 ^ (t.width - 1), 0)
  else ((2 ^ t.width - x) % 2 ^ t.width, 0)

/-! ### Comparisons (R136) -/

/-- va = vb. -/
def ccEq (t : VTy) (x y : Nat) : Bool × Nat := (if t.isFloat then Fp.eq (t.fp x) (t.fp y) else x == y, 0)
/-- va ≠ vb. -/
def ccNe (t : VTy) (x y : Nat) : Bool × Nat := (!(ccEq t x y).1, 0)
/-- A float comparison with a NaN is false and raises NV. -/
def ccOrd (t : VTy) (x y : Nat) (r : Bool) : Bool × Nat :=
  if t.isFloat && ((t.fp x).isNaN || (t.fp y).isNaN) then (false, fNV) else (r, 0)
/-- va < vb. -/
def ccLt (t : VTy) (x y : Nat) : Bool × Nat :=
  ccOrd t x y (if t.isFloat then Fp.lt (t.fp x) (t.fp y) else decide (t.int x < t.int y))
/-- va ≤ vb. -/
def ccLe (t : VTy) (x y : Nat) : Bool × Nat :=
  ccOrd t x y (if t.isFloat then !Fp.lt (t.fp y) (t.fp x) else decide (t.int x ≤ t.int y))

/-- A comparison into a mask; inactive elements and those above the count give 0 (R136). -/
def State.vcmp (s : State) (i : Ins) (d : BitVec 3) (a b : BitVec 5) (mk ty : BitVec 3)
    (f : VTy → Nat → Nat → Bool × Nat) : Out :=
  s.vtyped i tyAll ty (fun t =>
    let c := s.cur
    let x := c.rdV a.toNat
    let y := c.rdV b.toNat
    let m := c.rdM mk.toNat
    let rs := (List.range t.count).map (fun k => if m.getLsbD k then f t (t.elem x k) (t.elem y k) else (false, 0))
    s.retire ((c.wrM d.toNat (packMask (rs.map (·.1)))).orFlags (rs.foldl (fun a r => a ||| r.2) 0)) i)

/-! ### Shifts (R138) -/

/-- The count of a shift. -/
def shiftCount (t : VTy) (y : Nat) : Nat := y % t.width
/-- va << c. -/
def elShl (t : VTy) (x y : Nat) : Nat × Nat := (x * 2 ^ shiftCount t y % 2 ^ t.width, 0)
/-- va >> c, zero fill. -/
def elShr (t : VTy) (x y : Nat) : Nat × Nat := (x / 2 ^ shiftCount t y, 0)
/-- va >> c, sign fill. -/
def elSra (t : VTy) (x y : Nat) : Nat × Nat := (wrap t.width (sint t.width x / (2 : Int) ^ shiftCount t y), 0)

/-! ### Conversion (R69, R139) -/

/-- The range of an integer type. -/
def VTy.range (t : VTy) : Int × Int :=
  if t.isSigned then (-(2 : Int) ^ (t.width - 1), (2 : Int) ^ (t.width - 1) - 1) else (0, (2 : Int) ^ t.width - 1)

/-- An integer saturated to a type (R69). -/
def VTy.sat (t : VTy) (v : Int) : Nat × Nat :=
  if v < t.range.1 then (wrap t.width t.range.1, fSAT)
  else if t.range.2 < v then (wrap t.width t.range.2, fSAT)
  else (wrap t.width v, 0)

/-- A float value rounded to an integer, and whether that was inexact. -/
def roundInt (rz neg : Bool) (m : Nat) (e : Int) : Int × Bool :=
  let r := roundPlace rz m e 0 false
  (if neg then -(r.1 : Int) else (r.1 : Int), r.2)

/-- One element converted (R69). -/
def cvtElem (st dt : VTy) (rz : Bool) (x : Nat) : Nat × Nat :=
  if st.isFloat then
    (if dt.isFloat then Fp.round dt.fmt rz (st.fp x)
    else match st.fp x with
      | .nan => (0, fNV)
      | .inf neg => (wrap dt.width (if neg then dt.range.1 else dt.range.2), fSAT)
      | .fin neg m e =>
        let r := roundInt rz neg m e
        let q := dt.sat r.1
        (q.1, q.2 ||| (if r.2 then fNX else 0)))
  else if dt.isFloat then
    let v := st.int x
    roundFp dt.fmt rz (v < 0) v.natAbs 0 false
  else dt.sat (st.int x)

/-! ### The instructions of major 0x20 -/

/-- VADD (R135). -/
def execVadd (d a b : BitVec 5) (mk ty : BitVec 3) (s : State) : Out := s.vbin (ins (.vadd d a b mk ty)) tyAll d a b mk ty elAdd
/-- VSUB (R135). -/
def execVsub (d a b : BitVec 5) (mk ty : BitVec 3) (s : State) : Out := s.vbin (ins (.vsub d a b mk ty)) tyAll d a b mk ty elSub
/-- VMUL (R135). -/
def execVmul (d a b : BitVec 5) (mk ty : BitVec 3) (s : State) : Out := s.vbin (ins (.vmul d a b mk ty)) tyAll d a b mk ty elMul
/-- VFMA (R135). -/
def execVfma (d a b : BitVec 5) (mk ty : BitVec 3) (s : State) : Out := s.vter (ins (.vfma d a b mk ty)) tyAll d a b mk ty elFma
/-- VFMS (R135). -/
def execVfms (d a b : BitVec 5) (mk ty : BitVec 3) (s : State) : Out := s.vter (ins (.vfms d a b mk ty)) tyAll d a b mk ty elFms
/-- VMIN (R135). -/
def execVmin (d a b : BitVec 5) (mk ty : BitVec 3) (s : State) : Out := s.vbin (ins (.vmin d a b mk ty)) tyAll d a b mk ty elMin
/-- VMAX (R135). -/
def execVmax (d a b : BitVec 5) (mk ty : BitVec 3) (s : State) : Out := s.vbin (ins (.vmax d a b mk ty)) tyAll d a b mk ty elMax
/-- VABS (R135). -/
def execVabs (d a : BitVec 5) (mk ty : BitVec 3) (s : State) : Out := s.vun (ins (.vabs d a mk ty)) tySigned d a mk ty elAbs
/-- VNEG (R135). -/
def execVneg (d a : BitVec 5) (mk ty : BitVec 3) (s : State) : Out := s.vun (ins (.vneg d a mk ty)) tySigned d a mk ty elNeg

/-- VCMP.EQ (R136). -/
def execVcmpEq (d : BitVec 3) (a b : BitVec 5) (mk ty : BitVec 3) (s : State) : Out := s.vcmp (ins (.vcmpEq d a b mk ty)) d a b mk ty ccEq
/-- VCMP.NE (R136). -/
def execVcmpNe (d : BitVec 3) (a b : BitVec 5) (mk ty : BitVec 3) (s : State) : Out := s.vcmp (ins (.vcmpNe d a b mk ty)) d a b mk ty ccNe
/-- VCMP.LT (R136). -/
def execVcmpLt (d : BitVec 3) (a b : BitVec 5) (mk ty : BitVec 3) (s : State) : Out := s.vcmp (ins (.vcmpLt d a b mk ty)) d a b mk ty ccLt
/-- VCMP.LE (R136). -/
def execVcmpLe (d : BitVec 3) (a b : BitVec 5) (mk ty : BitVec 3) (s : State) : Out := s.vcmp (ins (.vcmpLe d a b mk ty)) d a b mk ty ccLe

/-- VSEL: the mask selects va or vb for every element (R137). -/
def execVsel (d a b : BitVec 5) (mk ty : BitVec 3) (s : State) : Out :=
  let i := ins (.vsel d a b mk ty)
  s.vtyped i tyAll ty (fun t =>
    let x := s.cur.rdV a.toNat
    let y := s.cur.rdV b.toNat
    let m := s.cur.rdM mk.toNat
    s.vmap i t d 0 (fun k => (if m.getLsbD k then t.elem x k else t.elem y k, 0)))

/-- VAND (R138). -/
def execVand (d a b : BitVec 5) (mk ty : BitVec 3) (s : State) : Out :=
  s.vbin (ins (.vand d a b mk ty)) tyInt d a b mk ty (fun _ x y => (x &&& y, 0))
/-- VOR (R138). -/
def execVor (d a b : BitVec 5) (mk ty : BitVec 3) (s : State) : Out :=
  s.vbin (ins (.vor d a b mk ty)) tyInt d a b mk ty (fun _ x y => (x ||| y, 0))
/-- VXOR (R138). -/
def execVxor (d a b : BitVec 5) (mk ty : BitVec 3) (s : State) : Out :=
  s.vbin (ins (.vxor d a b mk ty)) tyInt d a b mk ty (fun _ x y => (x ^^^ y, 0))
/-- VSHL (R138). -/
def execVshl (d a b : BitVec 5) (mk ty : BitVec 3) (s : State) : Out := s.vbin (ins (.vshl d a b mk ty)) tyInt d a b mk ty elShl
/-- VSHR (R138). -/
def execVshr (d a b : BitVec 5) (mk ty : BitVec 3) (s : State) : Out := s.vbin (ins (.vshr d a b mk ty)) tyInt d a b mk ty elShr
/-- VSRA (R138). -/
def execVsra (d a b : BitVec 5) (mk ty : BitVec 3) (s : State) : Out := s.vbin (ins (.vsra d a b mk ty)) tyShiftS d a b mk ty elSra

/-- VCVT: elements below both counts are converted (R139). -/
def execVcvt (d a : BitVec 5) (rz : BitVec 1) (sty mk ty : BitVec 3) (s : State) : Out :=
  let i := ins (.vcvt d a rz sty mk ty)
  match VTy.ofCode sty.toNat with
  | none => s.illegal i 0
  | some st =>
    if sty = ty then s.illegal i 0
    else s.vtyped i tyAll ty (fun t =>
      let x := s.cur.rdV a.toNat
      let old := s.cur.rdV d.toNat
      s.vmap i t d mk (fun k => if k < st.count then cvtElem st t (rz = 1) (st.elem x k) else (t.elem old k, 0)))

/-- VEXP2 (R140). -/
def execVexp2 (d a : BitVec 5) (mk ty : BitVec 3) (s : State) : Out :=
  s.vun (ins (.vexp2 d a mk ty)) tyFloat d a mk ty (fun t x => exp2F t.fmt (t.fp x))
/-- VLOG2 (R140). -/
def execVlog2 (d a : BitVec 5) (mk ty : BitVec 3) (s : State) : Out :=
  s.vun (ins (.vlog2 d a mk ty)) tyFloat d a mk ty (fun t x => log2F t.fmt (t.fp x))
/-- VRCP (R140). -/
def execVrcp (d a : BitVec 5) (mk ty : BitVec 3) (s : State) : Out :=
  s.vun (ins (.vrcp d a mk ty)) tyFloat d a mk ty (fun t x => rcpF t.fmt (t.fp x))
/-- VRSQ (R140). -/
def execVrsq (d a : BitVec 5) (mk ty : BitVec 3) (s : State) : Out :=
  s.vun (ins (.vrsq d a mk ty)) tyFloat d a mk ty (fun t x => rsqF t.fmt (t.fp x))

/-- An operation on whole masks (R141). -/
def State.mop (s : State) (i : Ins) (d a b : BitVec 3) (f : MWord → MWord → MWord) : Out :=
  s.retire (s.cur.wrM d.toNat (f (s.cur.rdM a.toNat) (s.cur.rdM b.toNat))) i

/-- MOP.AND (R141). -/
def execMopAnd (d a b : BitVec 3) (s : State) : Out := s.mop (ins (.mopAnd d a b)) d a b (· &&& ·)
/-- MOP.OR (R141). -/
def execMopOr (d a b : BitVec 3) (s : State) : Out := s.mop (ins (.mopOr d a b)) d a b (· ||| ·)
/-- MOP.XOR (R141). -/
def execMopXor (d a b : BitVec 3) (s : State) : Out := s.mop (ins (.mopXor d a b)) d a b (· ^^^ ·)
/-- MOP.ANDN (R141). -/
def execMopAndn (d a b : BitVec 3) (s : State) : Out := s.mop (ins (.mopAndn d a b)) d a b (fun x y => x &&& ~~~y)
/-- MOP.NOT (R141). -/
def execMopNot (d a : BitVec 3) (s : State) : Out := s.mop (ins (.mopNot d a)) d a a (fun x _ => ~~~x)

/-! ### Cross-element instructions, major 0x22 (R147 to R152) -/

/-- VBCAST (R148). -/
def execVbcast (d a : BitVec 5) (mk ty : BitVec 3) (s : State) : Out :=
  let i := ins (.vbcast d a mk ty)
  s.vtyped i tyAll ty (fun t =>
    let x := (s.cur.rd a.toNat).toNat % 2 ^ t.width
    s.vmap i t d mk (fun _ => (x, 0)))

/-- VEXT (R148). -/
def execVext (d a b : BitVec 5) (ty : BitVec 3) (s : State) : Out :=
  let i := ins (.vext d a b ty)
  s.vtyped i tyAll ty (fun t =>
    let c := s.cur
    let x := t.elem (c.rdV a.toNat) ((c.rd b.toNat).toNat % t.count)
    s.retire (c.wr d.toNat (BitVec.ofInt 64 (t.int x))) i)

/-- VINS (R148). -/
def execVins (d a b : BitVec 5) (ty : BitVec 3) (s : State) : Out :=
  let i := ins (.vins d a b ty)
  s.vtyped i tyAll ty (fun t =>
    let c := s.cur
    let old := c.rdV d.toNat
    let x := (c.rd a.toNat).toNat % 2 ^ t.width
    let k0 := (c.rd b.toNat).toNat % t.count
    s.vmap i t d 0 (fun k => (if k = k0 then x else t.elem old k, 0)))

/-- Levels of a balanced tree, one after another (R149). -/
def treeUp {α : Type} (f : α → α → α) : Nat → List (Option α) → List (Option α)
  | 0, l => l
  | n + 1, l => treeUp f n (pairUp f l)

/-- VRED: the active elements in a fixed balanced tree; the root goes to element 0 (R149). -/
def State.vred (s : State) (i : Ins) (ok : VTy → Bool) (d a : BitVec 5) (mk ty : BitVec 3)
    (f : VTy → Nat → Nat → Nat × Nat) (empty : VTy → Nat) : Out :=
  s.vtyped i ok ty (fun t =>
    let c := s.cur
    let x := c.rdV a.toNat
    let m := c.rdM mk.toNat
    let old := c.rdV d.toNat
    let leaves : List (Option (Nat × Nat)) :=
      (List.range t.count).map (fun k => if m.getLsbD k then some (t.elem x k, 0) else none)
    let op (p q : Nat × Nat) : Nat × Nat := let r := f t p.1 q.1; (r.1, p.2 ||| q.2 ||| r.2)
    let root := ((treeUp op 8 leaves).head?.join).getD (empty t, 0)
    s.retire ((c.wrV d.toNat (t.pack (root.1 :: (List.range (t.count - 1)).map (fun k => t.elem old (k + 1))))).orFlags
      root.2) i)

/-- The empty values of VRED (R149). -/
def emptyMax (t : VTy) : Nat := if t.isFloat then t.fmt.infBits true else wrap t.width t.range.1
def emptyMin (t : VTy) : Nat := if t.isFloat then t.fmt.infBits false else wrap t.width t.range.2

/-- VRED.ADD (R149). -/
def execVredAdd (d a : BitVec 5) (mk ty : BitVec 3) (s : State) : Out :=
  s.vred (ins (.vredAdd d a mk ty)) tyWord d a mk ty elAdd (fun _ => 0)
/-- VRED.MAX (R149). -/
def execVredMax (d a : BitVec 5) (mk ty : BitVec 3) (s : State) : Out :=
  s.vred (ins (.vredMax d a mk ty)) tyAll d a mk ty elMax emptyMax
/-- VRED.MIN (R149). -/
def execVredMin (d a : BitVec 5) (mk ty : BitVec 3) (s : State) : Out :=
  s.vred (ins (.vredMin d a mk ty)) tyAll d a mk ty elMin emptyMin

/-- The prefix sums of elements with their activity: results for active ones, and flags (R150). -/
def scanElems (t : VTy) : Option Nat → List (Bool × Nat × Nat) → List (Nat × Nat)
  | _, [] => []
  | run, (act, x, old) :: r =>
    if act then
      let v := match run with
        | some y => elAdd t y x
        | none => (x, 0)
      v :: scanElems t (some v.1) r
    else (old, 0) :: scanElems t run r

/-- VSCAN (R150). -/
def execVscan (d a : BitVec 5) (mk ty : BitVec 3) (s : State) : Out :=
  let i := ins (.vscan d a mk ty)
  s.vtyped i tyWord ty (fun t =>
    let c := s.cur
    let x := c.rdV a.toNat
    let m := c.rdM mk.toNat
    let old := c.rdV d.toNat
    let rs := scanElems t none ((List.range t.count).map (fun k => (m.getLsbD k, t.elem x k, t.elem old k)))
    s.retire ((c.wrV d.toNat (t.pack (rs.map (·.1)))).orFlags (rs.foldl (fun a r => a ||| r.2) 0)) i)

/-- VPERM (R151). -/
def execVperm (d a b : BitVec 5) (mk ty : BitVec 3) (s : State) : Out :=
  let i := ins (.vperm d a b mk ty)
  s.vtyped i tyAll ty (fun t =>
    let x := s.cur.rdV a.toNat
    let y := s.cur.rdV b.toNat
    s.vmap i t d mk (fun k => (t.elem x (t.elem y k % t.count), 0)))

/-- Active elements below one (R152). -/
def activeBelow (m : MWord) : Nat → Nat
  | 0 => 0
  | k + 1 => activeBelow m k + (m.getLsbD k).toNat

/-- VIOTA (R152). -/
def execViota (d : BitVec 5) (mk ty : BitVec 3) (s : State) : Out :=
  let i := ins (.viota d mk ty)
  s.vtyped i tyInt ty (fun t =>
    let m := s.cur.rdM mk.toNat
    s.vmap i t d mk (fun k => (activeBelow m k % 2 ^ t.width, 0)))

end Sys2Proof.Machine
end

