-- ==== Sys2Proof/Machine/VecMem.lean ====
section
/-! DEFINITION. Vector loads and stores, the quantising store, and the re-issue of replay entries (R128, R142 to R146,
R153 to R157, R194, R408). -/

namespace Sys2Proof.Machine

/-- What the checks of an instruction's elements have shown so far. -/
structure VChk where
  st     : State
  fault  : Option AccFault
  absent : Bool
  held   : Bool
  frz    : Bool
  locs   : List (List Loc)

/-- The checks of one element's access (R143); `behind` says that it waits on a side-log store of the unit (R126). DESIGN
CHOICE (log 117): an element that waits does not keep a later element's failing check from being reported. -/
def VChk.step (p : Party) (k : AccKind) (behind : Word → Nat → Bool) (x : VChk) (e : Word × Nat) : VChk :=
  if x.fault.isSome then x
  else
    let tags (s1 : State) (ts : List Nat) (y : State → VChk) : VChk :=
      match s1.race p k false e.1 ts with
      | .error f => { x with fault := some f }
      | .ok s2 => y s2
    match x.st.locate p k 1 e.1 e.2 with
    | (_, .fault f) => { x with fault := some f }
    | (s1, .held z ts) =>
      if k = .load then { x with st := s1, held := true, frz := x.frz || z }
      else tags s1 ts (fun s2 => { x with st := s2, held := true, frz := x.frz || z })
    | (s1, .absent ts) =>
      if k = .load then { x with st := s1, absent := true } else tags s1 ts (fun s2 => { x with st := s2, absent := true })
    | (s1, .ok ls ts) =>
      if k = .load && behind e.1 e.2 then { x with st := s1.unread x.st, held := true }
      else if k = .load && s1.eccBad k ls then tags s1 ts (fun _ => { x with fault := some ⟨8, e.1, 0⟩ })
      else tags s1 ts (fun s2 => { x with st := s2, locs := x.locs ++ [ls] })

/-- The checks of all elements in ascending index, before any byte is read or written (R143). -/
def State.vcheck (s : State) (p : Party) (k : AccKind) (behind : Word → Nat → Bool) (es : List (Word × Nat)) : VChk :=
  es.foldl (VChk.step p k behind) ⟨s, none, false, false, false, []⟩

/-- An instruction that waits after its checks: page requests stand, tags are as they were. -/
def VChk.waits (x : VChk) (s : State) : Res := .wait (s.keepPages x.st) x.frz

/-- A vector load: the bytes of its elements, one after another (R142, R143). -/
def State.vload (s : State) (slot : Nat) (p : Party) (es : List (Word × Nat)) : Res :=
  if es.any (fun e => s.mustFollow slot p e.1) then .wait s false else
  let x := s.vcheck p .load (s.logOverlap slot p) es
  match x.fault with
  | some f => .fault s f
  | none =>
    if x.held || x.absent then x.waits s
    else
      let r := x.locs.foldl (fun (a : State × List Byte) ls => let y := a.1.ioRead ls; (y.1, a.2 ++ y.2)) (x.st, [])
      .ok (es.foldl (fun (t : State) e => t.noteSpad slot e.1) r.1) r.2

/-- Maximal spans of contiguous written bytes, in ascending element order (R408). -/
def spans : List (Word × List Byte) → List (Word × List Byte)
  | [] => []
  | (a, bs) :: r =>
    match spans r with
    | (b, cs) :: t => if b = a + BitVec.ofNat 64 bs.length then (a, bs ++ cs) :: t else (a, bs) :: (b, cs) :: t
    | [] => [(a, bs)]

/-- The side-log entries of a vector store (R408). `atom` says which spans are single-copy atomic (R145). -/
def storeEntries (p : Party) (es : List (Word × List Byte)) (atom : Word → Bool) : List SideEntry :=
  (spans es).flatMap (fun e => cutEntries (p.level == .supervisor) (atom e.1) (e.2.length / 256 + 1) e.1 e.2)

/-- The tag places of the bytes of a side-log entry. -/
def State.entryTags (s : State) (p : Party) (e : SideEntry) : List Nat :=
  match (s.locate p .store 1 e.addr e.data.length).2 with
  | .ok _ ts | .absent ts | .held _ ts => ts
  | .fault _ => []

/-- Entries of the store at PC enter the side log while there is room, the tags of each stepped as it enters; the store retires
once the last has entered (R316, R408). DESIGN CHOICE (log 118): a race that an entry meets which had to wait for room, found
by no check of R143 before, is reported then, and the entries that have entered stand. -/
def State.enterLog (s : State) (slot : Nat) (p : Party) : List SideEntry → Res
  | [] => .ok s []
  | e :: es =>
    if !s.logRoom slot 1 then .wait s false
    else match s.race p .store false e.addr (s.entryTags p e) with
      | .error f => .fault s f
      | .ok s1 =>
        let s2 := (s1.logPut slot [e]).noteSpad slot e.addr
        State.enterLog (s2.setCtx slot { s2.ctx slot with entered := (s2.ctx slot).entered + 1 }) slot p es

/-- The address of the first element that meets an uncorrectable error. -/
def State.firstPoison (s : State) : List (Word × List Byte) → List (List Loc) → Word
  | e :: es, ls :: lss => if ls.any s.poisoned then e.1 else s.firstPoison es lss
  | _, _ => 0

/-- A vector store of elements in ascending index, the higher index last (R143, R144). -/
def State.vstore (s : State) (slot : Nat) (p : Party) (es : List (Word × List Byte)) (atom : Word → Bool) : Res :=
  let c := s.ctx slot
  if c.entered ≠ 0 then s.enterLog slot p ((storeEntries p es atom).drop c.entered)
  else if es.any (fun e => s.mustFollow slot p e.1) then .wait s false
  else
    let x := s.vcheck p .store (fun _ _ => false) (es.map (fun e => (e.1, e.2.length)))
    match x.fault with
    | some f => .fault s f
    | none =>
      if x.absent || !c.side.isEmpty then (s.keepPages x.st).enterLog slot p (storeEntries p es atom)
      else if x.held then x.waits s
      else
        let ls := x.locs.flatten
        if s.eccBad .store ls then .fault s ⟨8, s.firstPoison es x.locs, 0⟩
        else
          let s1 := if es.any (fun e => isReg e.1) then
              (x.locs.zip es).foldl (fun (t : State) y => t.ioWrite p y.1 y.2.2) x.st
            else x.st.perform ls (es.flatMap (·.2))
          let s2 := if es.any (fun e => bitsOf e.1.toNat 63 60 == 4) then s1.markFills s (s.ctx slot).uid none else s1
          .ok (es.foldl (fun (t : State) e => t.noteSpad slot e.1) s2) []

/-! ### The instructions (R142) -/

/-- Active elements of a mask. -/
def activeOf (t : VTy) (m : MWord) : List Nat := (List.range t.count).filter (fun k => m.getLsbD k)

/-- A register whose active elements take the values given, in ascending index. -/
def fillElems (t : VTy) (m : MWord) (old : VWord) (vals : List Nat) : VWord :=
  t.pack ((List.range t.count).foldl (fun (a : List Nat × List Nat) k =>
    if m.getLsbD k then (a.1 ++ [a.2.headD 0], a.2.drop 1) else (a.1 ++ [t.elem old k], a.2)) ([], vals)).1

/-- Bytes cut into elements. -/
def cutElems (n : Nat) : Nat → List Byte → List Nat
  | 0, _ => []
  | f + 1, bs => if bs.isEmpty then [] else ofBytes (bs.take n) :: cutElems n f (bs.drop n)

/-- How an instruction addresses its elements (R142). -/
def contiguous (t : VTy) (base : Word) (k : Nat) : Word := base + BitVec.ofNat 64 (k * (t.width / 8))
def strided (base stride : Word) (k : Nat) : Word := base + BitVec.ofNat 64 k * stride
def indexed (t : VTy) (base : Word) (idx : VWord) (k : Nat) : Word :=
  base + BitVec.ofInt 64 (sint 32 (t.elem idx k) * 4)

/-- The context after a vector load of a type under a mask. -/
def Ctx.vloaded (c : Ctx) (t : VTy) (d : Nat) (m : MWord) (bs : List Byte) : Ctx :=
  c.wrV d (fillElems t m (c.rdV d) (cutElems (t.width / 8) 256 bs))

/-- A vector load with its element addresses. -/
def State.vloadOp (s : State) (i : Ins) (ok : VTy → Bool) (d : BitVec 5) (mk ty : BitVec 3)
    (addr : VTy → Nat → Word) : Out :=
  s.vtyped i ok ty (fun t =>
    let m := s.cur.rdM mk.toNat
    (s.vload s.slot s.party ((activeOf t m).map (fun k => (addr t k, t.width / 8)))).thenDo i (fun s1 bs =>
      s1.retire (s1.cur.vloaded t d.toNat m bs) i))

/-- A vector store with its element addresses. -/
def State.vstoreOp (s : State) (i : Ins) (ok : VTy → Bool) (d : BitVec 5) (mk ty : BitVec 3)
    (addr : VTy → Nat → Word) (atom : VTy → Word → Bool) : Out :=
  s.vtyped i ok ty (fun t =>
    let m := s.cur.rdM mk.toNat
    let v := s.cur.rdV d.toNat
    (s.vstore s.slot s.party ((activeOf t m).map (fun k => (addr t k, bytesOf (t.width / 8) (t.elem v k)))) (atom t)).thenDo i
      (fun s1 _ => s.retireStore s1 i))

/-- Whether an element access is naturally aligned (R145). -/
def elAligned (t : VTy) (a : Word) : Bool := a.toNat % (t.width / 8) == 0

/-- VLD (R142, R143). -/
def execVld (d a : BitVec 5) (mk ty : BitVec 3) (s : State) : Out :=
  s.vloadOp (ins (.vld d a mk ty)) tyAll d mk ty (fun t k => contiguous t (s.cur.rd a.toNat) k)
/-- VST (R142, R143). -/
def execVst (d a : BitVec 5) (mk ty : BitVec 3) (s : State) : Out :=
  s.vstoreOp (ins (.vst d a mk ty)) tyAll d mk ty (fun t k => contiguous t (s.cur.rd a.toNat) k)
    (fun _ _ => (s.cur.rd a.toNat).toNat % 16 == 0)
/-- VLDS (R142, R143). -/
def execVlds (d a b : BitVec 5) (mk ty : BitVec 3) (s : State) : Out :=
  s.vloadOp (ins (.vlds d a b mk ty)) tyAll d mk ty (fun _ k => strided (s.cur.rd a.toNat) (s.cur.rd b.toNat) k)
/-- VSTS (R142 to R144). -/
def execVsts (d a b : BitVec 5) (mk ty : BitVec 3) (s : State) : Out :=
  s.vstoreOp (ins (.vsts d a b mk ty)) tyAll d mk ty (fun _ k => strided (s.cur.rd a.toNat) (s.cur.rd b.toNat) k) elAligned
/-- VGATH (R142, R143). -/
def execVgath (d a b : BitVec 5) (mk ty : BitVec 3) (s : State) : Out :=
  s.vloadOp (ins (.vgath d a b mk ty)) tyWord d mk ty (fun t k => indexed t (s.cur.rd a.toNat) (s.cur.rdV b.toNat) k)
/-- VSCAT (R142 to R144). -/
def execVscat (d a b : BitVec 5) (mk ty : BitVec 3) (s : State) : Out :=
  s.vstoreOp (ins (.vscat d a b mk ty)) tyWord d mk ty (fun t k => indexed t (s.cur.rd a.toNat) (s.cur.rdV b.toNat) k) elAligned

/-! ### The quantising store (R153 to R157) -/

/-- The descriptor words as a number. -/
structure VqDesc where
  lo : Nat
  hi : Nat
  deriving DecidableEq, Repr

/-- Fields of the descriptor (R154). -/
def VqDesc.count (q : VqDesc) : Nat := bitsOf q.lo 63 56
def VqDesc.eddy (q : VqDesc) : Nat := bitsOf q.lo 53 48
def VqDesc.tag (q : VqDesc) : BitVec 16 := BitVec.ofNat 16 (bitsOf q.lo 47 32)
def VqDesc.scale (q : VqDesc) : F32 := BitVec.ofNat 32 q.lo
def VqDesc.const (q : VqDesc) : Nat := bitsOf q.hi 47 32
def VqDesc.start (q : VqDesc) : BitVec 32 := BitVec.ofNat 32 q.hi

/-- Whether a target is RI32. -/
def QTgt.isRi : QTgt → Bool
  | .ri32 _ => true
  | _ => false

/-- Step 1 of R155 for a run of `n` elements of a source type of `cap`. -/
def VqDesc.bad (q : VqDesc) (t : QTgt) (n cap : Nat) : Bool :=
  bitsOf q.lo 55 54 ≠ 0 || bitsOf q.hi 63 48 ≠ 0 || cap < n ||
    (t.isRi && (bitsOf q.const 15 5 ≠ 0 || q.start.toNat % 64 ≠ 0 || 64 < n || 16 < q.const % 32)) ||
    (!t.isRi && q.const / 2 ^ t.bits ≠ 0) ||
    (t.isMx && (n % 16 ≠ 0 || q.start.toNat % 16 ≠ 0))

/-- The accesses that write codes: one for each code, for each byte of MXF4 (R153). -/
def codeParts (t : QTgt) (a : Word) (codes : List Nat) : List (Word × List Byte) :=
  let n := max 1 (t.bits / 8)
  let bs := packCodes t.bits codes
  (List.range (bs.length / n)).map (fun k => (a + BitVec.ofNat 64 (k * n), (bs.drop (k * n)).take n))

/-- The flag plane of a chunk (R95). -/
def flagPlane (fs : List Nat) : Nat := packElems 2 fs

/-- The bytes that a run writes (R155, R156); scales and the flag plane byte by byte (log 82). -/
def vqParts (t : QTgt) (a sc : Word) (codes blocks flags : List Nat) : List (Word × List Byte) :=
  if t.isRi then
    codeParts t a (codes ++ List.replicate (64 - codes.length) 0) ++
      (bytesOf 16 (flagPlane flags)).zipIdx.map (fun b => (a + 256 + BitVec.ofNat 64 b.2, [b.1]))
  else codeParts t a codes ++ blocks.zipIdx.map (fun b => (sc + BitVec.ofNat 64 b.2, [BitVec.ofNat 8 b.1]))

/-- VQST to a target: its checks, its run, and its stores, as one (R153 to R157); without an active element it raises no
flag (R133). DESIGN CHOICE (log 104): R157 calls its
bytes a vector store and does not say which case of R145 they take; the model takes a span as single-copy atomic where it
starts at a multiple of the code width. -/
def State.vqst (s : State) (i : Ins) (tgt : Nat → QTgt) (d a b : BitVec 5) (mk : BitVec 3) (ty : BitVec 1) : Out :=
  let c := s.cur
  let src : VTy := if ty = 0 then .f32 else .bf
  let q : VqDesc := ⟨(c.rd b.toNat).toNat, (c.rd (b.toNat + 1)).toNat⟩
  let words : BitVec 128 := BitVec.ofNat 128 (q.lo + q.hi * 2 ^ 64)
  let t := tgt (q.const % 32)
  let n := if q.count = 0 then src.count else q.count
  if b.toNat % 2 = 1 ∨ (t.isMx ∧ d.toNat % 2 = 1) then s.illegal i 0
  else if q.bad t n src.count then s.illegal i words
  else
    let ed := c.rdE q.eddy
    let brk := (incoming ed q.tag q.start).2
    if brk && c.fpst.getLsbD 7 then s.trap i ⟨0x09, 0, 0, words⟩
    else
      let v := c.rdV a.toNat
      let m := c.rdM mk.toNat
      let val (k : Nat) : F32 :=
        BitVec.ofNat 32 (if src = .bf then src.elem v k * 65536 else src.elem v k)
      let xs := (List.range n).map (fun k =>
        (!m.getLsbD k || (t.isRi && ri32Flag (val k) ≠ 0), val k))
      let flags := (List.range n).map (fun k => if m.getLsbD k then ri32Flag (val k) else 0)
      let r := quantize t (runScale t q.scale) (if t.isRi then 0 else q.const) ed q.tag q.start xs
      let dst := c.rd d.toNat
      (s.vstore s.slot s.party (vqParts t dst (c.rd (d.toNat + 1)) r.1 r.2.1 flags)
        (fun x => x.toNat % (max 1 (t.bits / 8)) == 0)).thenDo i (fun s1 _ =>
          s1.retire ((s1.cur.wrE q.eddy r.2.2.1).orFlags (if (List.range n).any (m.getLsbD ·) then r.2.2.2 else 0)) i)

/-- VQST to I8 (R153 to R157). -/
def execVqstI8 (d a b : BitVec 5) (mk : BitVec 3) (ty : BitVec 1) (s : State) : Out :=
  s.vqst (ins (.vqstI8 d a b mk ty)) (fun _ => .i8) d a b mk ty
/-- VQST to N8 (R153 to R157). -/
def execVqstN8 (d a b : BitVec 5) (mk : BitVec 3) (ty : BitVec 1) (s : State) : Out :=
  s.vqst (ins (.vqstN8 d a b mk ty)) (fun _ => .n8) d a b mk ty
/-- VQST to I16 (R153 to R157). -/
def execVqstI16 (d a b : BitVec 5) (mk : BitVec 3) (ty : BitVec 1) (s : State) : Out :=
  s.vqst (ins (.vqstI16 d a b mk ty)) (fun _ => .i16) d a b mk ty
/-- VQST to BF (R153 to R157). -/
def execVqstBf (d a b : BitVec 5) (mk : BitVec 3) (ty : BitVec 1) (s : State) : Out :=
  s.vqst (ins (.vqstBf d a b mk ty)) (fun _ => .bf) d a b mk ty
/-- VQST to MXI8 (R153 to R157). -/
def execVqstMxi8 (d a b : BitVec 5) (mk : BitVec 3) (ty : BitVec 1) (s : State) : Out :=
  s.vqst (ins (.vqstMxi8 d a b mk ty)) (fun _ => .mxi8) d a b mk ty
/-- VQST to MXF4 (R153 to R157). -/
def execVqstMxf4 (d a b : BitVec 5) (mk : BitVec 3) (ty : BitVec 1) (s : State) : Out :=
  s.vqst (ins (.vqstMxf4 d a b mk ty)) (fun _ => .mxf4) d a b mk ty
/-- VQST to MXF8 (R153 to R157). -/
def execVqstMxf8 (d a b : BitVec 5) (mk : BitVec 3) (ty : BitVec 1) (s : State) : Out :=
  s.vqst (ins (.vqstMxf8 d a b mk ty)) (fun _ => .mxf8) d a b mk ty
/-- VQST to RI32 (R153 to R157). -/
def execVqstRi32 (d a b : BitVec 5) (mk : BitVec 3) (ty : BitVec 1) (s : State) : Out :=
  s.vqst (ins (.vqstRi32 d a b mk ty)) (fun hr => .ri32 hr) d a b mk ty

/-! ### Re-issue (R128, R194, R350) -/

/-- The oldest replay entry re-issued: the checks of R117 and R122 again, with its captured operands. A fault is taken
at the entry's instruction, its frame's words a prefix and the captured word (R350, R371). DESIGN CHOICE (log 114): the test
of R113 that the entry's instruction had when it was captured stands, and a handler that returns to it runs it again with that
test. -/
def State.reissue (s : State) : Out :=
  match s.cur.replay with
  | [] => .next s
  | r :: rs =>
    match s.fetchAt s.slot r.pc with
    | (s1, .fault c k) => .next (s1.takeTrap s1 s1.slot ⟨c, k, r.pc, 0⟩ 0 false r.pc rs)
    | (s1, .wait z) => .next (s1.setCur { s1.cur with frz := z })
    | (s1, .words w _) =>
      let words := if isX w then rawWords w r.word else r.word.toNat
      let fin (x : Res) (k : Ctx → List Byte → Ctx) : Out :=
        match x with
        | .ok t bs => .next (t.setCur { (k t.cur bs) with replay := rs, frz := false, entered := 0 })
        | .fault t f => .next (t.takeTrap t t.slot f.trap words false r.pc rs)
        | .wait t z => .next (t.setCur { t.cur with frz := z })
      let vec (d : BitVec 5) (ty : BitVec 3) (addr : VTy → Nat → Word) : Out :=
        match VTy.ofCode ty.toNat with
        | some t => fin (s1.vload s1.slot s1.party ((activeOf t r.mask).map (fun k => (addr t k, t.width / 8))))
            (fun c bs => c.vloaded t d.toNat r.mask bs)
        | none => .next (s1.takeTrap s1 s1.slot ⟨1, 0, r.pc, 0⟩ words false r.pc rs)
      match decodeWord r.word 0 with
      | .ok (.ld d _ sz _) => fin (s1.unitLoad s1.slot s1.party r.ea ((accessSize sz).getD 1)) (fun c bs => c.loadInto d.toNat bs)
      | .ok (.st _ _ sz _) =>
        let n := (accessSize sz).getD 1
        fin (s1.unitStore s1.slot s1.party r.ea (bytesOf n r.oper.toNat) (r.ea.toNat % n == 0)) (fun c _ => c)
      | .ok (.vld d _ _ ty) => vec d ty (fun t k => contiguous t r.ea k)
      | .ok (.vlds d _ _ _ ty) => vec d ty (fun _ k => strided r.ea (r.oper.setWidth 64) k)
      | .ok (.vgath d _ _ _ ty) => vec d ty (fun t k => indexed t r.ea r.index k)
      | _ => .next (s1.takeTrap s1 s1.slot ⟨1, 0, r.pc, 0⟩ words false r.pc rs)

end Sys2Proof.Machine
end

