-- ==== Sys2Proof/Machine/System.lean ====
section
/-! DEFINITION. System registers, traps and returns, yielding and ending, and the prefix (R32 to R34, R39, R191 to R196,
R374, R382, R383). -/

namespace Sys2Proof.Machine

/-! ### System registers (R32) -/

/-- The domain and the register of its block that a number names: 0 to 4 HMASK, 5 DOMBASE, 6 DOMLIM. -/
def domReg (n : Nat) : Option (Nat × Nat) :=
  if 0x100 ≤ n ∧ n < 0x140 ∧ n % 16 ≤ 6 then some ((n - 0x100) / 16, n % 16) else none

/-- The lowest level that may read a register, `none` for an unassigned number. -/
def srRead (n : Nat) : Option Level :=
  if [0x000, 0x001, 0x010, 0x011, 0x012, 0x013, 0x014, 0x015, 0x016, 0x017, 0x018, 0x020, 0x021, 0x022, 0x023, 0x024,
      0x025, 0x026, 0x027].contains n then some .unit
  else if n = 0x030 then some .supervisor
  else if n = 0x040 ∨ n = 0x041 ∨ (domReg n).isSome then some .management
  else none

/-- The lowest level that may write an assigned register, `none` where no level may. -/
def srWrite (n : Nat) : Option Level :=
  if n = 0x020 then some .unit
  else if n = 0x030 then some .supervisor
  else if [0x001, 0x021, 0x023, 0x024, 0x040, 0x041].contains n ∨ (domReg n).isSome then some .management
  else none

/-- The order of the levels. -/
def Level.rank : Level → Nat
  | .unit => 0 | .supervisor => 1 | .management => 2

/-- Whether a number is a register of a job or of another class of core, and reads all ones on a class (R32, R281). -/
def srAbsent (k : CoreClass) (n : Nat) : Bool :=
  match k with
  | .stack => n == 0x016
  | .tile => n == 0x014 || n == 0x015 || n == 0x025 || n == 0x026
  | .head => [0x012, 0x014, 0x015, 0x016, 0x017, 0x018, 0x023, 0x024, 0x025, 0x026].contains n

/-- The bank of a quadrant whose deadline is earliest, as its lane within the stack, bank index and deadline; ties go to
the lowest lane, layer and bank (R339). -/
def State.earliest (s : State) (core : Nat) : Nat × Nat × Nat :=
  ((List.range 16).flatMap (fun i => (List.range 64).map (fun b => (i, b)))).foldl (fun (m : Nat × Nat × Nat) x =>
    let t := ((s.laneOf (16 * core + x.1)).bankT x.2).deadline
    if t < m.2.2 then (16 * (core % 4) + x.1, x.2, t) else m)
    (16 * (core % 4), 0, ((s.laneOf (16 * core)).bankT 0).deadline)

/-- RFDL (R34): TICKS is 0 from the deadline on (R339). -/
def State.rfdl (s : State) (core : Nat) : Nat :=
  let x := s.earliest core
  2 ^ 42 * (x.2.1 % 4) + 2 ^ 38 * (x.2.1 / 4) + 2 ^ 32 * x.1 + min (x.2.2 - s.refclk (core / 4)) (2 ^ 32 - 1)

/-- The value that a read of an assigned register returns (R32). -/
def State.srValue (s : State) (n : Nat) : Word :=
  let core := coreOf s.slot
  let u := s.unitOf s.slot
  if srAbsent (classOf core) n then BitVec.allOnes 64
  else match n with
    | 0x000 => (s.core core).cyc
    | 0x001 => s.time
    | 0x010 => toWord u.index
    | 0x011 => toWord (match SMap.find s.launches u.lctr with | some l => l.nunit + 1 | none => 1)
    | 0x012 => toWord u.lctr
    | 0x013 => toWord core
    | 0x014 => toWord (core / 4)
    | 0x015 => toWord (core % 4)
    | 0x016 => toWord ((core - 32) / 8)
    | 0x017 => toWord (s.jobMemb u.job)
    | 0x018 => toWord (s.jobMembers u.job)
    | 0x020 => s.cur.fpst
    | 0x021 => s.pwrs.setWidth 64
    | 0x022 => toWord s.cur.preq.toNat
    | 0x023 => s.cur.pdl.setWidth 64
    | 0x024 => s.jobBudget u.job
    | 0x025 => toWord (16 - (s.quadOf core).vfifo.length)
    | 0x026 => toWord (s.rfdl core)
    | 0x027 => toWord (if classOf core = .stack then (s.stackOf (core / 4)).hot
                       else (List.range 8).any (fun i => (s.stackOf i).hot)).toNat
    | 0x030 => s.cur.tframe
    | 0x040 => s.lseed
    | 0x041 => s.lfloor.setWidth 64
    | _ => match domReg n with
      | some (d, k) =>
        if k = 5 then SMap.get s.dombase 0 d else if k = 6 then SMap.get s.domlim 0 d else SMap.get s.hmask 0 (16 * d + k)
      | none => 0

/-- RDSR (R192). -/
def execRdsr (d : BitVec 5) (num : BitVec 11) (s : State) : Out :=
  let i := ins (.rdsr d num)
  match srRead num.toNat with
  | none => s.illegal i 0
  | some l =>
    if s.cur.level.rank < l.rank then s.denied i
    else s.retire (s.cur.wr d.toNat (s.srValue num.toNat)) i

/-- Whether a domain range lies within FZBASE to FZLIM; an empty one does (R383). -/
def State.withinFreeze (s : State) (base lim : Word) : Bool :=
  decide (lim.toNat < base.toNat) ||
    (decide ((s.raw 0x800008).toNat ≤ base.toNat) && decide (lim.toNat ≤ (s.raw 0x800010).toNat))

/-- A write of a domain register: taken in a freeze that covers the domain's range before and after, else counted
(R382, R383). -/
def State.putDomain (s : State) (d k : Nat) (v : Word) : State :=
  let base := SMap.get s.dombase 0 d
  let lim := SMap.get s.domlim 0 d
  let base' := if k = 5 then v &&& 0xFFFFFFE00000 else base
  let lim' := if k = 6 then (v &&& 0xFFFFFFE00000) ||| 0x1FFFFF else lim
  if s.fz && s.withinFreeze base lim && s.withinFreeze base' lim' then
    { s with
      dombase := SMap.set s.dombase 0 d base'
      domlim := SMap.set s.domlim 0 d lim'
      hmask := if k < 5 then SMap.set s.hmask 0 (16 * d + k) (v &&& 0x8000FFFFFFFFFE00) else s.hmask }
  else { s with fzIgn := min 255 (s.fzIgn + 1) }

/-- A permitted write of a system register, field by field (R32, R33, R192). -/
def State.srPut (s : State) (n : Nat) (v : Word) : State :=
  if srAbsent (classOf (coreOf s.slot)) n then s
  else match n with
    | 0x001 => { s with time := v, timeFrac := 0 }
    | 0x020 => s.setCur { s.cur with fpst := (s.cur.fpst &&& 0x7F &&& ~~~v) ||| (v &&& 0x80) }
    | 0x021 => s.setPwrs (v.toNat % 4)
    | 0x023 => s.setCur { s.cur with pdl := v.setWidth 32 }
    | 0x024 => s.setRaw (0x100000 + 0x100 * (s.unitOf s.slot).job + 40) v
    | 0x030 => s.setCur { s.cur with tframe := v &&& ~~~(0x1FF : Word) }
    | 0x040 => if v = 0 then s else { s with lseed := v }
    | 0x041 => { s with lfloor := v.setWidth 8 }
    | _ => match domReg n with
      | some (d, k) => s.putDomain d k v
      | none => s

/-- WRSR (R192). -/
def execWrsr (a : BitVec 5) (num : BitVec 11) (s : State) : Out :=
  let i := ins (.wrsr a num)
  if (srRead num.toNat).isNone then s.illegal i 0
  else match srWrite num.toNat with
    | none => s.retire s.cur i
    | some l =>
      if s.cur.level.rank < l.rank then s.denied i
      else
        let s1 := s.srPut num.toNat (s.cur.rd a.toNat)
        s1.retire s1.cur i

/-! ### Traps, returns and ends (R193 to R196, R374) -/

/-- TRAP: at unit level it retires and then takes a software trap; at supervisor level it asks the firmware for a service;
at management level it is illegal (R193, R374). -/
def execTrap (code : BitVec 11) (s : State) : Out :=
  let i := ins (.trap code)
  let s1 := s.setCur (s.cur.fall i.size)
  match s.cur.level with
  | .unit => .next (s.takeTrap s1 s1.slot ⟨0x10, code.toNat, 0, 0⟩ i.words false s1.cur.pc [])
  | .supervisor =>
    if code = 0 then .next (s.fatal s.slot 0x10 0 s.cur.pc (frameStatus 0 0x10 0 false .supervisor))
    else if code = 1 then (if s.saveHeld s.slot then s.wait false else .next (s1.startSave s1.slot false))
    else s.retire (s.cur.wr 1 (BitVec.allOnes 64)) i
  | .management => s.illegal i 0

/-- RTRAP: supervisor privilege; a frame with replay entries makes it illegal (R194, R372). -/
def execRtrap (s : State) : Out :=
  let i := ins .rtrap
  if s.cur.level = .unit then s.denied i else s.trapReturn i false

/-- REINJ: supervisor privilege; the frame's replay entries are issued again before the unit goes on (R194, R372). -/
def execReinj (s : State) : Out :=
  let i := ins .reinj
  if s.cur.level = .unit then s.denied i else s.trapReturn i true

/-- YIELD: a pending request is answered by a save, which resumes at the next instruction (R195). -/
def execYield (s : State) : Out :=
  let i := ins .yield
  if !s.cur.preq then s.retire s.cur i
  else if s.saveHeld s.slot then s.wait false
  else .next ((s.setCur (s.cur.fall i.size)).startSave s.slot false)

/-- HALT: the unit ends once its stores have left its side log; its context is freed and its contribution follows. A
service task ends and its request is done (R196, R277, R281). -/
def execHalt (s : State) : Out :=
  if !s.cur.side.isEmpty then s.wait false
  else if isTask s.slot then .next (s.haltTask s.slot)
  else
    let c := s.cur
    match c.uid with
    | none => .next (s.freeCtx s.slot)
    | some u =>
      .next ((s.setUnit u { s.unitAt u with
        ending := some .halted, pins := [], lastCore := coreOf s.slot, epoch := c.epoch }).freeCtx s.slot)

/-! ### The prefix (R39) -/

/-- A prefixed instruction, joined with the prefix, executes as one; a word that takes no prefix makes the prefix
illegal. -/
def execXPrefix (xhi : BitVec 26) (next : BitVec 32) (s : State) : Out :=
  let i : Ins := { ins (.xPrefix xhi next) with size := 8 }
  match decodeWord next 0 with
  | .ok (.addi d a m) => opAddi i d a (.joined xhi m) s
  | .ok (.andi d a m) => opAndi i d a (.joined xhi m) s
  | .ok (.ori d a m) => opOri i d a (.joined xhi m) s
  | .ok (.xori d a m) => opXori i d a (.joined xhi m) s
  | .ok (.slti d a m) => opSlti i d a (.joined xhi m) s
  | .ok (.sltni d a m) => opSltni i d a (.joined xhi m) s
  | .ok (.lui d m) => opLui i d (.joined xhi m) s
  | .ok (.addpc d m) => opAddpc i d (.joined xhi m) s
  | .ok (.bEq a b m) => opBranch i a b (.joined xhi m) condEq s
  | .ok (.bNe a b m) => opBranch i a b (.joined xhi m) condNe s
  | .ok (.bLt a b m) => opBranch i a b (.joined xhi m) condLt s
  | .ok (.bGe a b m) => opBranch i a b (.joined xhi m) condGe s
  | .ok (.bLtn a b m) => opBranch i a b (.joined xhi m) condLtn s
  | .ok (.bGen a b m) => opBranch i a b (.joined xhi m) condGen s
  | .ok (.jalr d a m) => opJalr i d a (.joined xhi m) s
  | .ok (.loop a m) => opLoop i a (.joined xhi m) s
  | .ok (.ld d a sz m) => opLd i d a sz (.joined xhi m) s
  | .ok (.st r a sz m) => opSt i r a sz (.joined xhi m) s
  | .ok (.prefLd a sz m) => opPref i .load a sz (.joined xhi m) s
  | .ok (.prefSt a sz m) => opPref i .store a sz (.joined xhi m) s
  | _ => s.illegal i 0

end Sys2Proof.Machine
end

