-- ==== Sys2Proof/Machine/Legal.lean ====
section
/-! DEFINITION. Whether a synchronous trap is due at an instruction boundary, an asynchronous trap that is due there, and the
expiry of a pre-emption deadline, which such a trap precedes (R60, R295, R373). -/

namespace Sys2Proof.Machine

/-- What an instruction of a core does that may take a synchronous trap in executing; of any other instruction, nothing. TRAP
traps once it has retired, and so is no trap of the boundary before it (R193). -/
def mayTrap : Instr → Option (State → Out)
  | .loop a imm => some (execLoop a imm)
  | .ld d a sz off => some (execLd d a sz off)
  | .st r a sz off => some (execSt r a sz off)
  | .prefLd a sz off => some (execPrefLd a sz off)
  | .prefSt a sz off => some (execPrefSt a sz off)
  | .amoAdd d a b ord sc wd => some (execAmoAdd d a b ord sc wd)
  | .amoMin d a b ord sc wd => some (execAmoMin d a b ord sc wd)
  | .amoMax d a b ord sc wd => some (execAmoMax d a b ord sc wd)
  | .amoMinn d a b ord sc wd => some (execAmoMinn d a b ord sc wd)
  | .amoMaxn d a b ord sc wd => some (execAmoMaxn d a b ord sc wd)
  | .amoAnd d a b ord sc wd => some (execAmoAnd d a b ord sc wd)
  | .amoOr d a b ord sc wd => some (execAmoOr d a b ord sc wd)
  | .amoXor d a b ord sc wd => some (execAmoXor d a b ord sc wd)
  | .amoSwap d a b ord sc wd => some (execAmoSwap d a b ord sc wd)
  | .cas d a b ord sc wd => some (execCas d a b ord sc wd)
  | .redAdd a b ord sc wd => some (execRedAdd a b ord sc wd)
  | .redMin a b ord sc wd => some (execRedMin a b ord sc wd)
  | .redMax a b ord sc wd => some (execRedMax a b ord sc wd)
  | .redMinn a b ord sc wd => some (execRedMinn a b ord sc wd)
  | .redMaxn a b ord sc wd => some (execRedMaxn a b ord sc wd)
  | .redAnd a b ord sc wd => some (execRedAnd a b ord sc wd)
  | .redOr a b ord sc wd => some (execRedOr a b ord sc wd)
  | .redXor a b ord sc wd => some (execRedXor a b ord sc wd)
  | .vadd d a b mk ty => some (execVadd d a b mk ty)
  | .vsub d a b mk ty => some (execVsub d a b mk ty)
  | .vmul d a b mk ty => some (execVmul d a b mk ty)
  | .vfma d a b mk ty => some (execVfma d a b mk ty)
  | .vfms d a b mk ty => some (execVfms d a b mk ty)
  | .vmin d a b mk ty => some (execVmin d a b mk ty)
  | .vmax d a b mk ty => some (execVmax d a b mk ty)
  | .vabs d a mk ty => some (execVabs d a mk ty)
  | .vneg d a mk ty => some (execVneg d a mk ty)
  | .vcmpEq d a b mk ty => some (execVcmpEq d a b mk ty)
  | .vcmpNe d a b mk ty => some (execVcmpNe d a b mk ty)
  | .vcmpLt d a b mk ty => some (execVcmpLt d a b mk ty)
  | .vcmpLe d a b mk ty => some (execVcmpLe d a b mk ty)
  | .vsel d a b mk ty => some (execVsel d a b mk ty)
  | .vand d a b mk ty => some (execVand d a b mk ty)
  | .vor d a b mk ty => some (execVor d a b mk ty)
  | .vxor d a b mk ty => some (execVxor d a b mk ty)
  | .vshl d a b mk ty => some (execVshl d a b mk ty)
  | .vshr d a b mk ty => some (execVshr d a b mk ty)
  | .vsra d a b mk ty => some (execVsra d a b mk ty)
  | .vcvt d a rz sty mk ty => some (execVcvt d a rz sty mk ty)
  | .vexp2 d a mk ty => some (execVexp2 d a mk ty)
  | .vlog2 d a mk ty => some (execVlog2 d a mk ty)
  | .vrcp d a mk ty => some (execVrcp d a mk ty)
  | .vrsq d a mk ty => some (execVrsq d a mk ty)
  | .vld d a mk ty => some (execVld d a mk ty)
  | .vst d a mk ty => some (execVst d a mk ty)
  | .vlds d a b mk ty => some (execVlds d a b mk ty)
  | .vsts d a b mk ty => some (execVsts d a b mk ty)
  | .vgath d a b mk ty => some (execVgath d a b mk ty)
  | .vscat d a b mk ty => some (execVscat d a b mk ty)
  | .vbcast d a mk ty => some (execVbcast d a mk ty)
  | .vext d a b ty => some (execVext d a b ty)
  | .vins d a b ty => some (execVins d a b ty)
  | .vredAdd d a mk ty => some (execVredAdd d a mk ty)
  | .vredMax d a mk ty => some (execVredMax d a mk ty)
  | .vredMin d a mk ty => some (execVredMin d a mk ty)
  | .vscan d a mk ty => some (execVscan d a mk ty)
  | .vperm d a b mk ty => some (execVperm d a b mk ty)
  | .viota d mk ty => some (execViota d mk ty)
  | .vqstI8 d a b mk ty => some (execVqstI8 d a b mk ty)
  | .vqstN8 d a b mk ty => some (execVqstN8 d a b mk ty)
  | .vqstI16 d a b mk ty => some (execVqstI16 d a b mk ty)
  | .vqstBf d a b mk ty => some (execVqstBf d a b mk ty)
  | .vqstMxi8 d a b mk ty => some (execVqstMxi8 d a b mk ty)
  | .vqstMxf4 d a b mk ty => some (execVqstMxf4 d a b mk ty)
  | .vqstMxf8 d a b mk ty => some (execVqstMxf8 d a b mk ty)
  | .vqstRi32 d a b mk ty => some (execVqstRi32 d a b mk ty)
  | .fenceAcq sc => some (execFenceAcq sc)
  | .fenceRel sc => some (execFenceRel sc)
  | .fenceSc sc => some (execFenceSc sc)
  | .lfence a all layer => some (execLfence a all layer)
  | .seal d a => some (execSeal d a)
  | .unseal d a => some (execUnseal d a)
  | .barinit d a sc => some (execBarinit d a sc)
  | .bararrive d a trapf sc => some (execBararrive d a trapf sc)
  | .barwait d a trapf sc => some (execBarwait d a trapf sc)
  | .barpend d a => some (execBarpend d a)
  | .cwait d a => some (execCwait d a)
  | .cwb d a => some (execCwb d a)
  | .cwbInv d a => some (execCwbInv d a)
  | .ralign a => some (execRalign a)
  | .push d q => some (execPush d q)
  | .pushf d => some (execPushf d)
  | .lpush d a => some (execLpush d a)
  | .lpushImg d a => some (execLpushImg d a)
  | .vsend d a slot buf => some (execVsend d a slot buf)
  | .qstat d q => some (execQstat d q)
  | .launch d a q => some (execLaunch d a q)
  | .cancelLaunch d a => some (execCancelLaunch d a)
  | .cancelGraph d a => some (execCancelGraph d a)
  | .cancelPhase d a => some (execCancelPhase d a)
  | .cancelJob d a => some (execCancelJob d a)
  | .rdsr d num => some (execRdsr d num)
  | .wrsr a num => some (execWrsr a num)
  | .rtrap => some (execRtrap)
  | .reinj => some (execReinj)
  | .xPrefix xhi next => some (execXPrefix xhi next)
  | _ => none

/-- Whether the frame at TFRAME returns as a fatal fault: that is what RTRAP and REINJ do with it, and no trap of theirs
(R372). -/
def State.fatalReturn (s : State) : Bool :=
  match s.load s.slot s.party s.cur.tframe 512 with
  | .ok _ bs => bitsOf (ofBytes ((bs.drop 8).take 8)) 23 22 == 2
  | _ => false

/-- Whether an instruction that executed in a state has taken a synchronous trap: its context has left its level, or its unit
has faulted. A CANCEL may end its own unit (R190). -/
def tookTrap (s : State) (i : Instr) (t : State) : Bool :=
  let c := t.ctx s.slot
  let faulted : Bool := c.uid != s.cur.uid && s.cur.uid.any (fun u => (t.unit? u).isSome)
  match i with
  | .rtrap | .reinj => if s.cur.level = .unit then c.uid != s.cur.uid || c.level != s.cur.level else c.uid != s.cur.uid && !s.fatalReturn
  | .cancelLaunch .. | .cancelGraph .. | .cancelPhase .. | .cancelJob .. => faulted || (c.uid == s.cur.uid && c.level != s.cur.level)
  | _ => c.uid != s.cur.uid || c.level != s.cur.level

/-- Whether an instruction that executed in a state meets a trap whose frame cannot be written yet: its context stands as it
was. -/
def trapWaits (s t : State) : Bool := { t.ctx s.slot with frz := s.cur.frz } == s.cur

/-- The state after the synchronous trap that is due at a slot's boundary, of the fetch, of the decoding or of the instruction
there; `none` where none is due (R59, R60, R373; log 88). -/
def State.boundaryTrap (s : State) (slot : Nat) : Option State :=
  let pc := (s.ctx slot).pc
  match s.fetchIns slot with
  | (s1, .fault k i) => some (s1.takeTrap s1 slot ⟨k, i, pc, 0⟩ 0 false pc [])
  | (_, .wait _) => none
  | (s1, .words w n) =>
    match decodeWord w n with
    | .error _ => some (s1.takeTrap s1 slot ⟨1, 0, pc, 0⟩ (rawWords w n) false pc [])
    | .ok i =>
      let s2 := { s1 with slot := slot }
      match mayTrap i with
      | none => none
      | some f => (match f s2 with
        | .next t => if tookTrap s2 i t || trapWaits s2 t then some { t with slot := s.slot } else none
        | _ => none)

/-- The trap that is delivered first at a slot's boundary at which an asynchronous trap is due: the synchronous one of the
instruction there, if it has one (R373). -/
def State.boundary (s : State) (slot : Nat) : State :=
  if (s.ctx slot).held then s.asyncTrap slot else (s.boundaryTrap slot).getD (s.asyncTrap slot)

/-- ASYNC_TRAP: a trap pending for a unit at unit level is taken at its boundary, once its replay entries have been issued again
(R370, R373, R379). -/
def execAsyncTrap (slot : Nat) (s : State) : Out :=
  if s.asyncDue slot ∧ (s.ctx slot).replay.isEmpty then .next (s.boundary slot) else .next s

/-- PDL_EXPIRE: the deadline of a pre-emption request has passed. A trap that is due at the boundary is taken first, then
the forced save begins (R60, R295); one whose frame cannot be written yet leaves the save to a later turn. A unit that
waits at a yield point has answered the request (R200). -/
def execPdlExpire (slot : Nat) (s : State) : Out :=
  let c := s.ctx slot
  if c.st ≠ .preempt ∨ c.pdlLeft ≠ 0 ∨ s.saveHeld slot then .next s
  else if s.atYieldPoint slot then .next (s.startSave slot false)
  else
    let sync := if c.held || !c.replay.isEmpty then none else s.boundaryTrap slot
    let due : Bool := s.asyncDue slot && c.replay.isEmpty
    let s1 := match sync with
      | some t => t
      | none => if due then s.asyncTrap slot else s
    let left : Bool := (sync.isSome || due) && (s1.ctx slot).level == c.level
    if !left && (s1.ctx slot).uid == c.uid && (s1.ctx slot).st == .preempt then .next (s1.startSave slot true) else .next s1

end Sys2Proof.Machine
end

