-- ==== Sys2Proof/Machine/Nodes.lean ====
section
/-! DEFINITION. NODE and the node walker (R265, R266, R289, R364). -/

namespace Sys2Proof.Machine

/-- The core whose node walker holds an owner's nodes: where its unit is, or else where it last ran; the headwater core
for a graph image (R289, R364). -/
def State.walkerCore (s : State) (owner : Nat) : Nat :=
  if owner < 2 ^ 32 then
    match s.slotOf owner with
    | some sl => coreOf sl
    | none => (s.unitAt owner).lastCore
  else 80

/-- One attempt at a NODE: NID 0, a NID in use and a negative count are FCODE 0x2E (R249, R266). -/
def State.nodeTry (target pcnt : Nat) (blk : Word) (s : State) (r : Rec) : Try (Option Rec) :=
  let n := s.node r.owner r.nid
  if r.nid = 0 ∨ n.declared ∨ pcnt < n.credit then .fault 0x2E 0 0
  else
    .ok { (s.setNode r.owner r.nid { Node.init with
        declared := true, count := pcnt - n.credit, target := target, blk := blk, status := r.bits.setWidth 256,
        ready := s.seq, slot := r.slot }) with seq := s.seq + 1 } none

/-- NODE (R265, R266). -/
def execNode (_h : RecHdr) (target : BitVec 3) (pcnt : BitVec 12) (blk : Word) (s : State) : Out :=
  s.popPlain (fun s r => s.accepts s.queue 33 r) (fun s r _ => State.nodeTry target.toNat pcnt.toNat blk s r)

/-- The NODE record of a declared node. -/
def State.nodeRec (s : State) (owner nid : Nat) : Rec :=
  let n := s.node owner nid
  { bits := n.status.setWidth 128, slot := n.slot, uid := if owner < 2 ^ 32 then some owner else none, seq := s.seq,
    gctr := if owner < 2 ^ 32 then none else some (owner - 2 ^ 32), chained := false, subs := [], chain := none, flags := 0,
    waits := [], ts := none, desc := [], fired := true, todo := false, link := false, prev := none, raw := none }

/-- A fault at a fire: it holds the walker, or ends the node of a graph image (R249, R289). -/
def State.fireFault (s : State) (owner nid fcode check : Nat) (addr : Word) : State :=
  let r := s.nodeRec owner nid
  if owner < 2 ^ 32 then { s.recFault (8 * s.walkerCore owner + 3) r fcode check addr with seq := s.seq + 1 }
  else
    let s1 := s.nodeStat owner nid (StatUpd.bad fcode check 3 addr r.bits.toNat)
    s1.setNode owner nid { s1.node owner nid with fired := true }

/-- Whether a node of the same walker became ripe before (R266). -/
def State.riperNode (s : State) (core ready : Nat) : Bool :=
  let before (owner : Nat) (ns : SMap Node) : Bool := s.walkerCore owner == core && ns.any (fun x => x.2.ripe && x.2.ready < ready)
  s.units.any (fun u => before u.1 u.2.nodes) || s.graphs.any (fun g => before (graphOwner g.1) g.2.nodes)

/-- A fired node: what it named as its successors, and its launch's counter, or its record, which is RECORD of its
status (R250). -/
def State.nodeFired (s : State) (owner nid : Nat) (block : List Byte) (lctr : Option Nat) (record : Option (BitVec 128)) : State :=
  let n := s.node owner nid
  s.setNode owner nid { n with
    fired := true, lctr := lctr, succ := (block.drop 16).map BitVec.toNat,
    status := match record with
      | some r => BitVec.ofNat 256 (setBits n.status.toNat 127 0 r.toNat)
      | none => n.status }

/-- The packet of a launch fired from a graph image has PEN and PARENT forced to its counter (R289). -/
def forceParent (packet g : Nat) : Nat := setBits (setBits packet 914 914 1) 956 944 g

/-- A launch node's packet submitted (R189, R265, R280): refused it is FCODE 0x24; a full queue holds the walker. DESIGN
CHOICE (log 125): so is a node that names no submission queue, or one that is not granted to the job. -/
def State.fireLaunch (s : State) (owner nid : Nat) (p : Party) (block : List Byte) : State :=
  let q := dfield block 8 1
  let unit : Bool := owner < 2 ^ 32
  if dfield block 9 7 ≠ 0 then s.fireFault owner nid 0x23 0 0
  else match s.readDesc p (dptr block 0) 128 128 with
    | .wait s1 z => s1.portHeld (8 * s.walkerCore owner + 3) z
    | .fault f c a => s.fireFault owner nid f c a
    | .ok s1 bs =>
      if 64 ≤ q ∨ !s1.queueOfJob p.job q then s.fireFault owner nid 0x24 0 0
      else
        let packet := if unit then ofBytes bs else forceParent (ofBytes bs) (owner - 2 ^ 32)
        match s1.submit q p.job packet unit (some (owner, nid)) (if unit then none else some (owner - 2 ^ 32)) with
        | (_, .full) => s
        | (_, .refused _) => s.fireFault owner nid 0x24 0 0
        | (s2, .accepted n) => s2.nodeFired owner nid block (some n) none

/-- Whether every store that a unit has made has performed, wherever the unit is (R184, R247). -/
def State.settledUnit (s : State) (uid : Option Nat) : Bool :=
  match uid with
  | none => true
  | some u =>
    match s.slotOf u with
    | some sl => s.quiet sl
    | none => (s.unitAt u).side.isEmpty && !(s.remotes.any (fun (x : Remote) => x.uid == u)) &&
        s.lanes.all (fun l => l.2.fills.all (fun (f : FillWait) => f.uid != some u))

/-- NODE_FIRE: the walker reads the block, writes NID into the record and enters it in its queue, or submits the
launch (R265, R266, R364). A full queue holds the walker. -/
def execNodeFire (owner nid : Nat) (s : State) : Out :=
  let n := s.node owner nid
  let core := s.walkerCore owner
  let r := s.nodeRec owner nid
  if !n.ripe || !(s.engq (8 * core + 3)).fault.isEmpty || s.riperNode core n.ready then .next s
  else
    let p := s.recParty core r
    match (if r.gctr.isSome then s.mapReady p.job else .ok s .unit).andThen (fun s _ => s.readDesc p n.blk 32 32) with
    | .wait s1 z => .next (s1.portHeld (8 * core + 3) z)
    | .fault f c a => .next (s.fireFault owner nid f c a)
    | .ok s1 bs =>
      if n.target = 7 then (if s1.settledUnit r.uid then .next (s1.fireLaunch owner nid p bs) else .next s)
      else
        let k := 8 * core + n.target
        if 32 ≤ ((s1.engq k).recs.filter (fun (x : Rec) => !x.chained)).length then .next s
        else
          let slot := match r.uid.bind s1.slotOf with
            | some sl => sl
            | none => n.slot
          let bits := BitVec.ofNat 128 (setBits (dfield bs 0 16) 104 97 nid)
          .next ((s1.enterRec k slot r.uid r.gctr bits).nodeFired owner nid bs none (some bits))

end Sys2Proof.Machine
end

