-- ==== Sys2Proof/Machine/Tile.lean ====
section
/-! DEFINITION. The matrix and epilogue engines of a tile core: FMT, MTILE and EPI (R57, R58, R244, R245, R258 to R264,
R363 to R366). -/

namespace Sys2Proof.Machine

/-! ### Format words (R57, R58, R258, R259) -/

/-- Fields of a format word. -/
structure FmtWord where
  code   : Nat
  k      : Nat
  scount : Nat
  gcount : Nat
  resv   : Nat
  deriving DecidableEq, Repr

/-- The fields of a format word's bits. -/
def FmtWord.ofWord (w : Word) : FmtWord :=
  ⟨bitsOf w.toNat 63 60, bitsOf w.toNat 55 32, bitsOf w.toNat 31 11, bitsOf w.toNat 10 0, bitsOf w.toNat 59 56⟩

/-- The scale counts that a format requires for K (R57, R76). -/
def WFmt.counts (f : WFmt) (k : Nat) : Nat × Nat :=
  match f with
  | .cb4 => (ceilDiv k 64, ceilDiv k 16384)
  | .bf16 => (0, 0)
  | _ => (ceilDiv k 16, 0)

/-- The format of a word that passes R58, or the fault code. -/
def FmtWord.check (w : FmtWord) : Except Nat WFmt :=
  match WFmt.ofCode w.code with
  | none => .error 0x27
  | some f => if w.k = 0 ∨ w.resv ≠ 0 then .error 0x27 else if (w.scount, w.gcount) ≠ f.counts w.k then .error 0x28 else .ok f

/-- FMT (R259). Behind a running MTILE it completes in pop order (R244). -/
def execFmt (_h : RecHdr) (word : Word) (s : State) : Out :=
  s.popPlain (fun s r => s.accepts s.queue 33 r) (fun s r _ =>
    let core := s.queue / 8
    let c := s.core core
    if 16 ≤ c.fmtq.length then .fault 0x2F 0 0
    else
      let s1 := s.setCore core { c with fmtq := c.fmtq ++ [(r.uid.getD 0, word)] }
      if (s1.engq s1.queue).run.isEmpty then .ok (s1.finishRec r true) none else .ok s1 (some r))

/-! ### Order between the engines (R245) -/

/-- Whether a record of a type that names an accumulator tile was pushed before a record and has not completed. -/
def EngQ.earlier (e : EngQ) (type acc seq : Nat) : Bool :=
  (e.recs ++ e.run ++ e.fault.map (·.2)).any (fun r =>
    r.seq < seq && bitsOf r.bits.toNat 127 122 == type && bitsOf r.bits.toNat 96 95 == acc)

/-- Whether element (m, n) of a tile is masked: an unsigned compare of global positions (R261, R264). -/
def maskedAt (tri : Bool) (row0 col0 m n : Nat) : Bool := tri && row0 + m < col0 + n

/-- The place of element n of row m of tile t (R260). -/
def tilePlace (t m n : Nat) : Nat := 65536 * t + 256 * m + n

/-! ### MTILE (R260 to R262) -/

/-- An MTILE descriptor (R260). -/
structure MtileDesc where
  a    : Word
  b    : Word
  bs   : Word
  astr : Nat
  bstr : Nat
  sstr : Nat
  row0 : Nat
  col0 : Nat
  mval : F32
  kc   : Nat
  deriving DecidableEq, Repr

/-- The fields of an MTILE descriptor's bytes. -/
def MtileDesc.ofDesc (x : List Byte) : MtileDesc :=
  { a := dptr x 0, b := dptr x 8, bs := dptr x 16, astr := dfield x 24 4, bstr := dfield x 28 4, sstr := dfield x 32 4,
    row0 := dfield x 36 4, col0 := dfield x 40 4, mval := BitVec.ofNat 32 (dfield x 44 4), kc := dfield x 48 2 }

/-- Bytes of K packed elements (R72). -/
def WFmt.bytes (f : WFmt) (k : Nat) : Nat := ceilDiv (f.bits * k) 8

/-- Bytes of a column's scales: CB4 super-scales, then block codes (R260). -/
def WFmt.scaleBytes (f : WFmt) (k : Nat) : Nat := 4 * (f.counts k).2 + (f.counts k).1

/-- The scale of block `b` of 16 of a column by its scale bytes (R74, R76, R78). -/
def WFmt.scale (f : WFmt) (k : Nat) (sc : List Byte) (b : Nat) : Fp :=
  match f with
  | .bf16 => .fin false 1 0
  | .cb4 =>
    cb4Scale (BitVec.ofNat 32 (ofBytes ((sc.drop (4 * (b / 1024))).take 4))) (sc.getD (4 * (f.counts k).2 + b / 4) 0).toNat
  | _ => e8m0 (sc.getD b 0).toNat

/-- The K elements of an operand packed in bytes. -/
def WFmt.elems (f : WFmt) (bs : List Byte) (k : Nat) : List Fp := (List.range k).map (f.elem (fun i => bs.getD i 0))

/-- One element of the product: from the accumulator, or the slices combined at the lane positions of the stack tree
(R79 to R81, R261). -/
def tileDot (acc : F32) (slice : Option Nat) (a b : List Fp) (scale : Nat → Fp) : F32 :=
  let ps := a.zip b
  let one : Fp := .fin false 1 0
  match slice with
  | none => dot acc ps (fun i => (one, scale i))
  | some kc =>
    let parts := (groups kc ps.length ps).zipIdx.map (fun g =>
      some (dot 0 g.1 (fun i => (one, scale (g.2 * (kc / 16) + i)))))
    (stackTree fadd (parts ++ List.replicate (64 - parts.length) none)).getD 0

/-- The address of row or column `i` under an unsigned stride. -/
def strideAt (base : Word) (stride i : Nat) : Word := base + BitVec.ofNat 64 (i * stride)

/-- Step 12 of R249 for an MTILE, and the limits of PART that depend on the format word: the format and K. -/
def State.mtileWord (s : State) (core : Nat) (r : Rec) (part : Bool) (kc : Nat) : Try (WFmt × Nat) :=
  match (s.core core).fmtq.find? (fun w => w.1 == r.uid.getD 0) with
  | none => .fault 0x29 0 0
  | some (_, w) =>
    let x := FmtWord.ofWord w
    match x.check with
    | .error f => .fault f 0 0
    | .ok f =>
      if part ∧ ((f = .cb4 ∧ kc % 64 ≠ 0) ∨ 64 < ceilDiv x.k kc) then .fault 0x24 0 0 else .ok s (f, x.k)

/-- An MTILE's checks before its descriptor is read (R249). -/
def State.mtilePre (part zero : Bool) (s : State) (r : Rec) (p : Party) : Try PUnit :=
  (s.ensure (!part || zero) 0x24).andThen fun s _ => s.headCtr p r

/-- An MTILE of `m` rows and `n` columns with its descriptor read (R249, R260 to R262). DESIGN CHOICE (log 123): R260 states
windows for A and B alone; BS may stand where B may, in windows 0x0, 0x1 and 0x2. -/
def State.mtileTry (core : Nat) (acc : Nat) (zero tri : Bool) (m n : Nat) (part : Bool) (s : State) (r : Rec) (p : Party) :
    Try (Option Rec) :=
  let x := r.desc
  let d := MtileDesc.ofDesc x
  (s.ensure (dfield x 50 14 == 0) 0x23).andThen fun s _ =>
  (s.ensure (!part || (d.kc ≠ 0 && d.kc % 16 == 0)) 0x24).andThen fun s _ =>
  (s.mtileWord core r part d.kc).andThen fun s w =>
  let f := w.1
  let k := w.2
  let live (i j : Nat) : Bool := !maskedAt tri d.row0 d.col0 i j
  let rows := (List.range m).filter (fun i => live i 0)
  let cols := (List.range n).filter (fun j => live (m - 1) j)
  (s.operands p .load [1, 2] (rows.map (fun i => (strideAt d.a d.astr i, 2 * k)))).andThen fun s la =>
  (s.operands p .load [0, 1, 2] (cols.map (fun j => (strideAt d.b d.bstr j, f.bytes k)))).andThen fun s lb =>
  (s.operands p .load [0, 1, 2] (cols.map (fun j => (strideAt d.bs d.sstr j, f.scaleBytes k)))).andThen fun s lc =>
  (s.opReady [la.wait, lb.wait, lc.wait]).andThen fun s _ =>
  let la := la.locs
  let lb := lb.locs
  let lc := lc.locs
  (s.dataOk (la ++ lb ++ lc)).andThen fun s _ =>
  let bytes (ls : List (Word × List Loc)) (base : Word) (str i : Nat) : List Byte := s.readLocs (locsAt ls (strideAt base str i))
  let t := (s.core core).tiles
  let row (i : Nat) : List Fp := WFmt.bf16.elems (bytes la d.a d.astr i) k
  let col (j : Nat) : List Fp := f.elems (bytes lb d.b d.bstr j) k
  let sc (j : Nat) : Nat → Fp := f.scale k (bytes lc d.bs d.sstr j)
  let val (i j : Nat) : F32 :=
    if !live i j then d.mval
    else tileDot (if zero then 0 else SMap.get t 0 (tilePlace acc i j)) (if part then some d.kc else none) (row i) (col j) (sc j)
  let out := (List.range m).flatMap (fun i => (List.range n).map (fun j => (tilePlace acc i j, val i j)))
  let s1 := ((la ++ lb ++ lc).flatMap (·.2)) |> s.touchReads
  let s2 := s1.setCore core { s1.core core with tiles := out.foldl (fun t x => SMap.set t 0 x.1 x.2) t }
  .ok { s2 with power := { s2.power with active := if s2.power.active.contains core then s2.power.active
                                                   else core :: s2.power.active } } (some r)

/-- MTILE (R260 to R262). -/
def execMtile (_h : RecHdr) (acc : BitVec 2) (zero tri : Bool) (rows cols : BitVec 8) (part : Bool) (desc : Word)
    (s : State) : Out :=
  let core := s.queue / 8
  s.popHead (fun s r => s.accepts s.queue 1 r && !(s.engq (8 * core + 2)).earlier 3 acc.toNat r.seq)
    (State.mtilePre part zero) (some desc)
    (State.mtileTry core acc.toNat zero tri (rows.toNat + 1) (cols.toNat + 1) part)

/-! ### EPI (R263, R264) -/

/-- An EPI descriptor (R263). -/
structure EpiDesc where
  dst   : Word
  sdst  : Word
  eimg  : Word
  dstr  : Nat
  scale : F32
  tag   : BitVec 16
  const : Nat
  start : BitVec 32
  e0    : Nat
  row0  : Nat
  col0  : Nat
  deriving DecidableEq, Repr

/-- The fields of an EPI descriptor's bytes. -/
def EpiDesc.ofDesc (x : List Byte) : EpiDesc :=
  { dst := dptr x 0, sdst := dptr x 8, eimg := dptr x 16, dstr := dfield x 24 4, scale := BitVec.ofNat 32 (dfield x 28 4),
    tag := BitVec.ofNat 16 (dfield x 32 2), const := dfield x 34 2, start := BitVec.ofNat 32 (dfield x 36 4),
    e0 := dfield x 40 1, row0 := dfield x 48 4, col0 := dfield x 52 4 }

/-- Bits of a stored code: FP32 bits for TGT 7. -/
def epiBits (t : Option QTgt) : Nat := match t with | some t => t.bits | none => 32

/-- Whether a target is microscaled. -/
def epiMx (t : Option QTgt) : Bool := match t with | some t => t.isMx | none => false

/-- Step 9 of R249 for an EPI of `u` runs (R263). -/
def EpiDesc.fits (d : EpiDesc) (t : Option QTgt) (eio u : Nat) : Bool :=
  d.e0 + u ≤ 256 && !(t.isNone && d.tag ≠ 0) && !(epiMx t && d.start.toNat % 16 ≠ 0) &&
    d.const / 2 ^ epiBits t == 0 && !(eio ≠ 0 && d.eimg.toNat % 16 ≠ 0)

/-- Flags of a run as flags of a status: SAT, NV, EDDYBRK (R250). -/
def runFlags (f : Nat) : Nat :=
  (if f &&& fSAT ≠ 0 then 1 else 0) + (if f &&& fNV ≠ 0 then 2 else 0) + (if f &&& fBRK ≠ 0 then 4 else 0)

/-- One run: its bytes, scale bytes, register and flags (R84 to R88, R264). -/
def EpiDesc.run (d : EpiDesc) (t : Option QTgt) (ed : Eddy) (xs : List (Bool × F32)) : List Byte × List Byte × Eddy × Nat :=
  match t with
  | none => (xs.flatMap (fun x => bytesOf 4 (if x.1 then d.const else x.2.toNat)), [], ed, 0)
  | some t =>
    let q := quantize t (runScale t d.scale) d.const ed d.tag d.start xs
    (packCodes t.bits q.1, q.2.1.map (BitVec.ofNat 8), q.2.2.1, q.2.2.2)

/-- An EPI's checks before its descriptor is read, of runs of `n` elements: EIO and the run length are of the record's own
fields (R249, R263). -/
def State.epiPre (tgt eio n : Nat) (s : State) (r : Rec) (p : Party) : Try PUnit :=
  let t := QTgt.ofCode tgt
  (s.ensure (!(t.isNone && eio ≠ 0) && !(epiMx t && n % 16 ≠ 0)) 0x24).andThen fun s _ => s.headCtr p r

/-- An EPI with its descriptor read. It commits whole, and so completes at once (R89, R249, R263, R264). -/
def State.epiTry (core acc : Nat) (axis : Bool) (tgt : Nat) (strict : Bool) (eio : Nat) (tri : Bool) (nr nc : Nat)
    (s : State) (r : Rec) (p : Party) : Try (Option Rec) :=
  let t := QTgt.ofCode tgt
  let u := if axis then nc else nr
  let n := if axis then nr else nc
  let x := r.desc
  let d := EpiDesc.ofDesc x
  (s.ensure (dfield x 41 7 == 0 && dfield x 56 8 == 0) 0x23).andThen fun s _ =>
  (s.ensure (d.fits t eio u) 0x24).andThen fun s _ =>
  let us := List.range u
  let image (i : Nat) : Word := strideAt d.eimg 16 i
  (s.operands p .store [0, 1, 2, 3] (us.map (fun i => (strideAt d.dst d.dstr i, n * epiBits t / 8)))).andThen fun s ld =>
  (s.operands p .store [0, 1, 2, 3] (if epiMx t then us.map (fun i => (strideAt d.sdst (n / 16) i, n / 16)) else [])).andThen fun s lsc =>
  (s.operands p .load [1, 2] (if bitOf eio 0 then us.map (fun i => (image i, 16)) else [])).andThen fun s li =>
  (s.operands p .store [1, 2] (if bitOf eio 1 then us.map (fun i => (image i, 16)) else [])).andThen fun s lo =>
  (s.opReady [ld.wait, lsc.wait, li.wait, lo.wait]).andThen fun s _ =>
  let ld := ld.locs
  let lsc := lsc.locs
  let li := li.locs
  let lo := lo.locs
  (s.dataOk li).andThen fun s _ =>
  let bank := (s.ctx r.slot).epi
  let ed (i : Nat) : Eddy × Bool :=
    if bitOf eio 0 then eddyOfImage (ofBytes (s.readLocs (locsAt li (image i))))
    else (SMap.get bank ⟨0, 0, 0⟩ (d.e0 + i), false)
  (s.ensure (!(strict && us.any (fun i => (incoming (ed i).1 d.tag d.start).2))) 0x2A).andThen fun s _ =>
  let tile := (s.core core).tiles
  let cell (i k : Nat) : Bool × F32 :=
    let a := if axis then k else i
    let b := if axis then i else k
    (maskedAt tri d.row0 d.col0 a b, SMap.get tile 0 (tilePlace acc a b))
  let outs := us.map (fun i => (i, (ed i).2, d.run t (ed i).1 ((List.range n).map (cell i))))
  let s1 := outs.foldl (fun s o => s.writeFor p (locsAt ld (strideAt d.dst d.dstr o.1)) o.2.2.1) s
  let s2 := outs.foldl (fun s o => s.writeFor p (locsAt lsc (strideAt d.sdst (n / 16) o.1)) o.2.2.2.1) s1
  let s3 := if bitOf eio 1 then
      outs.foldl (fun s o => s.writeFor p (locsAt lo (image o.1)) (eddyBytes o.2.2.2.2.1)) s2 else s2
  let c := s3.ctx r.slot
  let s4 := if t.isNone then s3 else
    s3.setCtx r.slot { c with epi := outs.foldl (fun b o => SMap.set b ⟨0, 0, 0⟩ (d.e0 + o.1) o.2.2.2.2.1) c.epi }
  let flags := outs.foldl (fun f o => f ||| runFlags (o.2.2.2.2.2 ||| (if o.2.1 then fBRK else 0))) 0
  .ok (s4.finishRec { r with flags := r.flags ||| flags } true) none

/-- EPI (R263, R264). -/
def execEpi (_h : RecHdr) (acc : BitVec 2) (axis : Bool) (tgt : BitVec 3) (strict : Bool) (eio : BitVec 2) (tri : Bool)
    (rows cols : BitVec 8) (desc : Word) (s : State) : Out :=
  let core := s.queue / 8
  let nr := rows.toNat + 1
  let nc := cols.toNat + 1
  s.popHead (fun s r => s.accepts s.queue 1 r && !(s.engq (8 * core + 1)).earlier 2 acc.toNat r.seq)
    (State.epiPre tgt.toNat eio.toNat (if axis then nr else nc)) (some desc)
    (State.epiTry core acc.toNat axis tgt.toNat strict eio.toNat tri nr nc)

end Sys2Proof.Machine
end

