-- ==== Sys2Proof/Machine/Dispatch.lean ====
section
/-! DEFINITION. The dispatch of an instruction to its meaning: one arm per constructor. -/

namespace Sys2Proof.Machine

/-- What an instruction does to the machine. -/
def exec (i : Instr) (s : State) : Host.Outcome State Fault Refusal :=
  match i with
  | .add d a b => Sys2Proof.Machine.execAdd d a b s
  | .sub d a b => Sys2Proof.Machine.execSub d a b s
  | .and d a b => Sys2Proof.Machine.execAnd d a b s
  | .or d a b => Sys2Proof.Machine.execOr d a b s
  | .xor d a b => Sys2Proof.Machine.execXor d a b s
  | .andn d a b => Sys2Proof.Machine.execAndn d a b s
  | .shl d a b => Sys2Proof.Machine.execShl d a b s
  | .shr d a b => Sys2Proof.Machine.execShr d a b s
  | .sra d a b => Sys2Proof.Machine.execSra d a b s
  | .rotr d a b => Sys2Proof.Machine.execRotr d a b s
  | .mul d a b => Sys2Proof.Machine.execMul d a b s
  | .mulhi d a b => Sys2Proof.Machine.execMulhi d a b s
  | .mulhn d a b => Sys2Proof.Machine.execMulhn d a b s
  | .div d a b => Sys2Proof.Machine.execDiv d a b s
  | .divn d a b => Sys2Proof.Machine.execDivn d a b s
  | .rem d a b => Sys2Proof.Machine.execRem d a b s
  | .remn d a b => Sys2Proof.Machine.execRemn d a b s
  | .min d a b => Sys2Proof.Machine.execMin d a b s
  | .max d a b => Sys2Proof.Machine.execMax d a b s
  | .minn d a b => Sys2Proof.Machine.execMinn d a b s
  | .maxn d a b => Sys2Proof.Machine.execMaxn d a b s
  | .slt d a b => Sys2Proof.Machine.execSlt d a b s
  | .sltn d a b => Sys2Proof.Machine.execSltn d a b s
  | .clz d a => Sys2Proof.Machine.execClz d a s
  | .ctz d a => Sys2Proof.Machine.execCtz d a s
  | .popc d a => Sys2Proof.Machine.execPopc d a s
  | .addi d a imm => Sys2Proof.Machine.execAddi d a imm s
  | .andi d a imm => Sys2Proof.Machine.execAndi d a imm s
  | .ori d a imm => Sys2Proof.Machine.execOri d a imm s
  | .xori d a imm => Sys2Proof.Machine.execXori d a imm s
  | .slti d a imm => Sys2Proof.Machine.execSlti d a imm s
  | .sltni d a imm => Sys2Proof.Machine.execSltni d a imm s
  | .shli d a n => Sys2Proof.Machine.execShli d a n s
  | .shri d a n => Sys2Proof.Machine.execShri d a n s
  | .srai d a n => Sys2Proof.Machine.execSrai d a n s
  | .lui d imm => Sys2Proof.Machine.execLui d imm s
  | .addpc d imm => Sys2Proof.Machine.execAddpc d imm s
  | .bEq a b off => Sys2Proof.Machine.execBEq a b off s
  | .bNe a b off => Sys2Proof.Machine.execBNe a b off s
  | .bLt a b off => Sys2Proof.Machine.execBLt a b off s
  | .bGe a b off => Sys2Proof.Machine.execBGe a b off s
  | .bLtn a b off => Sys2Proof.Machine.execBLtn a b off s
  | .bGen a b off => Sys2Proof.Machine.execBGen a b off s
  | .j off => Sys2Proof.Machine.execJ off s
  | .jal off => Sys2Proof.Machine.execJal off s
  | .jalr d a imm => Sys2Proof.Machine.execJalr d a imm s
  | .loop a imm => Sys2Proof.Machine.execLoop a imm s
  | .ld d a sz off => Sys2Proof.Machine.execLd d a sz off s
  | .st r a sz off => Sys2Proof.Machine.execSt r a sz off s
  | .prefLd a sz off => Sys2Proof.Machine.execPrefLd a sz off s
  | .prefSt a sz off => Sys2Proof.Machine.execPrefSt a sz off s
  | .amoAdd d a b ord sc wd => Sys2Proof.Machine.execAmoAdd d a b ord sc wd s
  | .amoMin d a b ord sc wd => Sys2Proof.Machine.execAmoMin d a b ord sc wd s
  | .amoMax d a b ord sc wd => Sys2Proof.Machine.execAmoMax d a b ord sc wd s
  | .amoMinn d a b ord sc wd => Sys2Proof.Machine.execAmoMinn d a b ord sc wd s
  | .amoMaxn d a b ord sc wd => Sys2Proof.Machine.execAmoMaxn d a b ord sc wd s
  | .amoAnd d a b ord sc wd => Sys2Proof.Machine.execAmoAnd d a b ord sc wd s
  | .amoOr d a b ord sc wd => Sys2Proof.Machine.execAmoOr d a b ord sc wd s
  | .amoXor d a b ord sc wd => Sys2Proof.Machine.execAmoXor d a b ord sc wd s
  | .amoSwap d a b ord sc wd => Sys2Proof.Machine.execAmoSwap d a b ord sc wd s
  | .cas d a b ord sc wd => Sys2Proof.Machine.execCas d a b ord sc wd s
  | .redAdd a b ord sc wd => Sys2Proof.Machine.execRedAdd a b ord sc wd s
  | .redMin a b ord sc wd => Sys2Proof.Machine.execRedMin a b ord sc wd s
  | .redMax a b ord sc wd => Sys2Proof.Machine.execRedMax a b ord sc wd s
  | .redMinn a b ord sc wd => Sys2Proof.Machine.execRedMinn a b ord sc wd s
  | .redMaxn a b ord sc wd => Sys2Proof.Machine.execRedMaxn a b ord sc wd s
  | .redAnd a b ord sc wd => Sys2Proof.Machine.execRedAnd a b ord sc wd s
  | .redOr a b ord sc wd => Sys2Proof.Machine.execRedOr a b ord sc wd s
  | .redXor a b ord sc wd => Sys2Proof.Machine.execRedXor a b ord sc wd s
  | .vadd d a b mk ty => Sys2Proof.Machine.execVadd d a b mk ty s
  | .vsub d a b mk ty => Sys2Proof.Machine.execVsub d a b mk ty s
  | .vmul d a b mk ty => Sys2Proof.Machine.execVmul d a b mk ty s
  | .vfma d a b mk ty => Sys2Proof.Machine.execVfma d a b mk ty s
  | .vfms d a b mk ty => Sys2Proof.Machine.execVfms d a b mk ty s
  | .vmin d a b mk ty => Sys2Proof.Machine.execVmin d a b mk ty s
  | .vmax d a b mk ty => Sys2Proof.Machine.execVmax d a b mk ty s
  | .vabs d a mk ty => Sys2Proof.Machine.execVabs d a mk ty s
  | .vneg d a mk ty => Sys2Proof.Machine.execVneg d a mk ty s
  | .vcmpEq d a b mk ty => Sys2Proof.Machine.execVcmpEq d a b mk ty s
  | .vcmpNe d a b mk ty => Sys2Proof.Machine.execVcmpNe d a b mk ty s
  | .vcmpLt d a b mk ty => Sys2Proof.Machine.execVcmpLt d a b mk ty s
  | .vcmpLe d a b mk ty => Sys2Proof.Machine.execVcmpLe d a b mk ty s
  | .vsel d a b mk ty => Sys2Proof.Machine.execVsel d a b mk ty s
  | .vand d a b mk ty => Sys2Proof.Machine.execVand d a b mk ty s
  | .vor d a b mk ty => Sys2Proof.Machine.execVor d a b mk ty s
  | .vxor d a b mk ty => Sys2Proof.Machine.execVxor d a b mk ty s
  | .vshl d a b mk ty => Sys2Proof.Machine.execVshl d a b mk ty s
  | .vshr d a b mk ty => Sys2Proof.Machine.execVshr d a b mk ty s
  | .vsra d a b mk ty => Sys2Proof.Machine.execVsra d a b mk ty s
  | .vcvt d a rz sty mk ty => Sys2Proof.Machine.execVcvt d a rz sty mk ty s
  | .vexp2 d a mk ty => Sys2Proof.Machine.execVexp2 d a mk ty s
  | .vlog2 d a mk ty => Sys2Proof.Machine.execVlog2 d a mk ty s
  | .vrcp d a mk ty => Sys2Proof.Machine.execVrcp d a mk ty s
  | .vrsq d a mk ty => Sys2Proof.Machine.execVrsq d a mk ty s
  | .mopAnd d a b => Sys2Proof.Machine.execMopAnd d a b s
  | .mopOr d a b => Sys2Proof.Machine.execMopOr d a b s
  | .mopXor d a b => Sys2Proof.Machine.execMopXor d a b s
  | .mopAndn d a b => Sys2Proof.Machine.execMopAndn d a b s
  | .mopNot d a => Sys2Proof.Machine.execMopNot d a s
  | .vld d a mk ty => Sys2Proof.Machine.execVld d a mk ty s
  | .vst d a mk ty => Sys2Proof.Machine.execVst d a mk ty s
  | .vlds d a b mk ty => Sys2Proof.Machine.execVlds d a b mk ty s
  | .vsts d a b mk ty => Sys2Proof.Machine.execVsts d a b mk ty s
  | .vgath d a b mk ty => Sys2Proof.Machine.execVgath d a b mk ty s
  | .vscat d a b mk ty => Sys2Proof.Machine.execVscat d a b mk ty s
  | .vbcast d a mk ty => Sys2Proof.Machine.execVbcast d a mk ty s
  | .vext d a b ty => Sys2Proof.Machine.execVext d a b ty s
  | .vins d a b ty => Sys2Proof.Machine.execVins d a b ty s
  | .vredAdd d a mk ty => Sys2Proof.Machine.execVredAdd d a mk ty s
  | .vredMax d a mk ty => Sys2Proof.Machine.execVredMax d a mk ty s
  | .vredMin d a mk ty => Sys2Proof.Machine.execVredMin d a mk ty s
  | .vscan d a mk ty => Sys2Proof.Machine.execVscan d a mk ty s
  | .vperm d a b mk ty => Sys2Proof.Machine.execVperm d a b mk ty s
  | .viota d mk ty => Sys2Proof.Machine.execViota d mk ty s
  | .vqstI8 d a b mk ty => Sys2Proof.Machine.execVqstI8 d a b mk ty s
  | .vqstN8 d a b mk ty => Sys2Proof.Machine.execVqstN8 d a b mk ty s
  | .vqstI16 d a b mk ty => Sys2Proof.Machine.execVqstI16 d a b mk ty s
  | .vqstBf d a b mk ty => Sys2Proof.Machine.execVqstBf d a b mk ty s
  | .vqstMxi8 d a b mk ty => Sys2Proof.Machine.execVqstMxi8 d a b mk ty s
  | .vqstMxf4 d a b mk ty => Sys2Proof.Machine.execVqstMxf4 d a b mk ty s
  | .vqstMxf8 d a b mk ty => Sys2Proof.Machine.execVqstMxf8 d a b mk ty s
  | .vqstRi32 d a b mk ty => Sys2Proof.Machine.execVqstRi32 d a b mk ty s
  | .fenceAcq sc => Sys2Proof.Machine.execFenceAcq sc s
  | .fenceRel sc => Sys2Proof.Machine.execFenceRel sc s
  | .fenceSc sc => Sys2Proof.Machine.execFenceSc sc s
  | .lfence a all layer => Sys2Proof.Machine.execLfence a all layer s
  | .seal d a => Sys2Proof.Machine.execSeal d a s
  | .unseal d a => Sys2Proof.Machine.execUnseal d a s
  | .barinit d a sc => Sys2Proof.Machine.execBarinit d a sc s
  | .bararrive d a trapf sc => Sys2Proof.Machine.execBararrive d a trapf sc s
  | .barwait d a trapf sc => Sys2Proof.Machine.execBarwait d a trapf sc s
  | .barpend d a => Sys2Proof.Machine.execBarpend d a s
  | .cwait d a => Sys2Proof.Machine.execCwait d a s
  | .cwb d a => Sys2Proof.Machine.execCwb d a s
  | .cwbInv d a => Sys2Proof.Machine.execCwbInv d a s
  | .ralign a => Sys2Proof.Machine.execRalign a s
  | .waitt a => Sys2Proof.Machine.execWaitt a s
  | .push d q => Sys2Proof.Machine.execPush d q s
  | .pushf d => Sys2Proof.Machine.execPushf d s
  | .lpush d a => Sys2Proof.Machine.execLpush d a s
  | .lpushImg d a => Sys2Proof.Machine.execLpushImg d a s
  | .vsend d a slot buf => Sys2Proof.Machine.execVsend d a slot buf s
  | .qstat d q => Sys2Proof.Machine.execQstat d q s
  | .launch d a q => Sys2Proof.Machine.execLaunch d a q s
  | .cancelLaunch d a => Sys2Proof.Machine.execCancelLaunch d a s
  | .cancelGraph d a => Sys2Proof.Machine.execCancelGraph d a s
  | .cancelPhase d a => Sys2Proof.Machine.execCancelPhase d a s
  | .cancelJob d a => Sys2Proof.Machine.execCancelJob d a s
  | .rdsr d num => Sys2Proof.Machine.execRdsr d num s
  | .wrsr a num => Sys2Proof.Machine.execWrsr a num s
  | .trap code => Sys2Proof.Machine.execTrap code s
  | .rtrap => Sys2Proof.Machine.execRtrap s
  | .reinj => Sys2Proof.Machine.execReinj s
  | .yield => Sys2Proof.Machine.execYield s
  | .halt => Sys2Proof.Machine.execHalt s
  | .xPrefix xhi next => Sys2Proof.Machine.execXPrefix xhi next s
  | .idle h => Sys2Proof.Machine.execIdle h s
  | .act h port => Sys2Proof.Machine.execAct h port s
  | .pre h => Sys2Proof.Machine.execPre h s
  | .prea h ports => Sys2Proof.Machine.execPrea h ports s
  | .ref h => Sys2Proof.Machine.execRef h s
  | .wrrow h src => Sys2Proof.Machine.execWrrow h src s
  | .setfmt h xb code kcn => Sys2Proof.Machine.execSetfmt h xb code kcn s
  | .setsc h par port src => Sys2Proof.Machine.execSetsc h par port src s
  | .maskk h lim => Sys2Proof.Machine.execMaskk h lim s
  | .gemv h port buf a y8 => Sys2Proof.Machine.execGemv h port buf a y8 s
  | .gemvb h port buf a nv y64 => Sys2Proof.Machine.execGemvb h port buf a nv y64 s
  | .dotk h port buf a y8 => Sys2Proof.Machine.execDotk h port buf a y8 s
  | .axpv h port score out y16 => Sys2Proof.Machine.execAxpv h port score out y16 s
  | .stats h score out stat slot => Sys2Proof.Machine.execStats h score out stat slot s
  | .accz h bank ninf first => Sys2Proof.Machine.execAccz h bank ninf first s
  | .accmvBank h src dst => Sys2Proof.Machine.execAccmvBank h src dst s
  | .accmvScratch h src off => Sys2Proof.Machine.execAccmvScratch h src off s
  | .popa h buf first bank => Sys2Proof.Machine.execPopa h buf first bank s
  | .qst h strict desc => Sys2Proof.Machine.execQst h strict desc s
  | .rsendSum h bank => Sys2Proof.Machine.execRsendSum h bank s
  | .rsendMerge h bank stat slot => Sys2Proof.Machine.execRsendMerge h bank stat slot s
  | .syncpt h align id => Sys2Proof.Machine.execSyncpt h align id s
  | .laneLfence h all layer => Sys2Proof.Machine.execLaneLfence h all layer s
  | .haltl h => Sys2Proof.Machine.execHaltl h s
  | .laneStreamStart lane => Sys2Proof.Machine.execLaneStreamStart lane s
  | .laneWordRetire lane => Sys2Proof.Machine.execLaneWordRetire lane s
  | .streamDiscardEnd lane => Sys2Proof.Machine.execStreamDiscardEnd lane s
  | .vfifoLand quad => Sys2Proof.Machine.execVfifoLand quad s
  | .treeResultWrite sum => Sys2Proof.Machine.execTreeResultWrite sum s
  | .ringSumArrive sum => Sys2Proof.Machine.execRingSumArrive sum s
  | .quadrantAbsent sum quad => Sys2Proof.Machine.execQuadrantAbsent sum quad s
  | .refreshDeadlineReached lane bank => Sys2Proof.Machine.execRefreshDeadlineReached lane bank s
  | .guardRefresh lane bank => Sys2Proof.Machine.execGuardRefresh lane bank s
  | .laneReset lane job => Sys2Proof.Machine.execLaneReset lane job s
  | .columnScrub lane => Sys2Proof.Machine.execColumnScrub lane s
  | .tempHotEnter stack celsius => Sys2Proof.Machine.execTempHotEnter stack celsius s
  | .tempCoolEnter stack celsius => Sys2Proof.Machine.execTempCoolEnter stack celsius s
  | .overtemp stack celsius => Sys2Proof.Machine.execOvertemp stack celsius s
  | .stackReset stack => Sys2Proof.Machine.execStackReset stack s
  | .ucieModuleFail stack link unit => Sys2Proof.Machine.execUcieModuleFail stack link unit s
  | .copy h chain pin desc => Sys2Proof.Machine.execCopy h chain pin desc s
  | .copyFadd h chain pin desc => Sys2Proof.Machine.execCopyFadd h chain pin desc s
  | .copyIadd h chain pin desc => Sys2Proof.Machine.execCopyIadd h chain pin desc s
  | .copyRi32 h chain pin desc => Sys2Proof.Machine.execCopyRi32 h chain pin desc s
  | .copyImax h chain pin desc => Sys2Proof.Machine.execCopyImax h chain pin desc s
  | .copyOr h chain pin desc => Sys2Proof.Machine.execCopyOr h chain pin desc s
  | .fmt h word => Sys2Proof.Machine.execFmt h word s
  | .mtile h acc zero tri rows cols part desc => Sys2Proof.Machine.execMtile h acc zero tri rows cols part desc s
  | .epi h acc axis tgt strict eio tri rows cols desc => Sys2Proof.Machine.execEpi h acc axis tgt strict eio tri rows cols desc s
  | .node h target pcnt blk => Sys2Proof.Machine.execNode h target pcnt blk s
  | .nodeFire owner nid => Sys2Proof.Machine.execNodeFire owner nid s
  | .qpw h slot desc => Sys2Proof.Machine.execQpw h slot desc s
  | .qpwr h slot rop desc => Sys2Proof.Machine.execQpwr h slot rop desc s
  | .arm h slot ctr threshold => Sys2Proof.Machine.execArm h slot ctr threshold s
  | .tsend h slot width time => Sys2Proof.Machine.execTsend h slot width time s
  | .slotCounterTrigger core slot => Sys2Proof.Machine.execSlotCounterTrigger core slot s
  | .slotTimeTrigger core slot => Sys2Proof.Machine.execSlotTimeTrigger core slot s
  | .raftxRi32 h slot desc => Sys2Proof.Machine.execRaftxRi32 h slot desc s
  | .raftxMax h slot desc => Sys2Proof.Machine.execRaftxMax h slot desc s
  | .raftxOr h slot desc => Sys2Proof.Machine.execRaftxOr h slot desc s
  | .rafta h slot desc => Sys2Proof.Machine.execRafta h slot desc s
  | .recordComplete queue pos => Sys2Proof.Machine.execRecordComplete queue pos s
  | .barrierSubtract queue pos bytes => Sys2Proof.Machine.execBarrierSubtract queue pos bytes s
  | .epiSaveMarker core => Sys2Proof.Machine.execEpiSaveMarker core s
  | .epiLoadMarker core => Sys2Proof.Machine.execEpiLoadMarker core s
  | .sideLogReplay slot => Sys2Proof.Machine.execSideLogReplay slot s
  | .unitContribution unit => Sys2Proof.Machine.execUnitContribution unit s
  | .asyncTrap slot => Sys2Proof.Machine.execAsyncTrap slot s
  | .scratchpadFreeze core => Sys2Proof.Machine.execScratchpadFreeze core s
  | .pdlExpire slot => Sys2Proof.Machine.execPdlExpire slot s
  | .nextWithdraw slot => Sys2Proof.Machine.execNextWithdraw slot s
  | .nextBind slot r => Sys2Proof.Machine.execNextBind slot r s
  | .nextResume slot r => Sys2Proof.Machine.execNextResume slot r s
  | .nextReject slot op r => Sys2Proof.Machine.execNextReject slot op r s
  | .dispatchDecision cls => Sys2Proof.Machine.execDispatchDecision cls s
  | .launchOverdue ctr => Sys2Proof.Machine.execLaunchOverdue ctr s
  | .phaseEntry ctr => Sys2Proof.Machine.execPhaseEntry ctr s
  | .graphStart ctr => Sys2Proof.Machine.execGraphStart ctr s
  | .cancelComplete ctr => Sys2Proof.Machine.execCancelComplete ctr s
  | .submissionCommit fn q off data => Sys2Proof.Machine.execSubmissionCommit fn q off data s
  | .jobActivate job ctl => Sys2Proof.Machine.execJobActivate job ctl s
  | .jobCancelWrite job => Sys2Proof.Machine.execJobCancelWrite job s
  | .jobInvalidate job => Sys2Proof.Machine.execJobInvalidate job s
  | .svcreq value => Sys2Proof.Machine.execSvcreq value s
  | .serviceTaskStart => Sys2Proof.Machine.execServiceTaskStart s
  | .serviceTaskTrap => Sys2Proof.Machine.execServiceTaskTrap s
  | .xlcmdInval job va npage => Sys2Proof.Machine.execXlcmdInval job va npage s
  | .xlcmdMapped job va npage => Sys2Proof.Machine.execXlcmdMapped job va npage s
  | .xlcmdBad value => Sys2Proof.Machine.execXlcmdBad value s
  | .xlcmdComplete => Sys2Proof.Machine.execXlcmdComplete s
  | .pageRequestPost => Sys2Proof.Machine.execPageRequestPost s
  | .heldAccessRetry slot => Sys2Proof.Machine.execHeldAccessRetry slot s
  | .freezeSet => Sys2Proof.Machine.execFreezeSet s
  | .freezeClear => Sys2Proof.Machine.execFreezeClear s
  | .sliceRequestAccept slice req => Sys2Proof.Machine.execSliceRequestAccept slice req s
  | .islandGate island tgt => Sys2Proof.Machine.execIslandGate island tgt s
  | .islandDrainComplete island => Sys2Proof.Machine.execIslandDrainComplete island s
  | .islandStepComplete island => Sys2Proof.Machine.execIslandStepComplete island s
  | .islandWake island => Sys2Proof.Machine.execIslandWake island s
  | .islandRetarget island tgt => Sys2Proof.Machine.execIslandRetarget island tgt s
  | .pwrsUpdate watts inlet => Sys2Proof.Machine.execPwrsUpdate watts inlet s
  | .governorStep traffic => Sys2Proof.Machine.execGovernorStep traffic s
  | .spillwayEngage island milliamps => Sys2Proof.Machine.execSpillwayEngage island milliamps s
  | .bootVerifyRun len => Sys2Proof.Machine.execBootVerifyRun len s
  | .bootVerifyComplete => Sys2Proof.Machine.execBootVerifyComplete s
  | .deviceResetCmd => Sys2Proof.Machine.execDeviceResetCmd s
  | .firmwareFault => Sys2Proof.Machine.execFirmwareFault s
  | .functionReady bit => Sys2Proof.Machine.execFunctionReady bit s
  | .functionFail bit => Sys2Proof.Machine.execFunctionFail bit s
  | .hostBar4Read fn off n => Sys2Proof.Machine.execHostBar4Read fn off n s
  | .hostBar4Write fn off data => Sys2Proof.Machine.execHostBar4Write fn off data s
  | .bankFillApertureWrite off data => Sys2Proof.Machine.execBankFillApertureWrite off data s
  | .bankFillApertureRead off n => Sys2Proof.Machine.execBankFillApertureRead off n s
  | .hostSpdmRequest code => Sys2Proof.Machine.execHostSpdmRequest code s
  | .fpcfgWrite port value => Sys2Proof.Machine.execFpcfgWrite port value s
  | .portShed port cause => Sys2Proof.Machine.execPortShed port cause s
  | .portRetrainComplete port trained => Sys2Proof.Machine.execPortRetrainComplete port trained s
  | .dataFrame f => Sys2Proof.Machine.execDataFrame f s
  | .raftFrame f => Sys2Proof.Machine.execRaftFrame f s
  | .areq f => Sys2Proof.Machine.execAreq f s
  | .arep f => Sys2Proof.Machine.execArep f s
  | .ack f => Sys2Proof.Machine.execAck f s
  | .noteMode1 f => Sys2Proof.Machine.execNoteMode1 f s
  | .noteMode0 f => Sys2Proof.Machine.execNoteMode0 f s
  | .noteHold f => Sys2Proof.Machine.execNoteHold f s
  | .retransmitTimeout stream => Sys2Proof.Machine.execRetransmitTimeout stream s
  | .areqBusyRetry stream seq => Sys2Proof.Machine.execAreqBusyRetry stream seq s
  | .ackTimer stream => Sys2Proof.Machine.execAckTimer stream s
  | .pathFail stream cause => Sys2Proof.Machine.execPathFail stream cause s
  | .switchAttest group sw => Sys2Proof.Machine.execSwitchAttest group sw s
  | .spdmResponse group sw verified digest => Sys2Proof.Machine.execSpdmResponse group sw verified digest s
  | .spdmTimeout group sw => Sys2Proof.Machine.execSpdmTimeout group sw s
  | .keyDeliveryResponse group sw accepted => Sys2Proof.Machine.execKeyDeliveryResponse group sw accepted s
  | .registerReadClear who span => Sys2Proof.Machine.execRegisterReadClear who span s
  | .registerWrite who off data => Sys2Proof.Machine.execRegisterWrite who off data s
  | .growthRecordWrite => Sys2Proof.Machine.execGrowthRecordWrite s
  | .deviceReset => Sys2Proof.Machine.execDeviceReset s
  | .waittTimeReached slot => Sys2Proof.Machine.execWaittTimeReached slot s
  | .contextSaveComplete slot => Sys2Proof.Machine.execContextSaveComplete slot s
  | .contextLoadComplete slot => Sys2Proof.Machine.execContextLoadComplete slot s
  | .scratchpadSpillComplete core frame => Sys2Proof.Machine.execScratchpadSpillComplete core frame s
  | .sessionEnded group sw => Sys2Proof.Machine.execSessionEnded group sw s
  | .submissionWindowWrite fn q off data => Sys2Proof.Machine.execSubmissionWindowWrite fn q off data s

end Sys2Proof.Machine
end

