-- ==== Sys2Proof/Machine/Turns.lean ====
section
/-! DEFINITION. What an agent does in its turn. -/

namespace Sys2Proof.Machine

/-- The instruction at PC of the current unit, fetched, decoded and executed. -/
def State.runIns (s : State) : Out :=
  match s.fetchIns s.slot with
  | (s1, .fault c k) => .next (s1.takeTrap s1 s1.slot ⟨c, k, s1.cur.pc, 0⟩ 0 false s1.cur.pc [])
  | (s1, .wait z) => .next (s1.setCur { s1.cur with frz := z })
  | (s1, .words w n) =>
    match decodeWord w n with
    | .error _ => .next (s1.takeTrap s1 s1.slot ⟨1, 0, s1.cur.pc, 0⟩ (rawWords w n) false s1.cur.pc [])
    | .ok i => exec i (s1.setCur { s1.cur with fetched := some (w, n) })

/-- The replay entries are issued again, the oldest first; an asynchronous trap that is due is taken once the oldest has issued
and waits. DESIGN CHOICE (log 59): while the entries left are loads, which a trap captures again; others finish first. -/
def State.runReplay (s : State) : Out :=
  match s.reissue with
  | .next t =>
    if t.cur.replay == s.cur.replay && t.cur.uid == s.cur.uid && t.asyncDue t.slot && t.cur.replay.all Replay.isLoad then
      .next (t.asyncTrap t.slot)
    else .next t
  | r => r

/-- Whether an access that a freeze held was issued before a slot's through the same core's port, and has not been issued again
since the freeze ended (R387). -/
def State.portBehind (s : State) (slot : Nat) : Bool :=
  let c := s.ctx slot
  let d := s.ctx (slot ^^^ 1)
  !s.fz && c.frzAt ≠ 0 && d.frzAt ≠ 0 && d.frzAt < c.frzAt && (d.st == .running || d.st == .preempt)

/-- A unit at an instruction boundary: a replay entry still to be issued again, a pre-emption request that finds it waiting at a
yield point, a trap that is due, or the instruction at PC (R117, R194, R200, R350, R373, R379). -/
def runUnit (s : State) : Out :=
  if 162 ≤ s.slot then .fault .noSuchContext
  else if s.cur.st ≠ .running ∧ s.cur.st ≠ .preempt then .next s
  else if s.portBehind s.slot then .next s
  else if !s.cur.replay.isEmpty then s.runReplay
  else if s.cur.preq && s.atYieldPoint s.slot then .next (if s.saveHeld s.slot then s else s.startSave s.slot false)
  else if s.asyncDue s.slot then .next (s.boundary s.slot)
  else s.runIns

/-- A lane's head word: decoded and executed, or the stream fault of a word that is none, or of the place after an image
without HALTL (R51, R52, R186, R211). -/
def runLane (s : State) : Out :=
  if 512 ≤ s.lane then .next s
  else
    match (s.laneOf s.lane).words with
    | [] => .next s
    | w :: _ =>
      if w.bad then s.issue 0 0 0 (fun _ _ s => .next (s.laneFault s.lane 0x0D))
      else match decodeLane w.bits with
        | .error e => s.issue (bitsOf w.bits.toNat 41 36) 0 0 (fun _ _ s => .next (s.laneFault s.lane e.fcode))
        | .ok i => (match exec i s with
          | .next t => .next (t.settleLane s.lane)
          | r => r)

/-- The head record of a queue as it is to run: the next record of a chain is read from memory, and takes the NID of the
record that named it (R257). -/
def State.headRecord (s : State) (q : Nat) (r : Rec) : Try Rec :=
  match r.chained, r.chain with
  | true, some nx =>
    (s.readDesc (s.recParty (q / 8) r) nx 16 16).andThen (fun s1 bs =>
      .ok s1 { r with
        bits := BitVec.ofNat 128 (setBits (ofBytes bs) 104 97 (bitsOf r.bits.toNat 104 97)), raw := some (BitVec.ofNat 128 (ofBytes bs)) })
  | _, _ => .ok s r

/-- Records in flight that a queue's engine takes at most (R244). -/
def queueLimit (q : Nat) : Nat := match q % 8 with | 0 => 4 | 1 => 1 | 2 => 1 | _ => 80

/-- A head record that faults before its type is known: it is popped, and its queue is held (R249, R251, R257). -/
def State.dropHead (s : State) (q : Nat) (r : Rec) (fcode check : Nat) (addr : Word) : State :=
  let e := s.engq q
  (s.setEngq q { e with recs := e.recs.drop 1, popped := if r.chained then e.popped else e.popped + 1 }).recFault q r fcode check addr

/-- The head record of a queue decoded and executed. It starts once every store that its unit made before has
performed (R184, R247). -/
def runHead (q : Nat) (r : Rec) (s : State) : Out :=
  if !s.settledUnit r.uid then .next s
  else match s.headRecord q r with
    | .wait s1 z => .next (s1.portHeld q z)
    | .fault f c a => .next (s.dropHead q { r with raw := r.prev } f c a)
    | .ok s1 r1 =>
      let e := s1.engq q
      let s2 := s1.setEngq q { e with recs := r1 :: e.recs.drop 1 }
      match decodeRecord (q % 8) r1.bits with
      | .ok i => exec i s2
      | .error x =>
        if s2.accepts q (queueLimit q) r1 then
          .next (s2.dropHead q r1 x.fcode 0 (if r1.chained then r1.chain.getD 0 else 0))
        else .next s

/-- A popped record that waits to start, tried again in its place (R244, R248). -/
def retryRec (q : Nat) (r : Rec) (s : State) : State :=
  let e := s.engq q
  match decodeRecord (q % 8) r.bits with
  | .ok i => (match exec i (s.setEngq q { e with recs := r :: e.recs }) with
    | .next s1 => s1
    | _ => s)
  | .error _ => s

/-- The popped records of a queue that wait to start are tried in order, up to the first that goes on; whether one did. -/
def retryAll (q : Nat) : List Rec → State → State × Bool
  | [], s => (s, false)
  | r :: rs, s =>
    let s1 := retryRec q r s
    if (s1.engq q).run.any (fun x => x.todo && x.seq == r.seq) then retryAll q rs s1 else (s1, true)

/-- The next pop of a queue: a marker of the epilogue queue before the records that entered after it; else its head record
(R367). -/
def popNext (q : Nat) (s : State) : Out :=
  let e := s.engq q
  match e.markers, e.recs with
  | m :: _, r :: _ =>
    if q % 8 = 2 ∧ m.seq < r.seq then (if m.save then execEpiSaveMarker (q / 8) s else execEpiLoadMarker (q / 8) s)
    else runHead q r s
  | m :: _, [] => if m.save then execEpiSaveMarker (q / 8) s else execEpiLoadMarker (q / 8) s
  | [], r :: _ => runHead q r s
  | [], [] => .next s

/-- An engine queue's turn: nothing while it is held; else the popped records that wait to start, then the next pop
(R244, R251). -/
def runEngine (s : State) : Out :=
  let q := s.queue
  let e := s.engq q
  if !e.fault.isEmpty then .next s
  else
    match retryAll q (e.run.filter (fun (r : Rec) => r.todo)) s with
    | (s1, true) => .next s1
    | (s1, false) => popNext q s1

/-! ### Time (R298, R341, R451, R452) -/

/-- SKIP as the power block holds it: 0 is taken as 1 (R451). -/
def State.skip (s : State) : Nat := max 1 (s.pmcfg 18 16)

/-- Whether the tick at a position of its group of eight is suspended under SKIP `n` (R452). -/
def suspended (n p : Nat) : Bool := p * n / 8 < (p + 1) * n / 8

/-- `n` package ticks from a tick: SKIP in force afterwards, and how many of them were not suspended. -/
def runTicks (skipping : Bool) (skip : Nat) : Nat → Nat → Nat → Nat × Nat
  | 0, _, now => (now, 0)
  | n + 1, t, now =>
    let now1 := if t % 8 = 0 then skip else now
    let r := runTicks skipping skip n (t + 1) now1
    (r.1, r.2 + (if skipping && suspended now1 (t % 8) then 0 else 1))

/-- Contexts of a class of core that hold a unit of a class L queue (R298). -/
def State.heldByL (s : State) (cls : CoreClass) : Nat :=
  (s.ctxs.filter (fun c => classOf (coreOf c.1) == cls && (match c.2.uid with
    | some u => (match SMap.find s.launches (s.unitAt u).lctr with
      | some l => s.classL l.queue
      | none => false)
    | none => false))).length

/-- `n` ticks of class L's held context time, by µs: a µs that begins clears its count of 1,024 µs before. -/
def heldTicks (k held : Nat) : Nat → Nat → SMap Nat → SMap Nat
  | 0, _, m => m
  | n + 1, t, m =>
    let b := 1024 * k + t / 1400 % 1024
    heldTicks k held n (t + 1) (SMap.set m 0 b ((if t % 1400 = 0 then 0 else SMap.get m 0 b) + held))

/-- The contract tick after a REFCLK tick within the `n` ticks from `s` on. -/
def State.tickAfter (s : State) (i r : Nat) : Nat :=
  s.laneClk i + (runTicks (s.pwrs == 3) s.skip (r - s.refclk (i / 64)) s.tick s.power.skipNow).2 + 1

/-- A forced refresh's hold on a lane that is counted on REFCLK ends in the `n` ticks from `s` to `s3`: the lane goes on
from the next contract tick; and so do its banks (R340). -/
def State.endHold (s : State) (n : Nat) (s3 : State) (i : Nat) : State :=
  let l := s3.laneOf i
  let ended (r : Nat) : Bool := r != 0 && r < s.refclk (i / 64) + n
  let l1 := { l with banks := l.banks.map (fun b => if ended b.2.extRef then
    (b.1, { b.2 with extReady := max b.2.extReady (s.tickAfter i b.2.extRef), extRef := 0 }) else b) }
  let t := s.tickAfter i l.refHold
  let l2 := if ended l.refHold then
      { (l1.delay (fun a => l.stallAt ≤ a.1) l.stallAt (t - l.stallAt)) with stall := max l.stall t, refHold := 0 }
    else l1
  s3.setLane i l2

/-- The holds on REFCLK of all lanes that end in `n` ticks. -/
def State.endHolds (s : State) (n : Nat) (s3 : State) : State :=
  s3.lanes.foldl (fun (x : State) l =>
    if l.2.refHold = 0 ∧ l.2.banks.all (fun b => b.2.extRef == 0) then x else s.endHold n x l.1) s3

/-- `n` package ticks pass: TIME, the tick count and every REFCLK advance by all of them; CCLK of every stack, CYC of
stack and tile cores and a running PDL count by those that were not suspended; spillway loads are released, lanes do
what their issued words have to do by then, and FAILED is set where it could not be set before (R178, R216, R295, R341,
R452, R455). -/
def State.clock (s : State) (n : Nat) : State :=
  let run := runTicks (s.pwrs == 3) s.skip n s.tick s.power.skipNow
  let ns := s.timeFrac + 5 * n
  let s1 := (List.range 8).foldl (fun (s : State) i =>
    let x := s.stackOf i
    s.setStack i { x with cclk := x.cclk + BitVec.ofNat 64 run.2, refclk := x.refclk + BitVec.ofNat 64 n }) s
  let s2 := (List.range 81).foldl (fun (s : State) i =>
    let x := s.core i
    s.setCore i { x with cyc := x.cyc + BitVec.ofNat 64 (if i < 80 then run.2 else n) }) s1
  let held := heldTicks 1 (s.heldByL .tile) n s.tick (heldTicks 0 (s.heldByL .stack) n s.tick s.lheld)
  let s3 := { s2 with
    tick := s.tick + n, time := s.time + BitVec.ofNat 64 (ns / 7), timeFrac := ns % 7,
    power := { s2.power with skipNow := run.1 }, lheld := held, scratchWas := [],
    ctxs := s2.ctxs.map (fun (c : Nat × Ctx) => (c.1, { c.2 with pdlLeft := c.2.pdlLeft - run.2 })) }
  (s3.lanes.foldl (fun (x : State) l => x.settleLane l.1)
    ((s.endHolds n s3).releaseSpill.grow (gPwrs s.pwrs.toNat) n)).retryFails.condemn

/-! ### Errors (R18, R462) -/

/-- Growth counters of corrected and of uncorrectable errors by part: stack 0 to 7, channel 8 on, slice 32 on, UCIe module
64 on, fabric port 128 on. -/
def gCorrected (part : Nat) : Nat := 4096 + part
def gUncorrectable (part : Nat) : Nat := 4352 + part

/-- An error found: a corrected one is counted and nothing else changes; the word of an uncorrectable one is marked bad
(R18). -/
def State.bitError (s : State) (part : Nat) (word : Option Nat) : State :=
  match word with
  | none => s.grow (gCorrected (part % 256)) 1
  | some w => { s.grow (gUncorrectable (part % 256)) 1 with poison := if s.poison.contains w then s.poison else w :: s.poison }

/-- A reading of a stack's hottest sensor (R338, R349). A reading that changes the temperature class or passes
105 °C comes with its event, TEMP_HOT_ENTER or OVERTEMP, and changes nothing here (R338). -/
def State.sensorRead (s : State) (stack celsius : Nat) : State :=
  let x := s.stackOf stack
  if 8 ≤ stack ∨ 85 ≤ celsius ∧ !x.hot ∨ 105 < celsius ∧ !x.overt then s
  else s.setStack stack (x.read s.tick celsius)

/-! ### Turns -/

/-- A turn of an agent. -/
def runTurn (t : Turn) (s : State) : Out :=
  match t with
  | .unit slot => runUnit { s with slot := slot }
  | .event i => exec i s
  | .lane l => runLane { s with lane := l }
  | .engine q => runEngine { s with queue := q }
  | .clock n => .next (s.clock n)
  | .error part word => .next (s.bitError part word)
  | .sensor stack celsius => .next (s.sensorRead stack celsius)

/-! ### Placing an instruction (log 14) -/

/-- The context that a placed core instruction runs in: running, PC 0 in extent 0, a read-only extent of one page at job
address 0. -/
def fetchCtx : Ctx := { Ctx.init with st := .running, xtab := [(0, 0x80000000000100000000000000000000)] }

/-- A lane word alone in the queue of lane 0, whose stream runs. -/
def State.placeLane (s : State) (w : Nat) : State :=
  let x := s.stackOf 0
  let l : Lane := { s.laneOf 0 with
    words := [⟨BitVec.ofNat 48 w, none, false, 0, 0, 0, false⟩], issued := [], running := true, scrubbing := false, fault := none,
    discarding := false, pos := 0, after := 0, stall := 0, refHold := 0, later := [], fence := 0, gap := 0, align := none,
    banks := (List.range 64).map (fun b => (b, { BankT.init with deadline := 49140 })) }
  { (s.setLane 0 l).setStack 0 { x with cclk := 0x1000, overt := false } with agenda := [.lane 0] }

/-- A record alone in the queue of core 32 that accepts its type. -/
def State.placeRecord (s : State) (w : Nat) : State :=
  let r := BitVec.ofNat 128 w
  let q := 256 + (acceptingQueue (r.extractLsb' 122 6)).getD 0
  let x : Rec := { bits := r, slot := 64, uid := none, seq := 0, gctr := none, chained := false, subs := [], chain := none,
                   flags := 0, waits := [], ts := none, desc := [], fired := false, todo := false, link := false, prev := none, raw := none }
  { (s.setEngq q { s.engq q with recs := [x], run := [], fault := [], markers := [], lastPop := none }) with agenda := [.engine q] }

/-- A core instruction at PC of context 64. -/
def State.placeCore (s : State) (w : Nat) : State :=
  let s1 := (List.range 8).foldl (fun s i => s.memPut (s.jobKey 0) i (byteOf w i)) s
  { (s1.setCtx 64 fetchCtx) with
    agenda := [], slot := 64, ready := s1.ready ||| 0x3FC0000000000, runs := SMap.put s1.runs (runKey 0 0) ⟨.present 0, false, false, 0⟩ }

/-- An instruction of `nbits` bits placed by its length: a lane word, a record or a core instruction. -/
def State.place (s : State) (nbits w : Nat) : State :=
  if nbits = 48 then s.placeLane w else if nbits = 128 then s.placeRecord w else s.placeCore w

end Sys2Proof.Machine
end

