-- ==== Sys2Proof/Machine/Step.lean ====
section
/-! DEFINITION. One step of the machine, and the placing of an instruction where the next step runs it. -/

namespace Sys2Proof.Machine

/-- One step: the agent that the agenda names moves; with an empty agenda the unit of `slot` does (log 1). -/
def step (s : State) : Host.Outcome State Fault Refusal :=
  match s.agenda with
  | [] => runTurn (.unit s.slot) s
  | t :: ts => runTurn t { s with agenda := ts }

/-- The state with an instruction of `nbits` bits placed where the next step runs it (log 14). -/
def State.withFetchWord (s : State) (nbits w : Nat) : State := s.place nbits w

end Sys2Proof.Machine
end

