-- ==== Sys2Proof/Safety.lean ====
section
/-! DEFINITION. What the statements say of an outcome: that the machine goes on, what a step leaves alone, and the
canonical form of the machine's memories. -/

namespace Sys2Proof.Machine

/-- The outcome is a next state that has a property. -/
def Completes (o : Out) (P : State → Prop) : Prop := ∃ t, o = .next t ∧ P t

/-! ### What stays -/

/-- Every byte of every memory reads as before: second-tier memory under every key, scratchpads, lane scratch, the
firmware's memory, bank rows as their lanes read them, and activation buffers. -/
structure State.SameBytes (s t : State) : Prop where
  loc  : ∀ l, t.readLoc l = s.readLoc l
  bank : ∀ lane b row y, t.bankByte lane b row y = s.bankByte lane b row y
  buf  : ∀ a, Memory.read t.bufs a = Memory.read s.bufs a

/-- Nothing outside the context of the current slot changes: no register, memory, queue or lane of the device, and no
other context. -/
structure State.OnlyCur (s t : State) : Prop where
  rest  : t = { s with ctxs := t.ctxs }
  other : ∀ j, j ≠ s.slot → t.ctx j = s.ctx j
  bytes : s.SameBytes t

/-- Every part of a context but its registers g, v, m and e, FPST and where it stands is as before: the level, the
trap registers, the side log, the watch list and what else the context holds. -/
structure Ctx.SameSystem (c c' : Ctx) : Prop where
  epi : c'.epi = c.epi
  level : c'.level = c.level
  xtab : c'.xtab = c.xtab
  side : c'.side = c.side
  watch : c'.watch = c.watch
  guard : c'.guard = c.guard
  epoch : c'.epoch = c.epoch
  tframe : c'.tframe = c.tframe
  preq : c'.preq = c.preq
  pdl : c'.pdl = c.pdl
  pdlLeft : c'.pdlLeft = c.pdlLeft
  uid : c'.uid = c.uid
  pushGroup : c'.pushGroup = c.pushGroup
  replay : c'.replay = c.replay
  spadUsed : c'.spadUsed = c.spadUsed
  prio : c'.prio = c.prio
  st : c'.st = c.st
  berr : c'.berr = c.berr
  forced : c'.forced = c.forced
  popBase : c'.popBase = c.popBase
  marker : c'.marker = c.marker

/-- The vector, mask and eddy registers and FPST are as before. -/
structure Ctx.SameVectors (c c' : Ctx) : Prop where
  v : ∀ r, c'.rdV r = c.rdV r
  m : ∀ r, c'.rdM r = c.rdM r
  e : ∀ r, c'.rdE r = c.rdE r
  fpst : c'.fpst = c.fpst

/-- The context stands where retirement of an instruction of `size` bytes takes it, with the loop entries that
retirement leaves (R99, R113). -/
structure Ctx.Retired (c c' : Ctx) (size : Nat) : Prop where
  pc : c'.pc = (c.fall size).pc
  loops : c'.loops = (c.fall size).loops
  sloops : c'.sloops = (c.fall size).sloops

/-- The loop entries of the level that does not run are as before (R370). -/
def Ctx.SameOtherLoops (c c' : Ctx) : Prop :=
  (c.level = .supervisor → c'.loops = c.loops) ∧ (c.level ≠ .supervisor → c'.sloops = c.sloops)

/-- An instruction that writes one general register and retires: g(d) takes `v`, g0 nothing, all else stays. -/
structure State.WritesG (s : State) (d : Nat) (v : Word) (size : Nat) (t : State) : Prop where
  only : s.OnlyCur t
  system : s.cur.SameSystem t.cur
  vectors : s.cur.SameVectors t.cur
  regs : ∀ r, t.cur.rd r = if r = d ∧ d ≠ 0 then v else s.cur.rd r
  retired : s.cur.Retired t.cur size

/-- An instruction that writes one vector register under a mask and retires: active elements of v(d) take the values,
the flags of the active elements are ORed into FPST, all else stays. -/
structure State.WritesV (s : State) (ty : VTy) (d : Nat) (m : MWord) (f : Nat → Nat × Nat) (t : State) : Prop where
  only : s.OnlyCur t
  system : s.cur.SameSystem t.cur
  gregs : ∀ r, t.cur.rd r = s.cur.rd r
  masks : ∀ r, t.cur.rdM r = s.cur.rdM r
  eddies : ∀ r, t.cur.rdE r = s.cur.rdE r
  others : ∀ r, r ≠ d → t.cur.rdV r = s.cur.rdV r
  elems : ∀ k, k < ty.count → ty.elem (t.cur.rdV d) k =
    if m.getLsbD k then (f k).1 % 2 ^ ty.width else ty.elem (s.cur.rdV d) k
  flags : t.cur.fpst = s.cur.fpst |||
    BitVec.ofNat 64 (((List.range ty.count).filter (fun k => m.getLsbD k)).foldl (fun a k => a ||| (f k).2) 0 % 128)
  retired : s.cur.Retired t.cur 4

/-! ### Accesses to memory -/

/-- A location of a memory that reads back what is written: second-tier memory, a scratchpad, lane scratch or the
firmware's memory, within its bounds. -/
def Loc.plain : Loc → Bool
  | .mem _ _ => true
  | .spad _ o => o < 0x400000
  | .scratch _ o => o < 0x40000
  | .fw _ => true
  | _ => false

/-- Locations that a plain access reaches: each is plain, and those of second-tier memory are under one key. -/
def PlainLocs (ls : List Loc) (key : Nat) : Prop :=
  (∀ l ∈ ls, l.plain = true) ∧ ∀ pa k, Loc.mem pa k ∈ ls → k = key

/-- A sector of second-tier memory that holds tags of a checked page (R317, R401): the device writes them there itself, when
a line is spilled and when the page gains the attribute. -/
def State.shadows (s : State) (pa : Nat) : Prop :=
  ∃ c ∈ s.checked, c.2.1 / 128 ≤ pa / 128 ∧ pa / 128 ≤ (c.2.1 + 1023) / 128

/-- A location whose byte is of no shadow of a checked page, before and after. -/
def Loc.unshadowed (s t : State) (l : Loc) : Prop := ∀ pa k, l = .mem pa k → ¬ s.shadows pa ∧ ¬ t.shadows pa

/-- Every byte reads as before, but for those of the shadows of checked pages. -/
structure State.SameData (s t : State) : Prop where
  loc  : ∀ l : Loc, l.unshadowed s t → t.readLoc l = s.readLoc l
  bank : ∀ lane b row y, t.bankByte lane b row y = s.bankByte lane b row y
  buf  : ∀ a, Memory.read t.bufs a = Memory.read s.bufs a

/-- What an access that reads may change outside its context: which lines are cached, race tags and the shadows that hold
them, translations and growth counters, and nothing else that a read of a byte shows. -/
structure State.OnlyReads (s t : State) : Prop where
  rest : t = { s with ctxs := t.ctxs, runs := t.runs, runUse := t.runUse, xl := t.xl, growth := t.growth, tags := t.tags,
                      tagLast := t.tagLast, lines := t.lines, checked := t.checked, mem := t.mem, memKey := t.memKey }
  other : ∀ j, j ≠ s.slot → t.ctx j = s.ctx j
  bytes : s.SameData t

/-- Bytes stored at locations, in order: of each location the last byte stored there is what it reads as. Every other
plain location reads as before: in a sector that is written, under the key that the store writes under (R393), and bank
rows and activation buffers as well. Of the shadows of checked pages nothing is said: the device writes its tags there.
Beside the memories only caches, tags, translations, growth counters and the values of scratch at the beginning of the tick
change. -/
structure State.Stores (s : State) (ls : List Loc) (bs : List Byte) (t : State) : Prop where
  rest : t = { s with ctxs := t.ctxs, runs := t.runs, runUse := t.runUse, xl := t.xl, growth := t.growth, tags := t.tags,
                      tagLast := t.tagLast, lines := t.lines, checked := t.checked, mem := t.mem, memKey := t.memKey, spad := t.spad,
                      scratch := t.scratch, scratchWas := t.scratchWas, fwMem := t.fwMem, cores := t.cores, poison := t.poison }
  other : ∀ j, j ≠ s.slot → t.ctx j = s.ctx j
  put : ∀ (i : Nat) (l : Loc) (b : Byte), ls[i]? = some l → bs[i]? = some b → (∀ j, i < j → ls[j]? ≠ some l) →
    l.unshadowed s t → t.readLoc l = b
  keep : ∀ l : Loc, l.plain = true → l ∉ ls → l.unshadowed s t →
    (∀ pa k, l = .mem pa k → ∀ pa' k', Loc.mem pa' k' ∈ ls → k' = k ∨ pa' / 128 ≠ pa / 128) → t.readLoc l = s.readLoc l
  bank : ∀ lane b row y, t.bankByte lane b row y = s.bankByte lane b row y
  buf : ∀ a, Memory.read t.bufs a = Memory.read s.bufs a

/-- Every part of a context that an access to memory leaves alone: all of it but its registers g, v, m and e, FPST,
where it stands, and the note of R357 that it has used a scratchpad. -/
def Ctx.SameButAccess (c c' : Ctx) : Prop := c.SameSystem { c' with spadUsed := c.spadUsed }

/-! ### The canonical form of the memories -/

/-- Every memory of the machine is in canonical form: addresses strictly rising, and no entry that equals what an
unlisted address reads as (second-tier memory lists every byte written: an unwritten one reads as R463 states). -/
structure State.MemWf (s : State) : Prop where
  mem : Memory.wfWritten s.mem = true
  memKey : SMap.sorted s.memKey = true
  spad : Memory.wf s.spad = true
  scratch : Memory.wf s.scratch = true
  bufs : Memory.wf s.bufs = true
  bank : Memory.wf s.bank = true
  fwMem : Memory.wf s.fwMem = true
  spillMem : Memory.wf s.spillMem = true
  subWin : Memory.wf s.subWin = true
  /-- A byte that has been written is held under a key (R393). -/
  keyed : ∀ a, (Memory.read? s.mem a).isSome = true → (SMap.find s.memKey (a / 128)).isSome = true

end Sys2Proof.Machine
end

