-- ==== Sys2Proof/WellFormed.lean ====
section
/-! DEFINITION. Which instruction terms the encodings admit: the reserved fields and limits of lane words (R51, R52,
R215) and of engine records (R249 steps 3 and 4). Every control-core term is well formed: its fields fill its word. -/

namespace Sys2Proof

/-- A general-layout word whose rep and step fields the spec does not define (R51, R215). -/
def LaneHdr.plain (h : LaneHdr) : Bool := h.rep == 0 && h.step == 0

/-- An address-carrying word that opens a row: rows 0 to 12287 (R52). -/
def LaneAddr.rowOk (h : LaneAddr) : Bool := h.row.toNat < 12288

/-- A record header: CTR is reserved while CEN is 0, and the scope codes are 0 to 5 (R241, R249). -/
def RecHdr.wf (h : RecHdr) : Bool := (h.cen || h.ctr == 0) && decide (h.scope.toNat < 6)

/-- The header of a FMT or a NODE, which uses neither scope nor counter (R259, R266). -/
def RecHdr.bare (h : RecHdr) : Bool := h.wf && h.scope == 0 && h.cen == false

/-- Whether an instruction is one that its encoding can hold (R35, R215, R249). A step of the device has no
encoding and is well formed. -/
def Instr.wf : Instr → Bool
  | .idle h => h.step == 0
  | .act h _ => h.rowOk
  | .pre h => h.row == 0
  | .prea h _ => h.plain
  | .ref h => h.row == 0
  | .wrrow h _ => h.rowOk
  | .setfmt h _ _ _ => h.plain
  | .setsc h par port src => h.plain && (if src then port == 0 else par == 0)
  | .maskk h _ => h.plain
  | .stats h _ _ _ _ => h.step == 0
  | .accmvBank h _ _ => h.step == 0
  | .accmvScratch h _ _ => h.step == 0
  | .qst h _ _ => h.plain
  | .rsendSum h _ => h.step == 0
  | .rsendMerge h _ _ _ => h.step == 0
  | .syncpt h _ _ => h.plain
  | .laneLfence h all layer => h.plain && (!all || layer == 0)
  | .haltl h => h.plain
  | .copy h _ pin _ => h.wf && pin != 3
  | .copyFadd h _ pin _ => h.wf && pin != 3
  | .copyIadd h _ pin _ => h.wf && pin != 3
  | .copyRi32 h _ pin _ => h.wf && pin != 3
  | .copyImax h _ pin _ => h.wf && pin != 3
  | .copyOr h _ pin _ => h.wf && pin != 3
  | .fmt h _ => h.bare
  | .mtile h _ _ _ _ _ _ _ => h.wf
  | .epi h _ _ _ _ _ _ _ _ _ => h.wf
  | .node h target _ _ => h.bare && [0#3, 1#3, 2#3, 4#3, 7#3].contains target
  | .qpw h _ _ => h.wf
  | .qpwr h _ rop _ => h.wf && decide (rop.toNat < 6)
  | .arm h slot _ _ => h.wf && slot != 0
  | .tsend h slot _ _ => h.wf && slot != 0
  | .raftxRi32 h _ _ => h.wf
  | .raftxMax h _ _ => h.wf
  | .raftxOr h _ _ => h.wf
  | .rafta h _ _ => h.wf
  | _ => true

end Sys2Proof
end

