-- ==== Sys2Proof/Certificates/Slice0/Obligations.lean ====
section
/-! DEFINITION. The statements for the provers: one `def Obligations.<Name> : Prop` for each. -/

section Statements

open Sys2Proof Sys2Proof.Machine

/-! ### Encodings -/

/-- Words that the spec writes out, decoded: control-core words of R101, R107, R111, R119, R132, R139, R142, R149,
R156, R160, R165, R173, R184 and R192, lane words of the GEMV program, and records laid out from R253 and R268. -/
def Obligations.SpecWordsDecode : Prop :=
  decodeTableWord 32 0x04221801 = some (.sub 1 2 3) ∧
  decodeTableWord 32 0x40A03FFE = some (.bNe 5 0 0x1FFE) ∧
  decodeTableWord 32 0x50040005 = some (.loop 4 5) ∧
  decodeTableWord 32 0x65234002 = some (.st 9 3 2 2) ∧
  decodeTableWord 32 0x80221800 = some (.vadd 1 2 3 0 0) ∧
  decodeTableWord 32 0x80C740A5 = some (.vcvt 6 7 1 0 0 5) ∧
  decodeTableWord 32 0x84430000 = some (.vld 2 3 0 0) ∧
  decodeTableWord 32 0x88620130 = some (.vscan 3 2 1 0) ∧
  decodeTableWord 32 0x8C813500 = some (.vqstI8 4 1 6 5 0) ∧
  decodeTableWord 32 0x6CA73073 = some (.amoAdd 5 7 6 3 4 1) ∧
  decodeTableWord 32 0xA0000016 = some (.fenceRel 5) ∧
  decodeTableWord 32 0xA1282814 = some (.bararrive 9 8 0 5) ∧
  decodeTableWord 32 0xA4800000 = some (.push 4 0) ∧
  decodeTableWord 32 0xA8600001 = some (.rdsr 3 1) ∧
  decodeTableWord 48 0x083340640001 = some (.act ⟨3, 3, 1, 100⟩ 1) ∧
  decodeTableWord 48 0x41600F001000 = some (.gemv ⟨22, 15, 1⟩ 0 0 0 0) ∧
  decodeTableWord 48 0x240000000400 = some (.setsc ⟨0, 0, 0⟩ 0 1 false) ∧
  decodeTableWord 128 (0x01 * 2 ^ 122 + 1 * 2 ^ 118 + 40 * 2 ^ 105 + 1 * 2 ^ 93 + 0x1000) =
    some (.copy ⟨0, true, 40, 0⟩ true 0 0x1000) ∧
  decodeTableWord 128 (0x12 * 2 ^ 122 + 5 * 2 ^ 91 + 7 * 2 ^ 48 + 9) = some (.arm ⟨0, false, 0, 0⟩ 5 7 9)

/-- Every control-core instruction, its X prefix included, is read back from its bytes in memory, whatever follows
them, with its length (R35, R39 to R48). -/
def Obligations.CoreRoundTrip : Prop :=
  ∀ (i : Instr) (n w : Nat), encode i = some (n, w) → n = 32 ∨ n = 64 →
    ∀ rest : List Byte, decode (bytesOf (n / 8) w ++ rest) = .ok (i, n / 8)

/-- A lane word is read back from its encoding exactly when it is well formed (R50 to R52, R215). -/
def Obligations.LaneRoundTrip : Prop :=
  ∀ (i : Instr) (w : BitVec 48), encodeLane i = some w → ((decodeLane w).toOption = some i ↔ i.wf = true)

/-- A record is read back from its encoding, at the queue that accepts its type, exactly when it is well formed (R53 to
R56, R241, R249 steps 1 to 4). -/
def Obligations.RecordRoundTrip : Prop :=
  ∀ (i : Instr) (r : BitVec 128), encodeRecord i = some r →
    ∃ q, acceptingQueue (r.extractLsb' 122 6) = some q ∧ ((decodeRecord q r).toOption = some i ↔ i.wf = true)

/-- No two words stand for one instruction: a word that decodes is the encoding of what it decodes to (R3, R35, R50,
R241). -/
def Obligations.DecodedWordsAreEncodings : Prop :=
  (∀ (w n : BitVec 32) (i : Instr), decodeWord w n = .ok i → encodeWord i = some w) ∧
  (∀ (w : BitVec 48) (i : Instr), decodeLane w = .ok i → encodeLane i = some w ∧ i.wf = true) ∧
  (∀ (q : Nat) (r : BitVec 128) (i : Instr), decodeRecord q r = .ok i → encodeRecord i = some r ∧ i.wf = true)

/-- Words that the opcode tables leave unassigned or reserved are refused by name: major 0x00, a reserved major, an
unassigned fn, a nonzero reserved field; an unassigned lane op, a reserved lane field, a row beyond the bank; an
unassigned record type, a record at another queue, a reserved record field, a value beyond its limit (R40, R51, R52,
R59, R249). -/
def Obligations.ReservedWordsRefused : Prop :=
  (∀ w n : BitVec 32, w.extractLsb' 26 6 = 0 → decodeWord w n = .error .illegalMajor) ∧
  (∀ w n : BitVec 32, w.extractLsb' 26 6 = 0x3E → decodeWord w n = .error .reservedMajor) ∧
  (∀ w n : BitVec 32, w.extractLsb' 26 6 = 1 → 0x1A ≤ (w.extractLsb' 0 11).toNat →
    decodeWord w n = .error .unassignedCode) ∧
  (∀ w n : BitVec 32, w.extractLsb' 26 6 = 0x0B → w.extractLsb' 16 5 ≠ 0 → decodeWord w n = .error .reservedField) ∧
  (∀ w : BitVec 48, w.extractLsb' 42 6 = 0 → decodeLane w = .error .unassignedOp) ∧
  (∀ w : BitVec 48, w.extractLsb' 42 6 = 0x3F → w.extractLsb' 0 12 ≠ 0 → decodeLane w = .error .reservedField) ∧
  (∀ w : BitVec 48, w.extractLsb' 42 6 = 2 → w.extractLsb' 12 4 = 0 → w.extractLsb' 2 10 = 0 →
    12288 ≤ (w.extractLsb' 16 14).toNat → decodeLane w = .error .row) ∧
  (∀ (q : Nat) (r : BitVec 128), r.extractLsb' 122 6 = 0 → decodeRecord q r = .error .unassignedType) ∧
  (∀ (q : Nat) (r : BitVec 128), r.extractLsb' 122 6 = 1 → q ≠ 0 → decodeRecord q r = .error .notAccepted) ∧
  (∀ r : BitVec 128, r.extractLsb' 122 6 = 0x15 → r.extractLsb' 64 27 ≠ 0 → decodeRecord 4 r = .error .reservedField) ∧
  (∀ r : BitVec 128, r.extractLsb' 122 6 = 0x15 → r.extractLsb' 64 27 = 0 → r.extractLsb' 118 1 = 1 →
    6 ≤ (r.extractLsb' 119 3).toNat → decodeRecord 4 r = .error .limits)

/-! ### Steps -/

/-- At a context that runs, with no replay entry, no asynchronous trap due, no pre-emption request that finds it waiting at a
yield point and no earlier access of its core's port behind which it stands after a freeze, a step whose fetch gives words
that decode to an instruction is `exec` of that instruction in the state that the fetch leaves, with the words kept for as
long as the instruction waits (R116, R117, R200, R373, R387). -/
def StepRunsFetchedInstructionHold : Prop :=
  ∀ (s s1 : State) (w n : BitVec 32) (i : Instr), s.agenda = [] → s.slot < 162 →
    (s.cur.st = .running ∨ s.cur.st = .preempt) → s.cur.replay = [] → s.asyncDue s.slot = false →
    (s.cur.preq && s.atYieldPoint s.slot) = false → s.portBehind s.slot = false →
    s.fetchIns s.slot = (s1, .words w n) → decodeWord w n = .ok i →
    step s = exec i (s1.setCur { s1.cur with fetched := some (w, n) })

/-- A step whose fetched words are no instruction takes an illegal-instruction trap at PC; one whose fetch fails a check
takes the trap of that check (R50, R59, R117). -/
def StepTrapsOnBadFetchHold : Prop :=
  ∀ (s s1 : State), s.agenda = [] → s.slot < 162 → (s.cur.st = .running ∨ s.cur.st = .preempt) → s.cur.replay = [] →
    s.asyncDue s.slot = false → (s.cur.preq && s.atYieldPoint s.slot) = false → s.portBehind s.slot = false →
    (∀ (w n : BitVec 32) (e : Reject), s.fetchIns s.slot = (s1, .words w n) → decodeWord w n = .error e →
      step s = .next (s1.takeTrap s1 s1.slot ⟨1, 0, s1.cur.pc, 0⟩ (rawWords w n) false s1.cur.pc [])) ∧
    (∀ c k : Nat, s.fetchIns s.slot = (s1, .fault c k) →
      step s = .next (s1.takeTrap s1 s1.slot ⟨c, k, s1.cur.pc, 0⟩ 0 false s1.cur.pc []))

/-- A lane's turn runs the word at the head of its queue, and what the lane has to do by then; an engine's turn the record
at the head of its queue, where none that it popped before waits to start; and an event's turn the event (R203, R216, R244;
log 1). -/
def StepRunsHeadsHold : Prop :=
  (∀ (s t : State) (l : Nat) (ts : List Turn) (x : LWord) (xs : List LWord) (i : Instr), s.agenda = .lane l :: ts → l < 512 →
    (s.laneOf l).words = x :: xs → x.bad = false → decodeLane x.bits = .ok i →
    exec i { s with agenda := ts, lane := l } = .next t → step s = .next (t.settleLane l)) ∧
  (∀ (s s1 : State) (q : Nat) (ts : List Turn) (r r1 : Rec) (rs : List Rec) (i : Instr), s.agenda = .engine q :: ts →
    (s.engq q).fault = [] → (s.engq q).markers = [] → (s.engq q).recs = r :: rs → (∀ x ∈ (s.engq q).run, x.todo = false) →
    { s with agenda := ts, queue := q }.settledUnit r.uid = true →
    { s with agenda := ts, queue := q }.headRecord q r = .ok s1 r1 → decodeRecord (q % 8) r1.bits = .ok i →
    step s = exec i (s1.setEngq q { s1.engq q with recs := r1 :: (s1.engq q).recs.drop 1 })) ∧
  (∀ (s : State) (q : Nat) (r : Rec), r.chained = false → s.headRecord q r = .ok s r) ∧
  (∀ (s : State) (i : Instr) (ts : List Turn), s.agenda = .event i :: ts → step s = exec i { s with agenda := ts })

/-- No instruction, word, record or event is refused, and none stops the machine: each has a next state in every state.
The model's own claim: every stop that the spec names is an exception that it describes, or a wait. -/
def Obligations.NoInstructionStops : Prop :=
  ∀ (i : Instr) (s : State), ∃ t, exec i s = .next t

/-- A fetch reads the word of an extent in second-tier memory that is valid, read-only and present, and changes no
byte but those of the shadows of checked pages (R116 to R118). -/
def Obligations.FetchReadsCode : Prop :=
  ∀ (s : State) (slot : Nat) (pc : Word) (pa : Nat) (w c : Bool) (sh : Nat),
    let p := s.partyAt slot (s.ctx slot).level
    let e := (p.extent (bitsOf pc.toNat 59 56)).1
    let ja := xBase e + bitsOf pc.toNat 55 0
    bitsOf pc.toNat 63 60 = 0 → xValid e = true → bitsOf pc.toNat 55 0 < xSize e → xW e = false → xSeal e = false →
    p.task = false → (s.pageRun (p.extent (bitsOf pc.toNat 59 56)) p.job .load ja).2 = ⟨.present pa, w, c, sh⟩ →
    s.frozen (pa + ja % 65536) = false → s.memUp (pa + ja % 65536) = true → s.poison = [] →
    ∃ t, s.fetchWord slot pc = (t, .word (BitVec.ofNat 32 (ofBytes ((List.range 4).map (fun i =>
        (s.pageRun (p.extent (bitsOf pc.toNat 59 56)) p.job .load ja).1.memByte p.key (pa + ja % 65536 + i)))))) ∧
      s.SameData t ∧ t.ctxs = s.ctxs

/-! ### Reset and the memories -/

/-- The values that the spec gives for reset: no unit runs, every counter is free, no job is active, the freeze is off,
the registers with a stated reset value hold it, LIM of each lane is 2^24 − 1, each island is on, each port is down. -/
def Obligations.ResetState : Prop :=
  (∀ slot, (State.reset.ctx slot).st = .idle ∧ (State.reset.ctx slot).uid = none ∧ (State.reset.ctx slot).loops = []) ∧
  (∀ n, State.reset.counter n = ⟨0, 0, 0, 0, false, 0, 0⟩) ∧
  (∀ j, State.reset.jobValid j = false) ∧
  (∀ l, (State.reset.laneOf l).lim = 2 ^ 24 - 1 ∧ (State.reset.laneOf l).kpos = 0 ∧ (State.reset.laneOf l).words = []) ∧
  (∀ i, (State.reset.island i).cur = 0 ∧ (State.reset.island i).busy = false) ∧
  (∀ p, (State.reset.port p).lanes = 3) ∧
  State.reset.fz = false ∧ State.reset.raw 0x800008 = 0x0000FFFFFFE00000 ∧ State.reset.raw 0x800010 = 0x1FFFFF

/-- Every memory has its canonical form after reset. -/
def Obligations.ResetMemoriesCanonical : Prop := State.reset.MemWf

/-- A write at a location, of however many bytes, keeps every memory in its canonical form, and so does a store that
performs. -/
def Obligations.WritesKeepMemoriesCanonical : Prop :=
  ∀ s : State, s.MemWf →
    (∀ (l : Loc) (b : Byte), (s.writeLoc l b).MemWf) ∧
    (∀ (ls : List Loc) (bs : List Byte), (s.writeLocs ls bs).MemWf ∧ (s.perform ls bs).MemWf)

/-- Every step of the machine keeps every memory in its canonical form: whatever instruction, lane word, record or event
it runs. -/
def Obligations.StepKeepsMemoriesCanonical : Prop :=
  ∀ s t : State, s.MemWf → step s = .next t → t.MemWf

/-- A byte written is the byte read; every other byte reads as before. Second-tier memory is written and read under a
key: under that key every byte but the one written reads as before, and in other sectors under every key (R393). -/
def Obligations.MemoryReadsBack : Prop :=
  (∀ (s : State) (key pa : Nat) (b : Byte), s.MemWf →
    (s.writeLoc (.mem pa key) b).memByte key pa = b ∧
    (∀ a, a ≠ pa → (s.writeLoc (.mem pa key) b).memByte key a = s.memByte key a) ∧
    (∀ k a, a / 128 ≠ pa / 128 → (s.writeLoc (.mem pa key) b).memByte k a = s.memByte k a) ∧
    (∀ l, (∀ p k, l ≠ .mem p k) → (s.writeLoc (.mem pa key) b).readLoc l = s.readLoc l)) ∧
  (∀ (s : State) (c o : Nat) (b : Byte), o < 0x400000 →
    (s.writeLoc (.spad c o) b).readLoc (.spad c o) = b ∧
    (∀ c' o', o' < 0x400000 → (c', o') ≠ (c, o) → (s.writeLoc (.spad c o) b).readLoc (.spad c' o') = s.readLoc (.spad c' o')) ∧
    (∀ l, (∀ c' o', l ≠ .spad c' o') → (s.writeLoc (.spad c o) b).readLoc l = s.readLoc l)) ∧
  (∀ (s : State) (n o : Nat) (b : Byte), o < 0x40000 →
    (s.writeLoc (.scratch n o) b).readLoc (.scratch n o) = b ∧
    (∀ n' o', o' < 0x40000 → (n', o') ≠ (n, o) →
      (s.writeLoc (.scratch n o) b).readLoc (.scratch n' o') = s.readLoc (.scratch n' o')) ∧
    (∀ l, (∀ n' o', l ≠ .scratch n' o') → (s.writeLoc (.scratch n o) b).readLoc l = s.readLoc l))

/-- g0 reads zero and m0 all ones whatever is written to them; a write of any other register is read back and changes
no other register (R28). -/
def Obligations.HardwiredRegisters : Prop :=
  ∀ c : Ctx,
    c.rd 0 = 0 ∧ c.rdM 0 = BitVec.allOnes 256 ∧
    (∀ v, c.wr 0 v = c) ∧ (∀ v, c.wrM 0 v = c) ∧
    (∀ r v, r ≠ 0 → (c.wr r v).rd r = v ∧ (∀ k, k ≠ r → (c.wr r v).rd k = c.rd k) ∧ (c.wr r v).SameSystem c ∧
      (c.wr r v).SameVectors c) ∧
    (∀ r v, r ≠ 0 → (c.wrM r v).rdM r = v ∧ (∀ k, k ≠ r → (c.wrM r v).rdM k = c.rdM k) ∧
      (∀ k, (c.wrM r v).rd k = c.rd k) ∧ (∀ k, (c.wrM r v).rdV k = c.rdV k))

/-! ### Scalar instructions -/

/-- The register-register operations: ADD, SUB, the logic and shift operations, the multiplies, the minima, maxima and
compares complete in every state, with the value of R101 in g(d), and change nothing else. -/
def Obligations.RegisterOperations : Prop :=
  ∀ (s : State) (d a b : BitVec 5), let x := s.cur.rd a.toNat; let y := s.cur.rd b.toNat
    Completes (exec (.add d a b) s) (s.WritesG d.toNat (x + y) 4) ∧
    Completes (exec (.sub d a b) s) (s.WritesG d.toNat (x - y) 4) ∧
    Completes (exec (.and d a b) s) (s.WritesG d.toNat (x &&& y) 4) ∧
    Completes (exec (.or d a b) s) (s.WritesG d.toNat (x ||| y) 4) ∧
    Completes (exec (.xor d a b) s) (s.WritesG d.toNat (x ^^^ y) 4) ∧
    Completes (exec (.andn d a b) s) (s.WritesG d.toNat (x &&& ~~~y) 4) ∧
    Completes (exec (.shl d a b) s) (s.WritesG d.toNat (x <<< (y.extractLsb' 0 6).toNat) 4) ∧
    Completes (exec (.shr d a b) s) (s.WritesG d.toNat (x >>> (y.extractLsb' 0 6).toNat) 4) ∧
    Completes (exec (.sra d a b) s) (s.WritesG d.toNat (x.sshiftRight (y.extractLsb' 0 6).toNat) 4) ∧
    Completes (exec (.rotr d a b) s) (s.WritesG d.toNat (x.rotateRight (y.extractLsb' 0 6).toNat) 4) ∧
    Completes (exec (.mul d a b) s) (s.WritesG d.toNat (x * y) 4) ∧
    Completes (exec (.mulhi d a b) s)
      (s.WritesG d.toNat ((x.signExtend 128 * y.signExtend 128).extractLsb' 64 64) 4) ∧
    Completes (exec (.mulhn d a b) s)
      (s.WritesG d.toNat ((x.setWidth 128 * y.setWidth 128).extractLsb' 64 64) 4) ∧
    Completes (exec (.min d a b) s) (s.WritesG d.toNat (BitVec.ofInt 64 (min x.toInt y.toInt)) 4) ∧
    Completes (exec (.max d a b) s) (s.WritesG d.toNat (BitVec.ofInt 64 (max x.toInt y.toInt)) 4) ∧
    Completes (exec (.minn d a b) s) (s.WritesG d.toNat (BitVec.ofNat 64 (min x.toNat y.toNat)) 4) ∧
    Completes (exec (.maxn d a b) s) (s.WritesG d.toNat (BitVec.ofNat 64 (max x.toNat y.toNat)) 4) ∧
    Completes (exec (.slt d a b) s) (s.WritesG d.toNat (if x.toInt < y.toInt then 1 else 0) 4) ∧
    Completes (exec (.sltn d a b) s) (s.WritesG d.toNat (if x.toNat < y.toNat then 1 else 0) 4)

/-- Division never traps: DIV, DIVN, REM and REMN complete in every state with the quotient and remainder of R102. -/
def Obligations.Division : Prop :=
  ∀ (s : State) (d a b : BitVec 5), let x := s.cur.rd a.toNat; let y := s.cur.rd b.toNat
    Completes (exec (.div d a b) s) (s.WritesG d.toNat (if y = 0 then BitVec.allOnes 64
      else if x.toInt = -2 ^ 63 ∧ y.toInt = -1 then BitVec.ofInt 64 (-2 ^ 63)
      else BitVec.ofInt 64 (x.toInt.tdiv y.toInt)) 4) ∧
    Completes (exec (.rem d a b) s) (s.WritesG d.toNat (if y = 0 then x
      else if x.toInt = -2 ^ 63 ∧ y.toInt = -1 then 0
      else BitVec.ofInt 64 (x.toInt - x.toInt.tdiv y.toInt * y.toInt)) 4) ∧
    Completes (exec (.divn d a b) s) (s.WritesG d.toNat (if y = 0 then BitVec.allOnes 64
      else BitVec.ofNat 64 (x.toNat / y.toNat)) 4) ∧
    Completes (exec (.remn d a b) s) (s.WritesG d.toNat (if y = 0 then x
      else BitVec.ofNat 64 (x.toNat - x.toNat / y.toNat * y.toNat)) 4)

/-- CLZ, CTZ and POPC complete in every state: the zero bits above the highest one bit, those below the lowest one bit,
64 of each for zero, and the number of one bits (R101). -/
def BitCountsHold : Prop :=
  ∀ (s : State) (d a : BitVec 5), let x := s.cur.rd a.toNat
    (∃ n : Nat, Completes (exec (.clz d a) s) (s.WritesG d.toNat (BitVec.ofNat 64 n) 4) ∧ n ≤ 64 ∧
      (∀ i, 64 - n ≤ i → i < 64 → x.getLsbD i = false) ∧ (n < 64 → x.getLsbD (63 - n) = true)) ∧
    (∃ n : Nat, Completes (exec (.ctz d a) s) (s.WritesG d.toNat (BitVec.ofNat 64 n) 4) ∧ n ≤ 64 ∧
      (∀ i, i < n → x.getLsbD i = false) ∧ (n < 64 → x.getLsbD n = true)) ∧
    Completes (exec (.popc d a) s)
      (s.WritesG d.toNat (BitVec.ofNat 64 ((List.range 64).filter (fun i => x.getLsbD i)).length) 4)

/-- The immediate operations, the immediate shifts, LUI and ADDPC complete in every state with the values of R103 to
R106: the immediate sign-extended, or zero-extended for ANDI, ORI, XORI and SLTNI. -/
def ImmediateOperationsHold : Prop :=
  ∀ (s : State) (d a : BitVec 5) (imm : BitVec 16) (n : BitVec 6), let x := s.cur.rd a.toNat
    Completes (exec (.addi d a imm) s) (s.WritesG d.toNat (x + imm.signExtend 64) 4) ∧
    Completes (exec (.andi d a imm) s) (s.WritesG d.toNat (x &&& imm.setWidth 64) 4) ∧
    Completes (exec (.ori d a imm) s) (s.WritesG d.toNat (x ||| imm.setWidth 64) 4) ∧
    Completes (exec (.xori d a imm) s) (s.WritesG d.toNat (x ^^^ imm.setWidth 64) 4) ∧
    Completes (exec (.slti d a imm) s) (s.WritesG d.toNat (if x.toInt < imm.toInt then 1 else 0) 4) ∧
    Completes (exec (.sltni d a imm) s) (s.WritesG d.toNat (if x.toNat < imm.toNat then 1 else 0) 4) ∧
    Completes (exec (.shli d a n) s) (s.WritesG d.toNat (x <<< n.toNat) 4) ∧
    Completes (exec (.shri d a n) s) (s.WritesG d.toNat (x >>> n.toNat) 4) ∧
    Completes (exec (.srai d a n) s) (s.WritesG d.toNat (x.sshiftRight n.toNat) 4) ∧
    Completes (exec (.lui d imm) s) (s.WritesG d.toNat ((imm ++ (0 : BitVec 16)).signExtend 64) 4) ∧
    Completes (exec (.addpc d imm) s) (s.WritesG d.toNat (s.cur.pc + imm.signExtend 64) 4)

/-- Whether a condition of R107 holds for two register values. -/
def condHolds (i : BitVec 3) (x y : Word) : Prop :=
  match i with
  | 0 => x = y
  | 1 => x ≠ y
  | 2 => x.toInt < y.toInt
  | 3 => y.toInt ≤ x.toInt
  | 4 => x.toNat < y.toNat
  | _ => y.toNat ≤ x.toNat

/-- A branch, taken or not: PC, and the loop entries that the transfer or the retirement leaves; nothing else changes
but g(link), which takes a return address (R107 to R109, R113, R114). -/
structure Transfers (s : State) (taken : Prop) (target : Word) (size link : Nat) (ret : Word) (t : State) : Prop where
  only : s.OnlyCur t
  system : s.cur.SameSystem t.cur
  vectors : s.cur.SameVectors t.cur
  regs : ∀ r, t.cur.rd r = if r = link ∧ link ≠ 0 then ret else s.cur.rd r
  goes : taken → t.cur.pc = target ∧
    t.cur.entries = s.cur.entries.dropWhile (fun e => decide (target.toNat < e.start.toNat ∨ e.stop.toNat < target.toNat)) ∧
    s.cur.SameOtherLoops t.cur
  stays : ¬ taken → s.cur.Retired t.cur size

/-- The six branches complete in every state: PC plus 4 times the signed 13-bit count where the condition holds, else
the next instruction (R107, R114). -/
def BranchesHold : Prop :=
  ∀ (s : State) (a b : BitVec 5) (off : BitVec 13),
    let x := s.cur.rd a.toNat; let y := s.cur.rd b.toNat; let t := s.cur.pc + off.signExtend 64 * 4
    Completes (exec (.bEq a b off) s) (Transfers s (condHolds 0 x y) t 4 0 0) ∧
    Completes (exec (.bNe a b off) s) (Transfers s (condHolds 1 x y) t 4 0 0) ∧
    Completes (exec (.bLt a b off) s) (Transfers s (condHolds 2 x y) t 4 0 0) ∧
    Completes (exec (.bGe a b off) s) (Transfers s (condHolds 3 x y) t 4 0 0) ∧
    Completes (exec (.bLtn a b off) s) (Transfers s (condHolds 4 x y) t 4 0 0) ∧
    Completes (exec (.bGen a b off) s) (Transfers s (condHolds 5 x y) t 4 0 0)

/-- J, JAL and JALR complete in every state: JAL links g31, JALR links g(d) after g(a) is read and clears bits 1:0 of
its target (R108, R109, R114). -/
def JumpsHold : Prop :=
  ∀ (s : State) (d a : BitVec 5) (imm : BitVec 16) (off : BitVec 26),
    Completes (exec (.j off) s) (Transfers s True (s.cur.pc + off.signExtend 64 * 4) 4 0 0) ∧
    Completes (exec (.jal off) s) (Transfers s True (s.cur.pc + off.signExtend 64 * 4) 4 31 (s.cur.pc + 4)) ∧
    Completes (exec (.jalr d a imm) s)
      (Transfers s True ((s.cur.rd a.toNat + imm.signExtend 64) &&& ~~~(3 : Word)) 4 d.toNat (s.cur.pc + 4))

/-- LOOP: with a body length of at least 1, fewer than two active entries and an end not beyond theirs it completes. A
count of 0 moves PC to end + 4 and leaves the entries; any other count activates an entry of that count, innermost. In
every other case it is an illegal-instruction trap (R111, R112). -/
def Obligations.CountedLoops : Prop :=
  ∀ (s : State) (a : BitVec 5) (imm : BitVec 16),
    let stop := s.cur.pc + imm.signExtend 64 * 4
    let n := s.cur.rd a.toNat
    let ok := 1 ≤ imm.toInt ∧ s.cur.entries.length < 2 ∧ ∀ e ∈ s.cur.entries, stop.toNat ≤ e.stop.toNat
    (ok → Completes (exec (.loop a imm) s) (fun t =>
      s.OnlyCur t ∧ s.cur.SameSystem t.cur ∧ s.cur.SameVectors t.cur ∧ (∀ r, t.cur.rd r = s.cur.rd r) ∧
      s.cur.SameOtherLoops t.cur ∧ (n = 0 → t.cur.pc = stop + 4 ∧ t.cur.entries = s.cur.entries) ∧
      (n ≠ 0 → t.cur.pc = s.cur.pc + 4 ∧ t.cur.entries = ⟨s.cur.pc + 4, stop, n⟩ :: s.cur.entries))) ∧
    (¬ ok → exec (.loop a imm) s = .next (s.takeTrap s s.slot ⟨1, 0, s.cur.pc, 0⟩ (ins (.loop a imm)).words false
      s.cur.pc s.cur.replay))

/-- The retirement test of a counted loop: at the innermost entry's end word, or at a prefixed instruction whose second
word is there, the count falls by 1 and PC goes to the start, or, at the last pass, the entry deactivates and PC goes to
end + 4; anywhere else PC goes to the next instruction and the entries stay (R99, R113, R115). -/
def Obligations.LoopRetirement : Prop :=
  ∀ (c : Ctx) (size : Nat), (∀ e es, c.entries = e :: es →
      ((e.stop = c.pc ∨ (size = 8 ∧ e.stop = c.pc + 4)) →
        (e.count - 1 ≠ 0 → (c.fall size).pc = e.start ∧ (c.fall size).entries = { e with count := e.count - 1 } :: es) ∧
        (e.count - 1 = 0 → (c.fall size).pc = e.stop + 4 ∧ (c.fall size).entries = es)) ∧
      (¬ (e.stop = c.pc ∨ (size = 8 ∧ e.stop = c.pc + 4)) →
        (c.fall size).pc = c.pc + BitVec.ofNat 64 size ∧ (c.fall size).entries = c.entries)) ∧
    (c.entries = [] → (c.fall size).pc = c.pc + BitVec.ofNat 64 size ∧ (c.fall size).entries = []) ∧
    (∀ r, (c.fall size).rd r = c.rd r) ∧ c.SameSystem (c.fall size) ∧ c.SameVectors (c.fall size) ∧
    c.SameOtherLoops (c.fall size)

/-- The X prefix gives the next word 26 more bits of immediate, and the pair retires as one 8-byte instruction. A word
that takes no prefix, or is no instruction, makes the pair an illegal-instruction trap at the prefix (R39, R104). -/
def Obligations.PrefixedOperations : Prop :=
  ∀ (s : State) (hi : BitVec 26) (nx : BitVec 32),
    (∀ (d a : BitVec 5) (m : BitVec 16), let x := s.cur.rd a.toNat; let z : Word := (hi ++ m).setWidth 64
      let v : Word := (hi ++ m).signExtend 64
      (decodeWord nx 0 = .ok (.addi d a m) → Completes (exec (.xPrefix hi nx) s) (s.WritesG d.toNat (x + v) 8)) ∧
      (decodeWord nx 0 = .ok (.andi d a m) → Completes (exec (.xPrefix hi nx) s) (s.WritesG d.toNat (x &&& z) 8)) ∧
      (decodeWord nx 0 = .ok (.ori d a m) → Completes (exec (.xPrefix hi nx) s) (s.WritesG d.toNat (x ||| z) 8)) ∧
      (decodeWord nx 0 = .ok (.xori d a m) → Completes (exec (.xPrefix hi nx) s) (s.WritesG d.toNat (x ^^^ z) 8)) ∧
      (decodeWord nx 0 = .ok (.slti d a m) →
        Completes (exec (.xPrefix hi nx) s) (s.WritesG d.toNat (if x.toInt < v.toInt then 1 else 0) 8)) ∧
      (decodeWord nx 0 = .ok (.sltni d a m) →
        Completes (exec (.xPrefix hi nx) s) (s.WritesG d.toNat (if x.toNat < z.toNat then 1 else 0) 8)) ∧
      (decodeWord nx 0 = .ok (.lui d m) →
        Completes (exec (.xPrefix hi nx) s) (s.WritesG d.toNat ((hi ++ m ++ (0 : BitVec 16)).signExtend 64) 8)) ∧
      (decodeWord nx 0 = .ok (.addpc d m) → Completes (exec (.xPrefix hi nx) s) (s.WritesG d.toNat (s.cur.pc + v) 8)) ∧
      (decodeWord nx 0 = .ok (.jalr d a m) → Completes (exec (.xPrefix hi nx) s)
        (Transfers s True ((x + v) &&& ~~~(3 : Word)) 8 d.toNat (s.cur.pc + 8)))) ∧
    (∀ (a b : BitVec 5) (m : BitVec 13), decodeWord nx 0 = .ok (.bNe a b m) → Completes (exec (.xPrefix hi nx) s)
      (Transfers s (condHolds 1 (s.cur.rd a.toNat) (s.cur.rd b.toNat)) (s.cur.pc + (hi ++ m).signExtend 64 * 4) 8 0 0)) ∧
    (∀ (d a : BitVec 5) (n : BitVec 6), decodeWord nx 0 = .ok (.shli d a n) → exec (.xPrefix hi nx) s =
      .next (s.takeTrap s s.slot ⟨1, 0, s.cur.pc, 0⟩ (ins (.xPrefix hi nx)).words false s.cur.pc s.cur.replay)) ∧
    (∀ e : Reject, decodeWord nx 0 = .error e → exec (.xPrefix hi nx) s =
      .next (s.takeTrap s s.slot ⟨1, 0, s.cur.pc, 0⟩ (ins (.xPrefix hi nx)).words false s.cur.pc s.cur.replay))

/-! ### Memory -/

/-- The windows of an address: a range within its bounds that the party may reach resolves to the bytes of the own
scratchpad (window 1), of a scratchpad of the cluster (2), of lane scratch (3), and of a bank row (4); a range beyond the
bounds fails check 3, a reserved window check 1, and window 2 fails check 6 at a core that another job owns (R122, R302,
R358). -/
def WindowsResolveHold : Prop :=
  ∀ (s : State) (p : Party) (k : AccKind) (a : Word) (n : Nat), 0 < n →
    (bitsOf a.toNat 63 60 = 1 → classOf p.core = .tile → (s.core p.core).frozen = false → (s.core p.core).spill = [] →
      s.freezeDue p.core = false →
      (bitsOf a.toNat 59 0 + n ≤ 0x400000 → s.locate p k 1 a n =
        (s, .ok ((List.range n).map (fun i => Loc.spad p.core (bitsOf a.toNat 59 0 + i))) [])) ∧
      (0x400000 < bitsOf a.toNat 59 0 + n → s.locate p k 1 a n = (s, .bad 3 a))) ∧
    (∀ c, bitsOf a.toNat 63 60 = 2 → classOf p.core = .tile → bitsOf a.toNat 59 56 < 8 →
      c = 32 + (p.core - 32) / 8 * 8 + bitsOf a.toNat 59 56 → (s.core c).frozen = false → (s.core c).spill = [] →
      s.freezeDue c = false → bitsOf a.toNat 55 0 + n ≤ 0x400000 →
      ((s.core c).owner = none ∨ (s.core c).owner = some p.job → s.locate p k 1 a n =
        (s, .ok ((List.range n).map (fun i => Loc.spad c (bitsOf a.toNat 55 0 + i))) [])) ∧
      (∀ o, (s.core c).owner = some o → o ≠ p.job → s.locate p k 1 a n = (s, .bad 6 a))) ∧
    (bitsOf a.toNat 63 60 = 3 → (k = .load ∨ k = .store) → classOf p.core ≠ .head →
      (s.laneOf (bitsOf a.toNat 59 51)).job = some p.job → bitsOf a.toNat 50 0 + n ≤ 0x40000 → s.locate p k 1 a n =
        (s, .ok ((List.range n).map (fun i => Loc.scratch (bitsOf a.toNat 59 51) (bitsOf a.toNat 50 0 + i))) [])) ∧
    (bitsOf a.toNat 63 60 = 4 → k = .store → (s.laneOf (bitsOf a.toNat 59 51)).job = some p.job →
      bitsOf a.toNat 50 31 = 0 → bitsOf a.toNat 24 11 < 12288 → bitsOf a.toNat 10 0 + n ≤ 2048 → s.locate p k 1 a n =
        (s, .ok ((List.range n).map (fun i => Loc.bank (bitsOf a.toNat 59 51) (bitsOf a.toNat 30 25)
          (bitsOf a.toNat 24 11) (bitsOf a.toNat 10 0 + i))) [])) ∧
    (5 ≤ bitsOf a.toNat 63 60 → bitsOf a.toNat 63 60 ≤ 14 → s.locate p k 1 a n = (s, .bad 1 a)) ∧
    (bitsOf a.toNat 63 60 = 15 → p.level ≠ .management → s.locate p k 1 a n = (s, .bad 1 a))

/-- Second-tier memory through an extent: an invalid entry or an offset at or beyond its size fails check 2, a range that
runs beyond it check 3, a store to a read-only extent check 4, a store to a sealed range check 5; a range within one
present page that permits the access is the bytes of that page under the party's key (R122, R398 to R402). -/
def ExtentsResolveHold : Prop :=
  ∀ (s : State) (p : Party) (k : AccKind) (a : Word) (n : Nat), 0 < n → bitsOf a.toNat 63 60 = 0 →
    let e := (p.extent (bitsOf a.toNat 59 56)).1
    let off := bitsOf a.toNat 55 0
    let ja := xBase e + off
    ((xValid e = false ∨ xSize e ≤ off) → s.locate p k 1 a n = (s, .bad 2 a)) ∧
    (xValid e = true → off < xSize e → xSize e < off + n → s.locate p k 1 a n = (s, .bad 3 a)) ∧
    (xValid e = true → off + n ≤ xSize e → k ≠ .load → xW e = false → s.locate p k 1 a n = (s, .bad 4 a)) ∧
    (xValid e = true → off + n ≤ xSize e → k ≠ .load → xW e = true → p.task = false → s.sealedAny p.job ja n = true →
      s.locate p k 1 a n = (s, .bad 5 a)) ∧
    (∀ (s1 : State) (pa : Nat) (w c : Bool) (sh : Nat), xValid e = true → off + n ≤ xSize e → (k = .load ∨ xW e = true) →
      p.task = false → (k = .load ∨ s.sealedAny p.job ja n = false) → ja % 65536 + n ≤ 65536 →
      s.pageRun (p.extent (bitsOf a.toNat 59 56)) p.job k ja = (s1, ⟨.present pa, w, c, sh⟩) → (k = .load ∨ w = true) →
      s.fz = false → (∀ x, s.memUp x = true) →
      s.locate p k 1 a n = (s1, .ok ((List.range n).map (fun i => Loc.mem (pa + ja % 65536 + i) p.key))
        (runTags ⟨.present pa, w, c, sh⟩ ja n)))

/-- An LD or ST whose access fails a check of R122 traps at its own PC, with the cause of that check, the check's number
in INFO and the faulting address (R122, R368). -/
def FailedChecksTrapHold : Prop :=
  ∀ (s s1 : State) (d a : BitVec 5) (sz : BitVec 3) (off : BitVec 13) (n : Nat) (f : AccFault),
    accessSize sz = some n → (n = 16 → d.toNat % 2 = 0) →
    let ea := s.cur.rd a.toNat + off.signExtend 64 * BitVec.ofNat 64 n
    s.mustFollow s.slot s.party ea = false →
    (s.locate s.party .load 1 ea n = (s1, .fault f) → exec (.ld d a sz off) s =
      .next (s1.takeTrap s1 s1.slot ⟨checkCause f.check, f.check, f.addr, BitVec.ofNat 128 f.extra⟩
        (ins (.ld d a sz off)).words false s1.cur.pc s1.cur.replay)) ∧
    (s.locate s.party .store 1 ea n = (s1, .fault f) → exec (.st d a sz off) s =
      .next (s1.takeTrap s1 s1.slot ⟨checkCause f.check, f.check, f.addr, BitVec.ofNat 128 f.extra⟩
        (ins (.st d a sz off)).words false s1.cur.pc s1.cur.replay))

/-- LD of a reserved size, or of 16 bytes into an odd register, is an illegal-instruction trap, and so is such an ST
(R37, R120). -/
def BadSizesTrapHold : Prop :=
  ∀ (s : State) (d a : BitVec 5) (sz : BitVec 3) (off : BitVec 13),
    (accessSize sz = none ∨ (sz = 4 ∧ d.toNat % 2 = 1)) →
    exec (.ld d a sz off) s = .next (s.takeTrap s s.slot ⟨1, 0, s.cur.pc, 0⟩ (ins (.ld d a sz off)).words false s.cur.pc
      s.cur.replay) ∧
    exec (.st d a sz off) s = .next (s.takeTrap s s.slot ⟨1, 0, s.cur.pc, 0⟩ (ins (.st d a sz off)).words false s.cur.pc
      s.cur.replay)

/-- LD completes where its checks pass, its pages are present and no store of the unit to its bytes stands in the side
log: g(d) takes the bytes zero-extended, g(d) and g(d + 1) those of a 16-byte load; no byte of memory changes and no
other register (R119, R120, R125, R126). -/
def Obligations.Loads : Prop :=
  ∀ (s s1 s2 : State) (d a : BitVec 5) (sz : BitVec 3) (off : BitVec 13) (n : Nat) (ls : List Loc) (ts : List Nat),
    accessSize sz = some n → (n = 16 → d.toNat % 2 = 0) →
    let ea := s.cur.rd a.toNat + off.signExtend 64 * BitVec.ofNat 64 n
    isReg ea = false → s.mustFollow s.slot s.party ea = false → s.locate s.party .load 1 ea n = (s1, .ok ls ts) →
    ls.length = n →
    s1.logOverlap s.slot s.party ea n = false → s1.race s.party .load false ea ts = .ok s2 → s1.eccBad .load ls = false →
    Completes (exec (.ld d a sz off) s) (fun t =>
      s.OnlyReads t ∧ s.cur.SameButAccess t.cur ∧ s.cur.SameVectors t.cur ∧ s.cur.Retired t.cur 4 ∧
      ∀ r, t.cur.rd r =
        if r = d.toNat ∧ r ≠ 0 then BitVec.ofNat 64 (ofBytes ((ls.take 8).map s1.readLoc))
        else if n = 16 ∧ r = d.toNat + 1 then BitVec.ofNat 64 (ofBytes ((ls.drop 8).map s1.readLoc))
        else s.cur.rd r)

/-- ST completes where its checks pass, its pages are present and the side log is empty: the low bytes of g(d), or of
g(d) and g(d + 1) for 16 bytes, are stored at the address that the access resolves to; no register changes
(R119, R120, R125). -/
def StoresHold : Prop :=
  ∀ (s s1 s2 : State) (d a : BitVec 5) (sz : BitVec 3) (off : BitVec 13) (n key : Nat) (ls : List Loc) (ts : List Nat),
    s.MemWf → accessSize sz = some n → (n = 16 → d.toNat % 2 = 0) →
    let ea := s.cur.rd a.toNat + off.signExtend 64 * BitVec.ofNat 64 n
    bitsOf ea.toNat 63 60 < 4 → s.locate s.party .store 1 ea n = (s1, .ok ls ts) → ls.length = n → PlainLocs ls key →
    (s1.ctx s.slot).side = [] → s1.race s.party .store false ea ts = .ok s2 → s1.eccBad .store ls = false →
    Completes (exec (.st d a sz off) s) (fun t =>
      s.Stores ls (if n = 16 then bytesOf 8 (s.cur.rd d.toNat).toNat ++ bytesOf 8 (s.cur.rd (d.toNat + 1)).toNat
        else bytesOf n (s.cur.rd d.toNat).toNat) t ∧
      s.cur.SameButAccess t.cur ∧ s.cur.SameVectors t.cur ∧ s.cur.Retired t.cur 4 ∧ ∀ r, t.cur.rd r = s.cur.rd r)

/-- A store whose page is absent retires into the side log, where there is room, and leaves every byte as it was: one
entry at its address, behind those that stand there (R125, R407). -/
def SideLogStoresHold : Prop :=
  ∀ (s s1 s2 : State) (d a : BitVec 5) (sz : BitVec 3) (off : BitVec 13) (n : Nat) (ts : List Nat),
    accessSize sz = some n → n < 16 →
    let ea := s.cur.rd a.toNat + off.signExtend 64 * BitVec.ofNat 64 n
    isReg ea = false → bitsOf ea.toNat 63 60 = 0 → s.locate s.party .store 1 ea n = (s1, .absent ts) →
    s.cur.side.length < 32 →
    s1.race s.party .store false ea ts = .ok s2 →
    Completes (exec (.st d a sz off) s) (fun t =>
      s.OnlyReads t ∧ (∀ r, t.cur.rd r = s.cur.rd r) ∧ s.cur.SameVectors t.cur ∧ s.cur.Retired t.cur 4 ∧
      s.cur.SameSystem { t.cur with side := s.cur.side } ∧
      t.cur.side = s.cur.side ++ [⟨ea, false, 0, false, ea.toNat % n == 0, s.party.level == .supervisor, false,
        bytesOf n (s.cur.rd d.toNat).toNat⟩])

/-- PREF.LD and PREF.ST complete in every state with no architectural effect: no register, no byte, no trap; at most a
line becomes resident (R129). -/
def Obligations.Prefetches : Prop :=
  ∀ (s : State) (a : BitVec 5) (sz : BitVec 3) (off : BitVec 13), accessSize sz ≠ none → ∀ i,
    (i = Instr.prefLd a sz off ∨ i = Instr.prefSt a sz off) →
    Completes (exec i s) (fun t => s.OnlyReads t ∧ s.cur.SameSystem t.cur ∧ s.cur.SameVectors t.cur ∧
      s.cur.Retired t.cur 4 ∧ ∀ r, t.cur.rd r = s.cur.rd r)

/-- The values that the operations of R162 leave for `n` bytes, from the old value and the operand. -/
def atomicTable (d a b : BitVec 5) (ord : BitVec 2) (sc : BitVec 3) (wd : BitVec 1) (n : Nat) :
    List (Instr × (Nat → Nat → Nat)) :=
  [(.amoAdd d a b ord sc wd, fun x y => (x + y) % 256 ^ n),
   (.amoMin d a b ord sc wd, fun x y => if sint (8 * n) x ≤ sint (8 * n) y then x else y),
   (.amoMax d a b ord sc wd, fun x y => if sint (8 * n) x ≤ sint (8 * n) y then y else x),
   (.amoMinn d a b ord sc wd, fun x y => min x y),
   (.amoMaxn d a b ord sc wd, fun x y => max x y),
   (.amoAnd d a b ord sc wd, fun x y => x &&& y),
   (.amoOr d a b ord sc wd, fun x y => x ||| y),
   (.amoXor d a b ord sc wd, fun x y => x ^^^ y),
   (.amoSwap d a b ord sc wd, fun _ y => y)]

/-- The reductions of R162, likewise. -/
def reductionTable (a b : BitVec 5) (rel : BitVec 1) (sc : BitVec 3) (wd : BitVec 1) (n : Nat) :
    List (Instr × (Nat → Nat → Nat)) :=
  [(.redAdd a b rel sc wd, fun x y => (x + y) % 256 ^ n),
   (.redMin a b rel sc wd, fun x y => if sint (8 * n) x ≤ sint (8 * n) y then x else y),
   (.redMax a b rel sc wd, fun x y => if sint (8 * n) x ≤ sint (8 * n) y then y else x),
   (.redMinn a b rel sc wd, fun x y => min x y),
   (.redMaxn a b rel sc wd, fun x y => max x y),
   (.redAnd a b rel sc wd, fun x y => x &&& y),
   (.redOr a b rel sc wd, fun x y => x ||| y),
   (.redXor a b rel sc wd, fun x y => x ^^^ y)]

/-- The state that an atomic of `n` bytes finds where it performs at once: an assigned scope, no remote atomic
unanswered, its checks passed, its bytes in memory, its earlier accesses performed at the scope at which it is a release, nothing in the
side log (R160, R163, R164). -/
structure AtomicReady (s s1 s2 : State) (a : BitVec 5) (sc : BitVec 3) (rel : Nat) (failed : Bool) (n key : Nat) (ls : List Loc)
    (ts : List Nat) : Prop where
  wf : s.MemWf
  scope : scopeOk sc = true
  idle : s.awaited = none
  window : bitsOf (s.cur.rd a.toNat).toNat 63 60 < 4
  found : s.locate s.party .atomic n (s.cur.rd a.toNat) n = (s1, .ok ls ts)
  length : ls.length = n
  plain : PlainLocs ls key
  settled : s1.released s.slot rel = true
  side : s1.cur.side = []
  race : s1.race s1.party .atomic failed (s.cur.rd a.toNat) ts = .ok s2
  ecc : s1.eccBad .atomic ls = false

/-- Each AMO completes: the home takes the new value of the table, g(d) the old value zero-extended, and nothing else
changes (R159 to R164). -/
def AtomicsHold : Prop :=
  ∀ (s s1 s2 : State) (d a b : BitVec 5) (ord : BitVec 2) (sc : BitVec 3) (wd : BitVec 1) (key : Nat) (ls : List Loc)
    (ts : List Nat), let n := if wd = 0 then 4 else 8
    AtomicReady s s1 s2 a sc (if ord.getLsbD 1 then sc.toNat else scopeUnit) false n key ls ts →
    ∀ x ∈ atomicTable d a b ord sc wd n,
      let old := ofBytes (ls.map s1.readLoc)
      Completes (exec x.1 s) (fun t =>
        s.Stores ls (bytesOf n (x.2 old ((s.cur.rd b.toNat).toNat % 256 ^ n))) t ∧
        s.cur.SameButAccess t.cur ∧ s.cur.SameVectors t.cur ∧ s.cur.Retired t.cur 4 ∧
        ∀ r, t.cur.rd r = if r = d.toNat ∧ r ≠ 0 then BitVec.ofNat 64 old else s.cur.rd r)

/-- CAS completes: with the expected value at the home it stores g(b), else it stores nothing; g(d) takes the old value
zero-extended either way (R162). -/
def CompareAndSwapHold : Prop :=
  ∀ (s s1 s2 : State) (d a b : BitVec 5) (ord : BitVec 2) (sc : BitVec 3) (wd : BitVec 1) (key : Nat) (ls : List Loc)
    (ts : List Nat), let n := if wd = 0 then 4 else 8
    let old := ofBytes (ls.map s1.readLoc)
    let hit := decide (old = (s.cur.rd d.toNat).toNat % 256 ^ n)
    AtomicReady s s1 s2 a sc (if ord.getLsbD 1 then sc.toNat else scopeUnit) (!hit) n key ls ts →
      Completes (exec (.cas d a b ord sc wd) s) (fun t =>
        (hit = true → s.Stores ls (bytesOf n ((s.cur.rd b.toNat).toNat % 256 ^ n)) t) ∧
        (hit = false → s.OnlyReads t) ∧
        s.cur.SameButAccess t.cur ∧ s.cur.SameVectors t.cur ∧ s.cur.Retired t.cur 4 ∧
        ∀ r, t.cur.rd r = if r = d.toNat ∧ r ≠ 0 then BitVec.ofNat 64 old else s.cur.rd r)

/-- Each RED completes: the home takes the new value of the table, and no register changes (R162, R163). -/
def ReductionsHold : Prop :=
  ∀ (s s1 s2 : State) (a b : BitVec 5) (rel : BitVec 1) (sc : BitVec 3) (wd : BitVec 1) (key : Nat) (ls : List Loc)
    (ts : List Nat), let n := if wd = 0 then 4 else 8
    AtomicReady s s1 s2 a sc (if rel = 1 then sc.toNat else scopeUnit) false n key ls ts →
    ∀ x ∈ reductionTable a b rel sc wd n,
      Completes (exec x.1 s) (fun t =>
        s.Stores ls (bytesOf n (x.2 (ofBytes (ls.map s1.readLoc)) ((s.cur.rd b.toNat).toNat % 256 ^ n))) t ∧
        s.cur.SameButAccess t.cur ∧ s.cur.SameVectors t.cur ∧ s.cur.Retired t.cur 4 ∧ ∀ r, t.cur.rd r = s.cur.rd r)

/-! ### Vectors -/

/-- The element-wise operations on one type, with the values of their elements: integers modulo 2^width, floats rounded
once with the flags of R66 (R135, R137, R138, R148, R151, R152). `x`, `y` and `z` read va, vb and vd, `mk` the mask. -/
def elementTable (d a b : BitVec 5) (mk ty : BitVec 3) (t : VTy) (x y z : Nat → Nat) :
    List (Instr × (Nat → Nat × Nat)) :=
  let w := 2 ^ t.width
  let p := t.fp
  [(.vadd d a b mk ty, fun k => if t.isFloat then addF t.fmt (p (x k)) (p (y k)) else ((x k + y k) % w, 0)),
   (.vsub d a b mk ty, fun k => if t.isFloat then addF t.fmt (p (x k)) (p (y k)).neg else ((x k + (w - y k)) % w, 0)),
   (.vmul d a b mk ty, fun k => if t.isFloat then mulF t.fmt (p (x k)) (p (y k)) else (x k * y k % w, 0)),
   (.vfma d a b mk ty, fun k =>
     if t.isFloat then fmaF t.fmt (p (x k)) (p (y k)) (p (z k)) else ((x k * y k + z k) % w, 0)),
   (.vfms d a b mk ty, fun k =>
     if t.isFloat then fmaF t.fmt (p (x k)) (p (y k)) (p (z k)).neg else ((x k * y k + (w - z k)) % w, 0)),
   (.vmin d a b mk ty, fun k => elMin t (x k) (y k)),
   (.vmax d a b mk ty, fun k => elMax t (x k) (y k)),
   (.vperm d a b mk ty, fun k => (x (y k % t.count), 0))]

/-- The operations that only signed or float types take. -/
def signedTable (d a : BitVec 5) (mk ty : BitVec 3) (t : VTy) (x : Nat → Nat) : List (Instr × (Nat → Nat × Nat)) :=
  [(.vabs d a mk ty, fun k => if t.isFloat then (if (t.fp (x k)).isNaN then t.fmt.qnan else x k % 2 ^ (t.width - 1), 0)
      else ((sint t.width (x k)).natAbs, 0)),
   (.vneg d a mk ty, fun k => if t.isFloat then (if (t.fp (x k)).isNaN then t.fmt.qnan else x k ^^^ 2 ^ (t.width - 1), 0)
      else ((2 ^ t.width - x k) % 2 ^ t.width, 0))]

/-- The operations that only integer types take. -/
def integerTable (d a b : BitVec 5) (mk ty : BitVec 3) (t : VTy) (m : MWord) (x y : Nat → Nat) :
    List (Instr × (Nat → Nat × Nat)) :=
  [(.vand d a b mk ty, fun k => (x k &&& y k, 0)),
   (.vor d a b mk ty, fun k => (x k ||| y k, 0)),
   (.vxor d a b mk ty, fun k => (x k ^^^ y k, 0)),
   (.vshl d a b mk ty, fun k => (x k * 2 ^ (y k % t.width) % 2 ^ t.width, 0)),
   (.vshr d a b mk ty, fun k => (x k / 2 ^ (y k % t.width), 0)),
   (.viota d mk ty, fun k => (((List.range k).filter (fun j => m.getLsbD j)).length, 0))]

/-- The operations that only float types take: each correctly rounded (R65, R140). -/
def floatTable (d a : BitVec 5) (mk ty : BitVec 3) (t : VTy) (x : Nat → Nat) : List (Instr × (Nat → Nat × Nat)) :=
  [(.vexp2 d a mk ty, fun k => exp2F t.fmt (t.fp (x k))),
   (.vlog2 d a mk ty, fun k => log2F t.fmt (t.fp (x k))),
   (.vrcp d a mk ty, fun k => rcpF t.fmt (t.fp (x k))),
   (.vrsq d a mk ty, fun k => rsqF t.fmt (t.fp (x k)))]

/-- The element-wise vector instructions complete in every state on the types that they take: each active element of vd
takes the value of its table, inactive ones keep theirs, the flags of active elements are ORed into FPST, and nothing
else changes (R132 to R140, R148, R151, R152). -/
def Obligations.VectorElements : Prop :=
  ∀ (s : State) (d a b : BitVec 5) (mk ty : BitVec 3) (t : VTy), VTy.ofCode ty.toNat = some t →
    let m := s.cur.rdM mk.toNat
    let x := t.elem (s.cur.rdV a.toNat); let y := t.elem (s.cur.rdV b.toNat); let z := t.elem (s.cur.rdV d.toNat)
    (∀ e ∈ elementTable d a b mk ty t x y z, Completes (exec e.1 s) (s.WritesV t d.toNat m e.2)) ∧
    ((t.isFloat = true ∨ t.isSigned = true) →
      ∀ e ∈ signedTable d a mk ty t x, Completes (exec e.1 s) (s.WritesV t d.toNat m e.2)) ∧
    (t.isFloat = false → ∀ e ∈ integerTable d a b mk ty t m x y, Completes (exec e.1 s) (s.WritesV t d.toNat m e.2)) ∧
    (t.isFloat = false → t.isSigned = true → Completes (exec (.vsra d a b mk ty) s)
      (s.WritesV t d.toNat m (fun k => (wrap t.width (sint t.width (x k) / 2 ^ (y k % t.width)), 0)))) ∧
    (t.isFloat = true → ∀ e ∈ floatTable d a mk ty t x, Completes (exec e.1 s) (s.WritesV t d.toNat m e.2)) ∧
    Completes (exec (.vbcast d a mk ty) s) (s.WritesV t d.toNat m (fun _ => ((s.cur.rd a.toNat).toNat, 0))) ∧
    Completes (exec (.vsel d a b mk ty) s) (s.WritesV t d.toNat (BitVec.allOnes 256)
      (fun k => (if m.getLsbD k then x k else y k, 0))) ∧
    Completes (exec (.vins d a b ty) s) (s.WritesV t d.toNat (BitVec.allOnes 256)
      (fun k => (if k = (s.cur.rd b.toNat).toNat % t.count then (s.cur.rd a.toNat).toNat else z k, 0))) ∧
    Completes (exec (.vext d a b ty) s) (s.WritesG d.toNat
      (BitVec.ofInt 64 (t.int (x ((s.cur.rd b.toNat).toNat % t.count)))) 4)

/-- A vector instruction on a type that it does not take is an illegal-instruction trap with no effect, and so is a
conversion between equal or reserved types (R38, R134, R139). -/
def VectorTypeTrapsHold : Prop :=
  ∀ (s : State) (d a b : BitVec 5) (mk ty sty : BitVec 3) (rz : BitVec 1),
    let traps (i : Instr) : Prop := exec i s =
      .next (s.takeTrap s s.slot ⟨1, 0, s.cur.pc, 0⟩ (ins i).words false s.cur.pc s.cur.replay)
    (ty = 7 → traps (.vadd d a b mk ty) ∧ traps (.vcmpEq 1 a b mk ty) ∧ traps (.vld d a mk ty) ∧ traps (.vst d a mk ty)) ∧
    (ty.toNat < 2 → traps (.vand d a b mk ty) ∧ traps (.vshl d a b mk ty) ∧ traps (.viota d mk ty)) ∧
    ((ty = 3 ∨ ty = 6) → traps (.vabs d a mk ty) ∧ traps (.vneg d a mk ty) ∧ traps (.vsra d a b mk ty)) ∧
    (2 ≤ ty.toNat → traps (.vexp2 d a mk ty) ∧ traps (.vrcp d a mk ty)) ∧
    ((ty = 1 ∨ 4 ≤ ty.toNat) → traps (.vgath d a b mk ty) ∧ traps (.vscat d a b mk ty) ∧ traps (.vredAdd d a mk ty) ∧
      traps (.vscan d a mk ty)) ∧
    ((sty = ty ∨ sty = 7 ∨ ty = 7) → traps (.vcvt d a rz sty mk ty))

/-- VCVT completes on two different types: active elements below both counts are converted, all others keep theirs
(R69, R139). -/
def VectorConversionHold : Prop :=
  ∀ (s : State) (d a : BitVec 5) (rz : BitVec 1) (sty mk ty : BitVec 3) (st dt : VTy), VTy.ofCode sty.toNat = some st →
    VTy.ofCode ty.toNat = some dt → sty ≠ ty →
    Completes (exec (.vcvt d a rz sty mk ty) s) (s.WritesV dt d.toNat (s.cur.rdM mk.toNat) (fun k =>
      if k < st.count then cvtElem st dt (rz = 1) (st.elem (s.cur.rdV a.toNat) k)
      else (dt.elem (s.cur.rdV d.toNat) k, 0)))

/-- An instruction that writes one mask register and retires: m(d) takes `v`, m0 nothing, all else stays but FPST. -/
structure WritesM (s : State) (d : Nat) (v : MWord) (flags : Nat) (t : State) : Prop where
  only : s.OnlyCur t
  system : s.cur.SameSystem t.cur
  gregs : ∀ r, t.cur.rd r = s.cur.rd r
  vregs : ∀ r, t.cur.rdV r = s.cur.rdV r
  eddies : ∀ r, t.cur.rdE r = s.cur.rdE r
  masks : ∀ r, t.cur.rdM r = if r = d ∧ d ≠ 0 then v else s.cur.rdM r
  fpst : t.cur.fpst = s.cur.fpst ||| BitVec.ofNat 64 (flags % 128)
  retired : s.cur.Retired t.cur 4

/-- The mask operations complete in every state on all 256 bits (R141). -/
def MaskOperationsHold : Prop :=
  ∀ (s : State) (d a b : BitVec 3), let x := s.cur.rdM a.toNat; let y := s.cur.rdM b.toNat
    Completes (exec (.mopAnd d a b) s) (WritesM s d.toNat (x &&& y) 0) ∧
    Completes (exec (.mopOr d a b) s) (WritesM s d.toNat (x ||| y) 0) ∧
    Completes (exec (.mopXor d a b) s) (WritesM s d.toNat (x ^^^ y) 0) ∧
    Completes (exec (.mopAndn d a b) s) (WritesM s d.toNat (x &&& ~~~y) 0) ∧
    Completes (exec (.mopNot d a) s) (WritesM s d.toNat (~~~x) 0)

/-- The comparisons complete on every type: bit k of the mask is the comparison of the elements where element k is
active, and 0 elsewhere; VCMP.LT and VCMP.LE with a NaN are false and raise NV (R136). -/
def VectorComparisonsHold : Prop :=
  ∀ (s : State) (d : BitVec 3) (a b : BitVec 5) (mk ty : BitVec 3) (t : VTy), VTy.ofCode ty.toNat = some t →
    let m := s.cur.rdM mk.toNat
    let x := t.elem (s.cur.rdV a.toNat); let y := t.elem (s.cur.rdV b.toNat)
    let nan (k : Nat) : Bool := t.isFloat && ((t.fp (x k)).isNaN || (t.fp (y k)).isNaN)
    let eq (k : Nat) : Bool := if t.isFloat then Fp.eq (t.fp (x k)) (t.fp (y k)) else x k == y k
    let lt (k : Nat) : Bool := !nan k && (if t.isFloat then Fp.lt (t.fp (x k)) (t.fp (y k)) else decide (t.int (x k) < t.int (y k)))
    let le (k : Nat) : Bool := !nan k && (if t.isFloat then !Fp.lt (t.fp (y k)) (t.fp (x k)) else decide (t.int (x k) ≤ t.int (y k)))
    let anyNan : Bool := (List.range t.count).any (fun k => m.getLsbD k && nan k)
    ∀ c ∈ [(Instr.vcmpEq d a b mk ty, eq, 0), (.vcmpNe d a b mk ty, fun k => !eq k, 0),
        (.vcmpLt d a b mk ty, lt, if anyNan then fNV else 0), (.vcmpLe d a b mk ty, le, if anyNan then fNV else 0)],
      ∃ v : MWord, Completes (exec c.1 s) (WritesM s d.toNat v c.2.2) ∧
        ∀ k, k < 256 → v.getLsbD k = (decide (k < t.count) && m.getLsbD k && c.2.1 k)

/-- The balanced tree of VRED over 2^n leaves: a pair with one active side passes it up. -/
def redTree (f : Nat → Nat → Nat × Nat) (leaf : Nat → Option (Nat × Nat)) : Nat → Nat → Option (Nat × Nat)
  | 0, k => leaf k
  | n + 1, k =>
    match redTree f leaf n (2 * k), redTree f leaf n (2 * k + 1) with
    | some p, some q => some ((f p.1 q.1).1, p.2 ||| q.2 ||| (f p.1 q.1).2)
    | some p, none => some p
    | none, q => q

/-- VRED completes: element 0 of vd takes the root of the balanced tree over the active elements, or the empty value;
the other elements of vd, and every other register, keep theirs (R149). -/
def VectorReductionsHold : Prop :=
  ∀ (s : State) (d a : BitVec 5) (mk ty : BitVec 3) (t : VTy), VTy.ofCode ty.toNat = some t →
    let m := s.cur.rdM mk.toNat
    let leaf (k : Nat) : Option (Nat × Nat) :=
      if k < t.count ∧ m.getLsbD k = true then some (t.elem (s.cur.rdV a.toNat) k, 0) else none
    let done (i : Instr) (f : Nat → Nat → Nat × Nat) (empty : Nat) : Prop := Completes (exec i s) (fun u =>
      let root := (redTree f leaf 8 0).getD (empty, 0)
      s.OnlyCur u ∧ s.cur.SameSystem u.cur ∧ s.cur.Retired u.cur 4 ∧ (∀ r, u.cur.rd r = s.cur.rd r) ∧
      (∀ r, u.cur.rdM r = s.cur.rdM r) ∧ (∀ r, u.cur.rdE r = s.cur.rdE r) ∧
      (∀ r, r ≠ d.toNat → u.cur.rdV r = s.cur.rdV r) ∧
      t.elem (u.cur.rdV d.toNat) 0 = root.1 % 2 ^ t.width ∧
      (∀ k, 0 < k → k < t.count → t.elem (u.cur.rdV d.toNat) k = t.elem (s.cur.rdV d.toNat) k) ∧
      u.cur.fpst = s.cur.fpst ||| BitVec.ofNat 64 (root.2 % 128))
    done (.vredMax d a mk ty) (elMax t) (emptyMax t) ∧ done (.vredMin d a mk ty) (elMin t) (emptyMin t) ∧
    (t.width = 32 → done (.vredAdd d a mk ty) (elAdd t) 0)

/-- VSCAN completes: each active element of vd takes the sum, in ascending order and rounded at each step, of the active
elements up to it; the others keep theirs (R150). -/
def VectorScanHold : Prop :=
  ∀ (s : State) (d a : BitVec 5) (mk ty : BitVec 3) (t : VTy), VTy.ofCode ty.toNat = some t → t.width = 32 →
    let m := s.cur.rdM mk.toNat
    let x := t.elem (s.cur.rdV a.toNat)
    let sum (k : Nat) : Nat × Nat :=
      match (List.range (k + 1)).filter (fun j => m.getLsbD j) with
      | [] => (0, 0)
      | j :: js => js.foldl (fun r i => ((elAdd t r.1 (x i)).1, (elAdd t r.1 (x i)).2)) (x j, 0)
    Completes (exec (.vscan d a mk ty) s) (s.WritesV t d.toNat m sum)

/-- The vector loads complete where every active element passes its checks in memory, and no page gains the checked
attribute by them: each active element takes the bytes at its address, inactive ones keep theirs (R142, R143). -/
def Obligations.VectorLoads : Prop :=
  ∀ (s : State) (d a b : BitVec 5) (mk ty : BitVec 3) (t : VTy), VTy.ofCode ty.toNat = some t →
    let m := s.cur.rdM mk.toNat
    let base := s.cur.rd a.toNat
    let done (i : Instr) (addr : Nat → Word) : Prop := ∀ (s1 : State) (z : Bool) (lss : List (List Loc)),
      let es := ((List.range t.count).filter (fun k => m.getLsbD k)).map (fun k => (addr k, t.width / 8))
      s.vcheck s.party .load (s.logOverlap s.slot s.party) es = ⟨s1, none, false, false, z, lss⟩ → s1.mem = s.mem → s1.memKey = s.memKey →
      (∀ ls ∈ lss, ls.length = t.width / 8 ∧ ∀ l ∈ ls, l.plain = true ∧ l.unshadowed s s1) → lss.length = es.length →
      (∀ e ∈ es, isReg e.1 = false ∧ s.mustFollow s.slot s.party e.1 = false) →
      Completes (exec i s) (fun u =>
        s.OnlyReads u ∧ s.cur.SameButAccess u.cur ∧ s.cur.Retired u.cur 4 ∧ (∀ r, u.cur.rd r = s.cur.rd r) ∧
        (∀ r, u.cur.rdM r = s.cur.rdM r) ∧ (∀ r, u.cur.rdE r = s.cur.rdE r) ∧ u.cur.fpst = s.cur.fpst ∧
        (∀ r, r ≠ d.toNat → u.cur.rdV r = s.cur.rdV r) ∧
        ∀ k, k < t.count → t.elem (u.cur.rdV d.toNat) k =
          if m.getLsbD k then ofBytes (((lss[((List.range k).filter (fun j => m.getLsbD j)).length]?).getD []).map s.readLoc)
          else t.elem (s.cur.rdV d.toNat) k)
    done (.vld d a mk ty) (fun k => base + BitVec.ofNat 64 (k * (t.width / 8))) ∧
    done (.vlds d a b mk ty) (fun k => base + BitVec.ofNat 64 k * s.cur.rd b.toNat) ∧
    (t.width = 32 → done (.vgath d a b mk ty)
      (fun k => base + BitVec.ofInt 64 (4 * sint 32 (t.elem (s.cur.rdV b.toNat) k))))

/-- The vector stores complete where every active element passes its checks in memory, no page gains the checked attribute
by them, and the side log is empty: the elements are stored in ascending index, so that of two at one byte the higher stays; no register changes
(R142 to R144). -/
def VectorStoresHold : Prop :=
  ∀ (s : State) (d a b : BitVec 5) (mk ty : BitVec 3) (t : VTy), s.MemWf → VTy.ofCode ty.toNat = some t →
    let m := s.cur.rdM mk.toNat
    let base := s.cur.rd a.toNat
    let active := (List.range t.count).filter (fun k => m.getLsbD k)
    let done (i : Instr) (addr : Nat → Word) : Prop := ∀ (s1 : State) (z : Bool) (lss : List (List Loc)) (key : Nat),
      s.vcheck s.party .store (fun _ _ => false) (active.map (fun k => (addr k, t.width / 8))) = ⟨s1, none, false, false, z, lss⟩ →
      s1.mem = s.mem → s1.memKey = s.memKey →
      (∀ ls ∈ lss, ls.length = t.width / 8) → lss.length = active.length → PlainLocs lss.flatten key →
      (∀ k ∈ active, bitsOf (addr k).toNat 63 60 < 4) → s.cur.side = [] → s.cur.entered = 0 →
      s.eccBad .store lss.flatten = false →
      Completes (exec i s) (fun u =>
        s.Stores lss.flatten (active.flatMap (fun k => bytesOf (t.width / 8) (t.elem (s.cur.rdV d.toNat) k))) u ∧
        s.cur.SameButAccess u.cur ∧ s.cur.SameVectors u.cur ∧ s.cur.Retired u.cur 4 ∧ ∀ r, u.cur.rd r = s.cur.rd r)
    done (.vst d a mk ty) (fun k => base + BitVec.ofNat 64 (k * (t.width / 8))) ∧
    done (.vsts d a b mk ty) (fun k => base + BitVec.ofNat 64 k * s.cur.rd b.toNat) ∧
    (t.width = 32 → done (.vscat d a b mk ty)
      (fun k => base + BitVec.ofInt 64 (4 * sint 32 (t.elem (s.cur.rdV b.toNat) k))))

/-- The targets of VQST, with the instruction that stores to each. -/
def quantTable (d a b : BitVec 5) (mk : BitVec 3) (ty : BitVec 1) (hr : Nat) : List (Instr × QTgt) :=
  [(.vqstI8 d a b mk ty, .i8), (.vqstN8 d a b mk ty, .n8), (.vqstI16 d a b mk ty, .i16), (.vqstBf d a b mk ty, .bf),
   (.vqstMxi8 d a b mk ty, .mxi8), (.vqstMxf4 d a b mk ty, .mxf4), (.vqstMxf8 d a b mk ty, .mxf8),
   (.vqstRi32 d a b mk ty, .ri32 hr)]

/-- VQST completes where its registers and descriptor are legal, strict mode meets no break, every byte that it writes
passes its checks in memory, no page gains the checked attribute by them, and the side log is empty: the codes, scale codes or flags of the run are stored, the eddy
register takes the run's residue, tag and next index, FPST the run's flags, none without an active element, and nothing else
changes (R133, R153 to R157). -/
def QuantisingStoresHold : Prop :=
  ∀ (s s1 : State) (d a b : BitVec 5) (mk : BitVec 3) (ty : BitVec 1) (z : Bool) (lss : List (List Loc)) (key : Nat),
    let src : VTy := if ty = 0 then .f32 else .bf
    let q : VqDesc := ⟨(s.cur.rd b.toNat).toNat, (s.cur.rd (b.toNat + 1)).toNat⟩
    let n := if q.count = 0 then src.count else q.count
    let m := s.cur.rdM mk.toNat
    let val (k : Nat) : F32 := BitVec.ofNat 32 (src.elem (s.cur.rdV a.toNat) k * (if ty = 0 then 1 else 65536))
    ∀ c ∈ quantTable d a b mk ty (q.const % 32),
      let xs := (List.range n).map (fun k => (!m.getLsbD k || (c.2.isRi && ri32Flag (val k) ≠ 0), val k))
      let r := quantize c.2 (runScale c.2 q.scale) (if c.2.isRi then 0 else q.const) (s.cur.rdE q.eddy) q.tag q.start xs
      let es := vqParts c.2 (s.cur.rd d.toNat) (s.cur.rd (d.toNat + 1)) r.1 r.2.1
        ((List.range n).map (fun k => if m.getLsbD k then ri32Flag (val k) else 0))
      s.MemWf → b.toNat % 2 = 0 → (c.2.isMx = true → d.toNat % 2 = 0) → q.bad c.2 n src.count = false →
      ((incoming (s.cur.rdE q.eddy) q.tag q.start).2 && s.cur.fpst.getLsbD 7) = false →
      s.vcheck s.party .store (fun _ _ => false) (es.map (fun e => (e.1, e.2.length))) = ⟨s1, none, false, false, z, lss⟩ →
      s1.mem = s.mem → s1.memKey = s.memKey →
      lss.map List.length = es.map (fun e => e.2.length) → PlainLocs lss.flatten key →
      (∀ e ∈ es, bitsOf e.1.toNat 63 60 < 4) → s.cur.side = [] → s.cur.entered = 0 →
      s.eccBad .store lss.flatten = false →
      Completes (exec c.1 s) (fun u =>
        s.Stores lss.flatten (es.flatMap (·.2)) u ∧ s.cur.SameButAccess u.cur ∧ s.cur.Retired u.cur 4 ∧
        (∀ k, u.cur.rd k = s.cur.rd k) ∧ (∀ k, u.cur.rdV k = s.cur.rdV k) ∧ (∀ k, u.cur.rdM k = s.cur.rdM k) ∧
        (∀ k, u.cur.rdE k = if k = q.eddy then r.2.2.1 else s.cur.rdE k) ∧
        u.cur.fpst = s.cur.fpst |||
          BitVec.ofNat 64 ((if (List.range n).any (fun k => m.getLsbD k) then r.2.2.2 else 0) % 128))

/-! ### Fences, seals, barriers, waits and the system -/

/-- The form is an illegal-instruction trap at PC with no other effect (R59). -/
def Illegal (s : State) (i : Instr) : Prop :=
  exec i s = .next (s.takeTrap s s.slot ⟨1, 0, s.cur.pc, 0⟩ (ins i).words false s.cur.pc s.cur.replay)

/-- The form is a permission trap with no other effect (R59; log 13). -/
def Denied (s : State) (i : Instr) : Prop :=
  exec i s = .next (s.takeTrap s s.slot ⟨2, 0, 0, 0⟩ (ins i).words false s.cur.pc s.cur.replay)

/-- The form waits: nothing of it has taken effect. -/
def Waits (s : State) (i : Instr) : Prop :=
  exec i s = .next (s.setCur { s.cur with held := true, frz := false, frzAt := 0 })

/-- A context after an instruction that writes g(d), and nothing else of it, retires. -/
structure Ends (c : Ctx) (d : Nat) (v : Word) (c' : Ctx) : Prop where
  system : c.SameSystem c'
  vectors : c.SameVectors c'
  regs : ∀ r, c'.rd r = if r = d ∧ d ≠ 0 then v else c.rd r
  retired : c.Retired c' 4

/-- The fences retire with no other effect once what they wait for has performed: FENCE.ACQ in every state; FENCE.REL and
FENCE.SC at .unit in every state, at .core to .pkg when no store of the unit stands in its side log and no bank fill of it
waits, at .job when no remote access of it and no send of its records is left either; LFENCE when no bank fill of the unit
to the layer is left for the stack named, or for any. An unassigned scope is illegal. CWAIT returns a counter that has
reached its value, or one that was cancelled with bit 63; WAITT goes on at its time; else each waits, and gives up its
context where it is asked to and a save may begin (R165, R166, R179, R180, R199, R200, R308). -/
def Obligations.FencesAndWaits : Prop :=
  ∀ (s : State) (sc : BitVec 3) (d a : BitVec 5) (layer : BitVec 4),
    let yields (i : Instr) : Prop := (s.cur.preq = false → Waits s i) ∧
      (s.cur.preq = true → s.saveHeld s.slot = true → Waits s i) ∧
      (s.cur.preq = true → s.saveHeld s.slot = false → exec i s = .next (s.startSave s.slot false))
    let left (named : Nat → Prop) : Prop :=
      (∃ e ∈ s.cur.side, bitsOf e.addr.toNat 63 60 = 4 ∧ named (bitsOf e.addr.toNat 59 57) ∧
        bitsOf e.addr.toNat 30 27 = layer.toNat) ∨
      ∃ l ∈ s.lanes, ∃ f ∈ l.2.fills, f.uid = s.cur.uid ∧ f.uid ≠ none ∧ f.bank / 4 = layer.toNat ∧ named (l.1 / 64)
    (sc.toNat < 6 → Completes (exec (.fenceAcq sc) s) (s.WritesG 0 0 4) ∧
      ∀ i ∈ [Instr.fenceRel sc, .fenceSc sc],
        (sc = 0 → Completes (exec i s) (s.WritesG 0 0 4)) ∧
        (0 < sc.toNat → sc.toNat < 5 → (s.localQuiet s.slot = true → Completes (exec i s) (s.WritesG 0 0 4)) ∧
          (s.localQuiet s.slot = false → Waits s i)) ∧
        (sc = 5 → (s.quiet s.slot = true → s.sendsLeft s.slot = false → Completes (exec i s) (s.WritesG 0 0 4)) ∧
          ((s.quiet s.slot = false ∨ s.sendsLeft s.slot = true) → Waits s i))) ∧
    (6 ≤ sc.toNat → Illegal s (.fenceAcq sc) ∧ Illegal s (.fenceRel sc) ∧ Illegal s (.fenceSc sc)) ∧
    (¬ left (fun st => st = (s.cur.rd a.toNat).toNat % 8) → Completes (exec (.lfence a 0 layer) s) (s.WritesG 0 0 4)) ∧
    (left (fun st => st = (s.cur.rd a.toNat).toNat % 8) → Waits s (.lfence a 0 layer)) ∧
    (¬ left (fun _ => True) → Completes (exec (.lfence 0 1 layer) s) (s.WritesG 0 0 4)) ∧
    (left (fun _ => True) → Waits s (.lfence 0 1 layer)) ∧
    (a ≠ 0 → Illegal s (.lfence a 1 layer)) ∧
    ((s.cur.rd a.toNat).toNat ≤ s.time.toNat → Completes (exec (.waitt a) s) (s.WritesG 0 0 4)) ∧
    (s.time.toNat < (s.cur.rd a.toNat).toNat → yields (.waitt a)) ∧
    (let n := (s.cur.rd a.toNat).toNat % 8192
     let c := s.counter n
     (s.ctrFits s.party n = false → Denied s (.cwait d a)) ∧
     (s.ctrFits s.party n = true → c.state = 3 →
       Completes (exec (.cwait d a) s) (s.WritesG d.toNat (BitVec.ofNat 64 (2 ^ 63 + c.value)) 4)) ∧
     (s.ctrFits s.party n = true → c.state ≠ 3 → (s.cur.rd d.toNat).toNat % 2 ^ 48 ≤ c.value →
       Completes (exec (.cwait d a) s) (s.WritesG d.toNat (BitVec.ofNat 64 c.value) 4)) ∧
     (s.ctrFits s.party n = true → c.state ≠ 3 → c.value < (s.cur.rd d.toNat).toNat % 2 ^ 48 → yields (.cwait d a)))

/-- SEAL and UNSEAL of an aligned range that passes its checks complete: afterwards a byte of the job is sealed exactly
if it was or lies in the range, or, after UNSEAL, if it was and does not. SEAL is a release at .job scope. A misaligned range fails check 9, and UNSEAL at
unit level is denied (R167 to R169, R397). -/
def Obligations.SealsAndUnseals : Prop :=
  ∀ (s : State) (d a : BitVec 5),
    let ea := s.cur.rd a.toNat; let n := (s.cur.rd d.toNat).toNat; let j := s.party.job
    let bad (i : Instr) : Prop := exec i s =
      .next (s.takeTrap s s.slot ⟨checkCause 9, 9, ea, 0⟩ (ins i).words false s.cur.pc s.cur.replay)
    let only (t : State) : Prop := t = { s with jobs := t.jobs, ctxs := t.ctxs } ∧ (∀ k, k ≠ s.slot → t.ctx k = s.ctx k) ∧
      (∀ k, k ≠ j → t.job k = s.job k) ∧ t.job j = { s.job j with seals := (t.job j).seals } ∧ Ends s.cur 0 0 t.cur
    ((ea.toNat % 128 ≠ 0 ∨ n % 128 ≠ 0 ∨ n = 0) → bad (.seal d a) ∧ (s.cur.level ≠ .unit → bad (.unseal d a))) ∧
    (s.cur.level = .unit → Denied s (.unseal d a)) ∧
    ∀ (e : BitVec 128) (ja : Nat), ea.toNat % 128 = 0 → n % 128 = 0 → n ≠ 0 → s.party.rangeCheck ea n = .ok (e, ja) →
      ((xW e = true ∨ xSeal e = true) → s.released s.slot scopeJob = true → (s.job j).seals.length < 64 → s.storesLeft j ja n = false →
        Completes (exec (.seal d a) s) (fun t => only t ∧
          ∀ x, t.sealedAny j x 1 = (s.sealedAny j x 1 || (decide (ja ≤ x) && decide (x < ja + n))))) ∧
      (s.cur.level ≠ .unit → (s.job j).seals.length < 32 →
        Completes (exec (.unseal d a) s) (fun t => only t ∧
          ∀ x, t.sealedAny j x 1 = (s.sealedAny j x 1 && !(decide (ja ≤ x) && decide (x < ja + n)))))

/-- CWB and CWB.INV of an aligned range that passes its checks complete above unit level: no sector of its present pages
stays dirty in a cache, no register changes and no byte but of the shadows of checked pages. At unit level they are denied (R197). RALIGN on a stack core
marks the lanes that its mask names, and on another core is illegal (R198). -/
def Obligations.WriteBacksAndAlignment : Prop :=
  ∀ (s : State) (d a : BitVec 5), let ea := s.cur.rd a.toNat; let n := (s.cur.rd d.toNat).toNat
    (s.cur.level = .unit → Denied s (.cwb d a) ∧ Denied s (.cwbInv d a)) ∧
    (∀ (e : BitVec 128) (ja : Nat), s.cur.level ≠ .unit → ea.toNat % 128 = 0 → n % 128 = 0 → n ≠ 0 →
      s.party.rangeCheck ea n = .ok (e, ja) → s.party.task = false →
      ∀ i ∈ [Instr.cwb d a, .cwbInv d a], Completes (exec i s) (fun t => s.OnlyReads t ∧ Ends s.cur 0 0 t.cur ∧
        ∀ l ∈ t.lines, ∀ r ∈ s.physical s.party (s.party.extent (bitsOf ea.toNat 59 56)).2 ja n,
          l.dirty &&& sectorsIn l.line r.1 r.2 = 0)) ∧
    (s.cur.level ≠ .unit → ea.toNat % 128 = 0 → n = 0 → Completes (exec (.cwb d a) s) (s.WritesG 0 0 4) ∧
      Completes (exec (.cwbInv d a) s) (s.WritesG 0 0 4)) ∧
    (classOf (coreOf s.slot) = .stack → Completes (exec (.ralign a) s) (fun t =>
      t = { s with lanes := t.lanes, ctxs := t.ctxs } ∧ (∀ k, k ≠ s.slot → t.ctx k = s.ctx k) ∧ Ends s.cur 0 0 t.cur ∧
      ∀ l, t.laneOf l = if l / 16 = coreOf s.slot ∧ (s.cur.rd a.toNat).getLsbD (l % 16) = true then
          { s.laneOf l with align := some (.pending (s.cclk (coreOf s.slot / 4)) ((s.cur.rd a.toNat).toNat % 65536)) }
        else s.laneOf l)) ∧
    (classOf (coreOf s.slot) ≠ .stack → Illegal s (.ralign a))

/-- The state that a barrier instruction finds where it performs at once: its checks passed, its record `r` in memory,
the side log empty, and, for a release, the earlier accesses that it waits for performed (R171). -/
structure BarrierReady (s s1 s2 : State) (ea : Word) (ready : State → Bool) (r key : Nat) (ls : List Loc) (ts : List Nat) : Prop where
  wf : s.MemWf
  window : bitsOf ea.toNat 63 60 < 4
  found : s.locate s.party .barrier 16 ea 16 = (s1, .ok ls ts)
  length : ls.length = 16
  plain : PlainLocs ls key
  side : s1.cur.side = []
  settled : ready s1 = true
  race : s1.race s.party .barrier false ea ts = .ok s2
  ecc : s1.eccBad .barrier ls = false
  value : r = ofBytes (ls.map s1.readLoc)

/-- A unit that has registered a record: it is on the watch list if there was room, and the others stay (R177, R313). -/
def Registers (c : Ctx) (ea : Word) (r : Nat) (c' : Ctx) : Prop :=
  ((c.watch.length < 4 ∨ ∃ w ∈ c.watch, w.addr = ea) → ∃ w ∈ c'.watch, w.addr = ea) ∧
  (∀ w, w.addr ≠ ea → (w ∈ c'.watch ↔ w ∈ c.watch)) ∧
  (c.guard = 0 → c'.guard = ea ∧ c'.epoch = BitVec.ofNat 6 r) ∧ (c.guard ≠ 0 → c'.guard = c.guard ∧ c'.epoch = c.epoch)

/-- A context after a barrier instruction that writes g(d) retires; the watch list, GUARD and EPOCH apart. -/
def BarrierEnds (c : Ctx) (d : Nat) (v : Word) (c' : Ctx) : Prop :=
  c.SameButAccess { c' with watch := c.watch, guard := c.guard, epoch := c.epoch } ∧ c.SameVectors c' ∧
  c.Retired c' 4 ∧ ∀ r, c'.rd r = if r = d ∧ d ≠ 0 then v else c.rd r

/-- The barrier instructions, where they perform at once. BARINIT leaves a record of the job's tag with EXPECTED
g(d)[15:0], nothing arrived or pending, the generation kept if the tag was the job's. BARARRIVE counts an arrival and
completes the generation if it is the last and nothing is pending; g(d) takes the generation, with bit 62 where all have
arrived and bit 63 where the barrier has failed. BARPEND adds g(d)[47:0] to PEND. BARWAIT returns the generation once it
has moved on, or bit 63, and drops the record from the watch list; else the unit stays. Either way it raises INHERIT to the
unit's effective priority (R172 to R177). -/
def Obligations.Barriers : Prop :=
  ∀ (s s1 s2 : State) (d a : BitVec 5) (sc : BitVec 3) (trapf : BitVec 1) (r key : Nat) (ls : List Loc) (ts : List Nat),
    let ea := s.cur.rd a.toNat
    let mine := bitsOf r 127 112 = s.jobTag s.party.job
    let gen := bitsOf r 15 0; let count := bitsOf r 31 16; let arrived := bitsOf r 47 32; let pend := bitsOf r 111 64
    let word (ovf unf failed inherit arr cnt g : Nat) : Nat :=
      2 ^ 58 * unf + 2 ^ 57 * ovf + 2 ^ 56 * failed + 2 ^ 48 * inherit + 2 ^ 32 * arr + 2 ^ 16 * cnt + g
    let prio := (s2.noteSpad s.slot ea).effPrio s.slot
    let raised (t : State) : Prop :=
      (bitsOf r 55 48 < prio → s.Stores ls (bytesOf 8 (word (bitsOf r 57 57) (bitsOf r 58 58) (bitsOf r 56 56) (prio % 256)
        arrived count gen) ++ bytesOf 8 (bitsOf r 127 64)) t) ∧ (prio ≤ bitsOf r 55 48 → s.OnlyReads t)
    sc.toNat < 6 →
    (BarrierReady s s1 s2 ea (fun x => x.released s.slot sc.toNat) r key ls ts → Completes (exec (.barinit d a sc) s) (fun t =>
      let c := (s.cur.rd d.toNat).toNat % 65536
      s.Stores ls (bytesOf 8 (word 0 0 (if c = 0 then 1 else 0) 0 0 c (if mine then gen else 0)) ++
        bytesOf 8 (2 ^ 48 * s.jobTag s.party.job)) t ∧ BarrierEnds s.cur 0 0 t.cur ∧ Registers s.cur ea r t.cur)) ∧
    (BarrierReady s s1 s2 ea (fun x => x.quiet s.slot && x.released s.slot sc.toNat) r key ls ts → mine → bitOf r 56 = true → trapf = 0 →
      Completes (exec (.bararrive d a trapf sc) s) (fun t => s.OnlyReads t ∧
        BarrierEnds s.cur d.toNat (BitVec.ofNat 64 (2 ^ 63 + gen)) t.cur ∧ Registers s.cur ea r t.cur)) ∧
    (BarrierReady s s1 s2 ea (fun x => x.quiet s.slot && x.released s.slot sc.toNat) r key ls ts → mine → bitOf r 56 = false → arrived = count →
      Completes (exec (.bararrive d a trapf sc) s) (fun t => s.OnlyReads t ∧
        BarrierEnds s.cur d.toNat (BitVec.ofNat 64 (2 ^ 62 + gen)) t.cur ∧ Registers s.cur ea r t.cur)) ∧
    (BarrierReady s s1 s2 ea (fun x => x.quiet s.slot && x.released s.slot sc.toNat) r key ls ts → mine → bitOf r 56 = false → arrived ≠ count →
      Completes (exec (.bararrive d a trapf sc) s) (fun t =>
        s.Stores ls (bytesOf 8
          (if (arrived + 1) % 65536 = count ∧ pend = 0 ∧ bitOf r 57 = false then
            word 0 (bitsOf r 58 58) 0 0 0 count ((gen + 1) % 65536)
          else word (bitsOf r 57 57) (bitsOf r 58 58) 0 (bitsOf r 55 48) ((arrived + 1) % 65536) count gen) ++
          bytesOf 8 (bitsOf r 127 64)) t ∧
        BarrierEnds s.cur d.toNat (BitVec.ofNat 64 gen) t.cur ∧ Registers s.cur ea r t.cur)) ∧
    (BarrierReady s s1 s2 ea (fun _ => true) r key ls ts → mine → Completes (exec (.barpend d a) s) (fun t =>
      let sum := pend + (s.cur.rd d.toNat).toNat % 2 ^ 48
      s.Stores ls (bytesOf 8 (word (if 2 ^ 48 ≤ sum then 1 else bitsOf r 57 57) (bitsOf r 58 58) (bitsOf r 56 56)
          (bitsOf r 55 48) arrived count gen) ++
        bytesOf 8 (min sum (2 ^ 48 - 1) + 2 ^ 48 * bitsOf r 127 112)) t ∧
      BarrierEnds s.cur 0 0 t.cur ∧ t.cur.watch = s.cur.watch)) ∧
    (BarrierReady s s1 s2 ea (fun _ => true) r key ls ts → mine → (bitOf r 56 = true ∧ trapf = 0 ∨
        bitOf r 56 = false ∧ gen ≠ (s.cur.rd d.toNat).toNat % 65536) →
      Completes (exec (.barwait d a trapf sc) s) (fun t => raised t ∧
        BarrierEnds s.cur d.toNat (BitVec.ofNat 64 (2 ^ 63 * bitsOf r 56 56 + gen)) t.cur ∧
        t.cur.watch = s.cur.watch.filter (fun w => w.addr ≠ ea))) ∧
    (BarrierReady s s1 s2 ea (fun _ => true) r key ls ts → mine → bitOf r 56 = false →
      gen = (s.cur.rd d.toNat).toNat % 65536 → s.cur.preq = false →
      Completes (exec (.barwait d a trapf sc) s) (fun t => raised t ∧ t.cur.pc = s.cur.pc ∧ ∀ k, t.cur.rd k = s.cur.rd k))

/-- PUSH, PUSHF, VSEND and LPUSH complete where their queue exists on the core and has room: what they send stands last
in that queue, of every lane that the mask names for an LPUSH where no column of them is scrubbed, and nothing else changes. PUSH without an even register
or without its queue, and the others on another class of core, are illegal; a PUSH to a full queue waits. An empty mask
sends nothing (R55, R183 to R187). -/
def QueuePushesHold : Prop :=
  ∀ (s : State) (d a : BitVec 5) (q : BitVec 3) (k : BitVec 6) (b : BitVec 2),
    let core := coreOf s.slot; let n := 8 * core + q.toNat
    let mask := (s.cur.rd a.toNat).toNat % 65536
    let named (l : Nat) : Prop := l / 16 = core ∧ (s.cur.rd a.toNat).getLsbD (l % 16) = true
    (queueOn (classOf core) q.toNat = true → d.toNat % 2 = 0 → (s.engq n).used < 32 →
      Completes (exec (.push d q) s) (fun t => t = { s with engqs := t.engqs, seq := s.seq + 1, ctxs := t.ctxs } ∧
        (∀ j, j ≠ s.slot → t.ctx j = s.ctx j) ∧ Ends s.cur 0 0 t.cur ∧ (∀ j, j ≠ n → t.engq j = s.engq j) ∧
        ∃ r : Rec, t.engq n = { s.engq n with recs := (s.engq n).recs ++ [r] } ∧
          r.bits = s.cur.rd (d.toNat + 1) ++ s.cur.rd d.toNat ∧ r.slot = s.slot ∧ r.uid = s.cur.uid ∧ r.seq = s.seq ∧
          r.chained = false ∧ r.gctr = none)) ∧
    ((queueOn (classOf core) q.toNat = false ∨ d.toNat % 2 = 1) → Illegal s (.push d q)) ∧
    (queueOn (classOf core) q.toNat = true → d.toNat % 2 = 0 → 32 ≤ (s.engq n).used → Waits s (.push d q)) ∧
    (classOf core = .tile → (s.core core).fmtq.length < 16 → Completes (exec (.pushf d) s) (fun t =>
      t = { s with cores := t.cores, ctxs := t.ctxs } ∧ (∀ j, j ≠ s.slot → t.ctx j = s.ctx j) ∧ Ends s.cur 0 0 t.cur ∧
      (∀ j, j ≠ core → t.core j = s.core j) ∧
      t.core core = { s.core core with fmtq := (s.core core).fmtq ++ [(s.cur.uid.getD 0, s.cur.rd d.toNat)] })) ∧
    (classOf core ≠ .tile → Illegal s (.pushf d)) ∧
    (classOf core = .stack → mask ≠ 0 → s.islandWait mask = false → (s.quadOf core).vfifo.length < 16 →
      Completes (exec (.vsend d a k b) s) (fun t => t = { s with quads := t.quads, ctxs := t.ctxs } ∧
        (∀ j, j ≠ s.slot → t.ctx j = s.ctx j) ∧ Ends s.cur 0 0 t.cur ∧ (∀ j, j ≠ core → t.quadOf j = s.quadOf j) ∧
        t.quadOf core = { s.quadOf core with vfifo := (s.quadOf core).vfifo ++
          [⟨BitVec.ofNat 16 mask, b.toNat, k.toNat, s.cur.rdV d.toNat, s.cclk (core / 4), s.cur.uid⟩] })) ∧
    (classOf core = .stack → mask ≠ 0 → s.islandWait mask = false → 16 ≤ (s.quadOf core).vfifo.length →
      Waits s (.vsend d a k b)) ∧
    (classOf core = .stack → mask = 0 → Completes (exec (.vsend d a k b) s) (s.WritesG 0 0 4) ∧
      Completes (exec (.lpush d a) s) (s.WritesG 0 0 4) ∧ Completes (exec (.lpushImg d a) s) (s.WritesG 0 0 4)) ∧
    (classOf core ≠ .stack → Illegal s (.vsend d a k b) ∧ Illegal s (.lpush d a) ∧ Illegal s (.lpushImg d a)) ∧
    (∀ (i : Instr) (s1 : State) (ws : List (BitVec 48 × Bool)), classOf core = .stack → mask ≠ 0 → s.cur.pushing = [] →
      s.islandWait mask = false → s.quiet s.slot = true →
      (i = .lpush d a ∧ s1 = s ∧ ws = [((s.cur.rd d.toNat).setWidth 48, false)] ∨
       i = .lpushImg d a ∧ bitsOf (s.cur.rd d.toNat).toNat 63 60 = 0 ∧
         s.readImage (s.cur.rd d.toNat &&& ~~~(7 : Word)) 65536 = .got s1 ws) →
      (∀ l, named l → (s1.laneOf l).scrubbing = false ∧ 1 ≤ ws.length ∧ ws.length + (s1.laneOf l).used ≤ 64) →
      Completes (exec i s) (fun t => s.SameData t ∧ Ends s.cur 0 0 { t.cur with spadUsed := s.cur.spadUsed } ∧
        (∀ l, ¬ named l → t.laneOf l = s.laneOf l) ∧
        ∀ l, named l → ∃ xs : List LWord, t.laneOf l = { s.laneOf l with words := (s.laneOf l).words ++ xs } ∧
          xs.map (fun x => (x.bits, x.bad)) = ws ∧ ∀ x ∈ xs, x.uid = s.cur.uid ∧ x.strict = (s.unitOf s.slot).strict))

/-- QSTAT reports a queue that exists on the core: FREE, USED, whether a fault holds it and its code, and the entries
popped since the context was created; for the lane queues USED is the greatest of the 16 lanes. A queue that does not
exist there is illegal (R188). -/
def QueueStatusHold : Prop :=
  ∀ (s : State) (d : BitVec 5) (q : BitVec 3), let core := coreOf s.slot; let e := s.engq (8 * core + q.toNat)
    (qstatOn (classOf core) q.toNat = false → Illegal s (.qstat d q)) ∧
    (qstatOn (classOf core) q.toNat = true → q.toNat < 5 → Completes (exec (.qstat d q) s) (s.WritesG d.toNat
      (BitVec.ofNat 64 (2 ^ 32 * ((e.popped + 2 ^ 32 - SMap.get s.cur.popBase 0 q.toNat % 2 ^ 32) % 2 ^ 32) +
        2 ^ 24 * ((e.fault.map (·.1)).headD 0 % 256) + (if e.fault = [] then 0 else 2 ^ 16) + 2 ^ 8 * e.used +
        (32 - e.used))) 4)) ∧
    (∀ x ∈ [(5, (s.core core).fmtPopped, (s.core core).fmtq.length), (7, (s.quadOf core).popped, (s.quadOf core).vfifo.length)],
      q.toNat = x.1 → qstatOn (classOf core) q.toNat = true → Completes (exec (.qstat d q) s) (s.WritesG d.toNat
        (BitVec.ofNat 64 (2 ^ 32 * ((x.2.1 + 2 ^ 32 - SMap.get s.cur.popBase 0 x.1 % 2 ^ 32) % 2 ^ 32) +
          2 ^ 8 * x.2.2 + (16 - x.2.2))) 4)) ∧
    (q = 6 → classOf core = .stack → (∀ i, i < 16 → (s.laneOf (16 * core + i)).fault = none) →
      let popped := ((List.range 16).map (fun i => (s.laneOf (16 * core + i)).popped)).sum
      ∃ used : Nat, Completes (exec (.qstat d q) s) (s.WritesG d.toNat (BitVec.ofNat 64
          (2 ^ 32 * ((popped + 2 ^ 32 - SMap.get s.cur.popBase 0 6 % 2 ^ 32) % 2 ^ 32) + 2 ^ 8 * used + (64 - used))) 4) ∧
        (∀ i, i < 16 → (s.laneOf (16 * core + i)).used ≤ used) ∧
        (0 < used → ∃ i, i < 16 ∧ (s.laneOf (16 * core + i)).used = used))

/-- LAUNCH of a packet that can be read, to a queue of the job: where the queue is enabled and has room and the packet
passes its checks, its counter becomes ACTIVE at value 0 with the target NUNIT + 1, the launch stands in the queue, and
g(d) takes the counter's number; a full queue gives bit 63, a refused packet its reason. A misaligned address traps, and
so does a queue of another job. CANCEL of a counter that is not the job's is denied, of one that is not ACTIVE or of
another kind it answers 1; else it answers 0 and cancels (R189, R190, R280, R285, R293). -/
def Obligations.LaunchesAndCancels : Prop :=
  ∀ (s : State) (d a : BitVec 5) (q : BitVec 6), let ea := s.cur.rd a.toNat; let p := s.party
    (ea.toNat % 128 ≠ 0 → exec (.launch d a q) s =
      .next (s.takeTrap s s.slot ⟨checkCause 9, 9, ea, 0⟩ (ins (.launch d a q)).words false s.cur.pc s.cur.replay)) ∧
    (∀ (s1 : State) (bs : List Byte), ea.toNat % 128 = 0 → s.readPacket ea 8 = .got s1 bs → p.task = false →
      (s.queueOfJob p.job q.toNat = false → Denied s (.launch d a q)) ∧
      (s.queueOfJob p.job q.toNat = true → s.released s.slot scopeJob = true →
        let r := s1.submit q.toNat p.job (ofBytes bs) true none none
        Completes (exec (.launch d a q) s) (fun t => s.SameData t ∧ t.launches = r.1.launches ∧ t.counters = r.1.counters ∧
          Ends s.cur d.toNat (match r.2 with
            | .full => BitVec.ofNat 64 (2 ^ 63)
            | .refused x => BitVec.ofNat 64 (2 ^ 62 + x)
            | .accepted n => BitVec.ofNat 64 n) { t.cur with spadUsed := s.cur.spadUsed }))) ∧
    (∀ (j w : Nat) (unit : Bool),
      let l : Launch := { queue := q.toNat, job := j, packet := w, seq := s.seq, translated := false, bound := [],
                          overdue := false, cancelling := (s.job j).cancelling, node := none, graph := none }
      let n := bitsOf w 940 928
      ((bitOf (s.sqcfg q.toNat) 63 = false ∨ 64 ≤ s.used q.toNat) → s.submit q.toNat j w unit none none = (s, .full)) ∧
      (bitOf (s.sqcfg q.toNat) 63 = true → s.used q.toNat < 64 → s.packetReason l unit ≠ 0 →
        s.submit q.toNat j w unit none none = (s, .refused (s.packetReason l unit))) ∧
      (bitOf (s.sqcfg q.toNat) 63 = true → s.used q.toNat < 64 → s.packetReason l unit = 0 →
        ∃ t, s.submit q.toNat j w unit none none = (t, .accepted n) ∧ SMap.find t.launches n = some l ∧
          (t.counter n).value = 0 ∧ (t.counter n).state = 1 ∧ (∀ m, m ≠ n → t.counter m = s.counter m) ∧
          (l.cls ≠ 2 → (t.counter n).target = l.nunit + 1 ∧ (t.counter n).kind = 2) ∧
          s.SameBytes t ∧ t.ctxs = s.ctxs)) ∧
    (let n := ea.toNat % 8192
     let c := s.counter n
     let done := s.setCur ((s.cur.wr d.toNat 0).fall 4)
     ∀ x ∈ [(Instr.cancelLaunch d a, 2, done.cancelLaunchN n), (.cancelGraph d a, 3, done.cancelGraphN n),
         (.cancelPhase d a, 4, done.phaseDown n)],
       (s.ctrFits p n = false → Denied s x.1) ∧
       (s.ctrFits p n = true → (c.kind ≠ x.2.1 ∨ c.state ≠ 1) → Completes (exec x.1 s) (s.WritesG d.toNat 1 4)) ∧
       (s.ctrFits p n = true → c.kind = x.2.1 → c.state = 1 → exec x.1 s = .next x.2.2)) ∧
    (let act := (s.counter (s.jobCtr p.job)).state = 1
     (p.task = false → act → exec (.cancelJob d a) s = .next ((s.setCur ((s.cur.wr d.toNat 0).fall 4)).cancelJobN p.job)) ∧
     (¬ act → Completes (exec (.cancelJob d a) s) (s.WritesG d.toNat 1 4)))

/-- System registers that every class of core has, with their values (R32, R33). -/
def registerTable (s : State) : List (BitVec 11 × Word) :=
  [(0x000, (s.core (coreOf s.slot)).cyc), (0x001, s.time), (0x010, BitVec.ofNat 64 (s.unitOf s.slot).index),
   (0x013, BitVec.ofNat 64 (coreOf s.slot)), (0x020, s.cur.fpst), (0x021, s.pwrs.setWidth 64),
   (0x022, if s.cur.preq then 1 else 0)]

/-- RDSR completes at a level that may read the register: g(d) takes its value; a register of another class of core
reads all ones. WRSR completes likewise: flags of FPST are cleared by ones and its strict bit is replaced, TFRAME takes
a multiple of 512, PDL 32 bits, LSEED a nonzero seed, and a read-only register ignores it. An unassigned number is
illegal, and one above the level is denied (R32 to R34, R192). -/
def Obligations.SystemRegisters : Prop :=
  ∀ (s : State) (d a : BitVec 5) (n : BitVec 11), let v := s.cur.rd a.toNat; let c := s.cur
    (srRead n.toNat = none → Illegal s (.rdsr d n) ∧ Illegal s (.wrsr a n)) ∧
    (∀ l, srRead n.toNat = some l → c.level.rank < l.rank → Denied s (.rdsr d n)) ∧
    (∀ l, srRead n.toNat ≠ none → srWrite n.toNat = some l → c.level.rank < l.rank → Denied s (.wrsr a n)) ∧
    (srRead n.toNat ≠ none → srWrite n.toNat = none → Completes (exec (.wrsr a n) s) (s.WritesG 0 0 4)) ∧
    (∀ x ∈ registerTable s, Completes (exec (.rdsr d x.1) s) (s.WritesG d.toNat x.2 4)) ∧
    (c.level ≠ .unit → Completes (exec (.rdsr d 0x030) s) (s.WritesG d.toNat c.tframe 4)) ∧
    (c.level = .management → Completes (exec (.rdsr d 0x040) s) (s.WritesG d.toNat s.lseed 4) ∧
      Completes (exec (.rdsr d 0x041) s) (s.WritesG d.toNat (s.lfloor.setWidth 64) 4)) ∧
    (classOf (coreOf s.slot) = .tile → Completes (exec (.rdsr d 0x014) s) (s.WritesG d.toNat (BitVec.allOnes 64) 4) ∧
      Completes (exec (.rdsr d 0x016) s) (s.WritesG d.toNat (BitVec.ofNat 64 ((coreOf s.slot - 32) / 8)) 4)) ∧
    (classOf (coreOf s.slot) = .stack → Completes (exec (.rdsr d 0x016) s) (s.WritesG d.toNat (BitVec.allOnes 64) 4) ∧
      Completes (exec (.rdsr d 0x014) s) (s.WritesG d.toNat (BitVec.ofNat 64 (coreOf s.slot / 4)) 4) ∧
      Completes (exec (.rdsr d 0x015) s) (s.WritesG d.toNat (BitVec.ofNat 64 (coreOf s.slot % 4)) 4)) ∧
    Completes (exec (.wrsr a 0x020) s) (fun t => s.OnlyCur t ∧
      Ends c 0 0 { t.cur with fpst := c.fpst } ∧ t.cur.fpst = (c.fpst &&& 0x7F &&& ~~~v) ||| (v &&& 0x80)) ∧
    (c.level ≠ .unit → Completes (exec (.wrsr a 0x030) s) (fun t => s.OnlyCur t ∧
      Ends c 0 0 { t.cur with tframe := c.tframe } ∧ t.cur.tframe = v &&& ~~~(0x1FF : Word))) ∧
    (c.level = .management → classOf (coreOf s.slot) ≠ .head → Completes (exec (.wrsr a 0x023) s) (fun t => s.OnlyCur t ∧
      Ends c 0 0 { t.cur with pdl := c.pdl } ∧ t.cur.pdl = v.setWidth 32)) ∧
    (c.level = .management → Completes (exec (.wrsr a 0x040) s) (fun t => Ends c 0 0 t.cur ∧
      t = { s with lseed := if v = 0 then s.lseed else v, ctxs := t.ctxs }) ∧
      Completes (exec (.wrsr a 0x001) s) (fun t => Ends c 0 0 t.cur ∧
        t = { s with time := v, timeFrac := 0, ctxs := t.ctxs }))

/-- Taking a trap at unit level where the job has a handler and the frame can be written: the frame is stored at TFRAME,
with PC, STATUS, ADDR, the trapping words, EXTRA, g1 to g8 and the replay entries at their offsets; the level becomes
supervisor and PC HENTRY of extent 14, the handler's loop entries are inactive, and every register, the unit's loop
entries and FPST stay. A trap of a service task, which writes its frame in the firmware's own data, or at another level, for
an uncorrectable error, without a handler, or whose frame fails a check is fatal. A frame whose store is held leaves the
state of before the instruction: the trap is taken at a later turn (R281, R369 to R371, R375, R376). -/
def TakingATrapHold : Prop :=
  ∀ (back s : State) (slot : Nat) (x : TrapInfo) (words : Nat) (async : Bool) (pc : Word) (rs : List Replay),
    let c := s.ctx slot
    let j := (s.unitOf slot).job
    let p := s.partyAt slot .supervisor
    let status := frameStatus x.info x.cause rs.length async c.level
    let frame := frameBytes c pc status x.addr words x.extra rs
    let taken := back.takeTrap s slot x words async pc rs
    (rs.length ≤ 16 → frame.length = 512 ∧ frame.take 8 = bytesOf 8 pc.toNat ∧ (frame.drop 8).take 8 = bytesOf 8 status.toNat ∧
      (frame.drop 16).take 8 = bytesOf 8 x.addr.toNat ∧ (frame.drop 24).take 8 = bytesOf 8 words ∧
      (frame.drop 32).take 16 = bytesOf 16 x.extra.toNat ∧ (frame.drop 48).take 16 = bytesOf 16 0 ∧
      (∀ k, k < 8 → (frame.drop (0x40 + 8 * k)).take 8 = bytesOf 8 (c.rd (k + 1)).toNat) ∧
      ∀ k r, rs[k]? = some r → (frame.drop (0x80 + 24 * k)).take 24 =
        bytesOf 8 r.pc.toNat ++ bytesOf 4 r.word.toNat ++ bytesOf 4 0 ++ bytesOf 8 r.ea.toNat) ∧
    (x.info < 65536 → x.cause < 256 → rs.length < 32 →
      bitsOf status.toNat 63 48 = x.info ∧ bitsOf status.toNat 47 40 = x.cause ∧ bitsOf status.toNat 23 22 = 0 ∧
      bitsOf status.toNat 20 20 = (if async then 1 else 0) ∧
      bitsOf status.toNat 19 18 = (if c.level = .supervisor then 1 else 0) ∧ bitsOf status.toNat 4 0 = rs.length) ∧
    (isTask slot = true → ∃ t : State, taken = t.fatal slot x.cause x.addr pc status ∧
      t = { s with fwMem := t.fwMem } ∧ ∀ i : Nat, i < 512 → rs.length ≤ 16 → s.MemWf →
        Memory.read t.fwMem (Config.taskFrame + i) = frame.getD i 0) ∧
    (isTask slot = false → (c.level ≠ .unit ∨ x.cause = 8 ∨ xSize (s.trapExtent j 0) = 0) →
      taken = s.fatal slot x.cause x.addr pc status) ∧
    (isTask slot = false → c.level = .unit → x.cause ≠ 8 → xSize (s.trapExtent j 0) ≠ 0 →
      (∀ (s1 : State) (f : AccFault), s.writeFrame slot c.tframe frame = .fault s1 f →
        taken = s1.fatal slot x.cause x.addr pc status) ∧
      (∀ (s1 : State) (z : Bool), s.writeFrame slot c.tframe frame = .wait s1 z →
        taken = (back.keepPages s1).setCtx slot { back.ctx slot with frz := z })) ∧
    (∀ (s1 s2 : State) (ls : List Loc) (ts : List Nat) (key : Nat), isTask slot = false → c.level = .unit → x.cause ≠ 8 →
      xSize (s.trapExtent j 0) ≠ 0 → s.MemWf → rs.length ≤ 16 → slot = s.slot → s.locate p .store 1 c.tframe 512 = (s1, .ok ls ts) →
      ls.length = 512 → PlainLocs ls key → c.side = [] → s1.race p .store false c.tframe ts = .ok s2 →
      s1.eccBad .store ls = false →
      { s with units := taken.units }.Stores ls frame taken ∧ (taken.ctx slot).level = .supervisor ∧
      (taken.ctx slot).pc =
        (0x0E00000000000000 + BitVec.ofNat 64 (s.raw (0x700000 + 0x40 * j + 32)).toNat) &&& ~~~(3 : Word) ∧
      (taken.ctx slot).sloops = [] ∧ (taken.ctx slot).loops = c.loops ∧ (∀ r, (taken.ctx slot).rd r = c.rd r) ∧
      c.SameVectors (taken.ctx slot) ∧ (taken.ctx slot).tframe = c.tframe)

/-- Returning from a trap: RTRAP of a frame without replay entries, and REINJ of any frame, whose disposition is 00 or 01,
complete: they restore PC, g1 to g8 and the level from the frame at TFRAME and leave the supervisor's loop entries inactive;
REINJ leaves the frame's replay entries to be issued again. The read-only fields of STATUS are those written at the trap,
whatever the frame holds there now. After a record fault the record's hold is released as well, and a disposition of 01
drops the record. A disposition of 10 is fatal, 11 is illegal, and so is RTRAP of a frame with replay entries. At unit level
both are denied (R194, R371, R372). -/
def TrapReturnsHold : Prop :=
  ∀ (s s1 s2 : State) (ls : List Loc) (ts : List Nat),
    let c := s.cur
    let bs := ls.map s1.readLoc
    let held := ofBytes ((bs.drop 8).take 8)
    let kept := match c.uid with
      | some u => (s.unitAt u).tstat.filter (fun (f : Word × Word × List Replay) => f.1 == c.tframe)
      | none => none
    let status := match kept with
      | some f => f.2.1.toNat
      | none => held
    let disp := bitsOf held 23 22
    let back (t : State) : Prop :=
      s.OnlyReads t ∧
      t.cur.pc = BitVec.ofNat 64 (ofBytes (bs.take 8)) &&& ~~~(3 : Word) ∧
      (∀ k, t.cur.rd k = if 1 ≤ k ∧ k ≤ 8 then BitVec.ofNat 64 (ofBytes ((bs.drop (0x38 + 8 * k)).take 8)) else c.rd k) ∧
      t.cur.level = (if isTask s.slot then .management else if bitsOf status 19 18 = 1 then .supervisor else .unit) ∧
      t.cur.sloops = [] ∧ t.cur.loops = c.loops ∧ c.SameVectors t.cur
    let ends (t : State) : State :=
      if bitsOf status 47 40 = 0x0E then t.releaseHold (bitsOf status 58 56) c.uid (disp = 1) else t
    let traps (i : Instr) : Prop := ∃ t : State, s.OnlyReads t ∧ t.cur = c ∧
      exec i s = .next (t.takeTrap t t.slot ⟨1, 0, c.pc, 0⟩ (ins i).words false c.pc c.replay)
    (c.level = .unit → Denied s .rtrap ∧ Denied s .reinj) ∧
    (c.level ≠ .unit → s.locate s.party .load 1 c.tframe 512 = (s1, .ok ls ts) → ls.length = 512 →
      s1.logOverlap s.slot s.party c.tframe 512 = false → s1.race s.party .load false c.tframe ts = .ok s2 →
      s1.eccBad .load ls = false →
      (disp < 2 → bitsOf status 4 0 = 0 → Completes (exec .rtrap s) (fun t => ∃ u, back u ∧ u.cur.replay = [] ∧ t = ends u)) ∧
      (disp < 2 → Completes (exec .reinj s) (fun t =>
        ∃ u, back u ∧ u.cur.replay.length = min (bitsOf status 4 0) 16 ∧ t = ends u)) ∧
      (bitsOf status 4 0 ≠ 0 → traps .rtrap) ∧ (disp = 3 → traps .rtrap ∧ traps .reinj) ∧
      (disp = 2 → ∀ i ∈ [Instr.rtrap, .reinj], (i = .reinj ∨ bitsOf status 4 0 = 0) →
        ∃ t : State, s.OnlyReads t ∧ t.cur = c ∧ exec i s = .next (t.fatal s.slot (bitsOf status 47 40)
          (BitVec.ofNat 64 (ofBytes ((bs.drop 16).take 8))) (BitVec.ofNat 64 (ofBytes (bs.take 8)) &&& ~~~(3 : Word))
          (BitVec.ofNat 64 status))))

/-- TRAP retires at unit level and then takes a software trap with its code; at supervisor level code 1 saves the unit, once what must
finish first has finished, and a code without a service answers all ones in g1. YIELD goes on, or, with a request pending, retires into a save, which waits
for what must finish first. HALT of
a unit whose stores have performed ends it and frees its context, in which the registers stand as they ended (R193, R195, R196, R374). -/
def Obligations.TrapYieldHalt : Prop :=
  ∀ (s : State) (code : BitVec 11),
    (s.cur.level = .unit → exec (.trap code) s = .next (s.takeTrap (s.setCur (s.cur.fall 4)) s.slot
      ⟨0x10, code.toNat, 0, 0⟩ (ins (.trap code)).words false (s.cur.fall 4).pc [])) ∧
    (s.cur.level = .supervisor → 2 ≤ code.toNat →
      Completes (exec (.trap code) s) (s.WritesG 1 (BitVec.allOnes 64) 4)) ∧
    (s.cur.level = .supervisor → s.saveHeld s.slot = true → Waits s (.trap 1)) ∧
    (s.cur.level = .supervisor → s.saveHeld s.slot = false → Completes (exec (.trap 1) s) (fun t => s.OnlyCur t ∧ t.cur.st = .saving ∧
      t.cur.pc = (s.cur.fall 4).pc ∧ (∀ r, t.cur.rd r = s.cur.rd r) ∧ s.cur.SameVectors t.cur)) ∧
    (s.cur.level = .management → Illegal s (.trap code)) ∧
    (s.cur.preq = false → Completes (exec .yield s) (s.WritesG 0 0 4)) ∧
    (s.cur.preq = true → s.saveHeld s.slot = true → Waits s .yield) ∧
    (s.cur.preq = true → s.saveHeld s.slot = false → Completes (exec .yield s) (fun t => s.OnlyCur t ∧ t.cur.st = .saving ∧ t.cur.preq = false ∧
      t.cur.pc = (s.cur.fall 4).pc ∧ (∀ r, t.cur.rd r = s.cur.rd r) ∧ s.cur.SameVectors t.cur)) ∧
    (s.cur.side ≠ [] → Waits s .halt) ∧
    (∀ u, s.cur.side = [] → isTask s.slot = false → s.cur.uid = some u → Completes (exec .halt s) (fun t =>
      s.SameBytes t ∧ t.cur.uid = none ∧ t.cur.st = (if (SMap.find s.next s.slot).isSome then .loading else .idle) ∧
      (t.unitAt u).ending = some .halted ∧ (∀ j, j ≠ s.slot → t.ctx j = s.ctx j) ∧
      (∀ w, w ≠ u → t.unitAt w = s.unitAt w) ∧ (∀ r, t.cur.rd r = s.cur.rd r) ∧ s.cur.SameVectors t.cur))
/-! ### Lane words -/

/-- A lane at its nominal tick `t` for the head word, with nothing that holds it: its stream runs and has not faulted, no
refresh is due first, no earlier word's use of lane storage, fence, array word or external hold reaches beyond `t`, and the
clock has come to `t` (R204 to R208, R220). -/
structure LaneGoes (s : State) (idle : BitVec 6) (t : Nat) : Prop where
  goes : s.laneStopped (s.laneOf s.lane) s.lane t (fun _ => false) = false
  nominal : t = (s.laneOf s.lane).nominal idle.toNat
  deps : (s.laneOf s.lane).deps = []
  array : (s.laneOf s.lane).arrayFree ≤ t
  fence : (s.laneOf s.lane).fence ≤ t
  stall : (s.laneOf s.lane).stallAt ≤ t → (s.laneOf s.lane).stall ≤ t
  arrived : (s.laneOf s.lane).headAt ≤ t
  clock : t ≤ s.laneClk s.lane

/-- The head word of the lane has issued: it has left the queue and retires at `done` or later, the next word's nominal
tick counts from `next`; no other lane and no context changes. -/
structure LaneSteps (s : State) (next done : Nat) (halt : Bool) (t : State) : Prop where
  others : ∀ k, k ≠ s.lane → t.laneOf k = s.laneOf k
  ctxs : t.ctxs = s.ctxs
  words : (t.laneOf s.lane).words = (s.laneOf s.lane).words.drop 1
  pos : (t.laneOf s.lane).pos = (s.laneOf s.lane).pos + 1
  after : (t.laneOf s.lane).after = next
  issued : ∃ sum, (t.laneOf s.lane).issued = (s.laneOf s.lane).issued ++
    [⟨done, sum, halt, (s.laneOf s.lane).head.uid, (s.laneOf s.lane).pos, (s.laneOf s.lane).head.lctr, (s.laneOf s.lane).head.bits⟩]

/-- The registers, accumulators, ports, banks and buffers of a lane are as before, and what its issued words have still to
do (R30, R216). -/
structure LaneSame (l l' : Lane) : Prop where
  fmt : l'.fmt = l.fmt
  kc : l'.kc = l.kc
  xb : l'.xb = l.xb
  scs : l'.scs = l.scs
  scp : l'.scp = l.scp
  lim : l'.lim = l.lim
  kpos : l'.kpos = l.kpos
  ports : l'.ports = l.ports
  acc : l'.acc = l.acc
  e : l'.e = l.e
  banks : l'.banks = l.banks
  wbufs : l'.wbufs = l.wbufs
  later : l'.later = l.later
  ckId : l'.ckId = l.ckId
  ckTick : l'.ckTick = l.ckTick
  running : l'.running = l.running
  job : l'.job = l.job

/-- The lane words that configure, wait, mark or end: at their tick they complete, with their registers set and nothing
else of the lane changed; a repeated word that runs keeps its own SCP after a SETSC, and its own KPOS after a MASKK. A
reserved format is a stream fault (R207, R222 to R225, R237, R238). -/
def LaneSettingsHold : Prop :=
  ∀ (s : State) (h : LaneHdr) (t : Nat), LaneGoes s h.idle t → let l := s.laneOf s.lane
    let done (i : Instr) (next fin : Nat) (halt : Bool) (p : Lane → Lane) (q : Lane → Prop) : Prop :=
      Completes (exec i s) (fun u => LaneSteps s next fin halt u ∧ LaneSame l (p (u.laneOf s.lane)) ∧
        q (u.laneOf s.lane) ∧ s.SameBytes u)
    done (.idle h) (t + h.rep.toNat + 2) (t + h.rep.toNat + 1) false id (fun _ => True) ∧
    (∀ (xb : BitVec 9) (code : BitVec 4) (kcn : BitVec 8) (f : WFmt), WFmt.ofCode code.toNat = some f →
      (f = .cb4 → 16 * (kcn.toNat + 1) % 64 = 0) →
      done (.setfmt h xb code kcn) (t + 1) t false (fun m => { m with fmt := l.fmt, kc := l.kc, xb := l.xb })
        (fun m => m.fmt = code.toNat ∧ m.kc = 16 * (kcn.toNat + 1) ∧ m.xb = 16 * xb.toNat)) ∧
    (∀ (xb : BitVec 9) (code : BitVec 4) (kcn : BitVec 8), (WFmt.ofCode code.toNat = none ∨
        WFmt.ofCode code.toNat = some .cb4 ∧ 16 * (kcn.toNat + 1) % 64 ≠ 0) →
      exec (.setfmt h xb code kcn) s = .next (s.laneFault s.lane 0x09)) ∧
    (∀ (par : BitVec 12) (port : BitVec 2),
      done (.setsc h par port true) (t + 1) t false (fun m => { m with scs := l.scs, scp := l.scp, later := l.later })
        (fun m => m.scs = some .scratch ∧ m.scp = 64 * par.toNat ∧
          m.later = (l.mapRuns (fun r => { r with ownScp := false })).later) ∧
      done (.setsc h par port false) (t + 1) t false (fun m => { m with scs := l.scs })
        (fun m => m.scs = some (.port port.toNat))) ∧
    (∀ lim : BitVec 24, done (.maskk h lim) (t + 1) t false (fun m => { m with lim := l.lim, kpos := l.kpos, later := l.later })
      (fun m => m.lim = lim.toNat ∧ m.kpos = 0 ∧ m.later = (l.mapRuns (fun r => { r with ownKpos := false })).later)) ∧
    (∀ (al : Bool) (n : BitVec 11), (al = false ∨ t % 64 = 0) →
      done (.syncpt h al n) (t + 1) t false (fun m => { m with ckId := l.ckId, ckTick := l.ckTick })
        (fun m => m.ckId = n.toNat ∧ m.ckTick = t)) ∧
    (∀ (layer : BitVec 4), let last := SMap.get l.wrLast 0 layer.toNat
      let c := if last = 0 then t + 2 else last + 2
      done (.laneLfence h false layer) (t + 1) c false id (fun m => m.fence = c)) ∧
    (∀ (layer : BitVec 4), l.wrLast = [] →
      done (.laneLfence h true layer) (t + 1) (t + 2) false id (fun m => m.fence = t + 2)) ∧
    (l.wbufs = [] → done (.haltl h) (t + 1) t true (fun m => { m with running := l.running, wbufs := l.wbufs })
      (fun m => m.running = false))

/-- The words on banks and rows: ACT opens a row of a closed bank and adds it to a port, PRE and PREA close banks and
take them out of their ports, REF refreshes a closed bank and moves its deadline, WRROW writes a row from lane scratch.
ACT and REF of an open bank are stream faults, before any hold of theirs (R217 to R221). -/
def LaneBanksHold : Prop :=
  ∀ (s : State) (h : LaneAddr) (t : Nat), LaneGoes s h.idle t → let l := s.laneOf s.lane
    let b := h.b; let x := l.bankT b
    (∀ port : BitVec 2, let p := l.port port.toNat
      (x.row ≠ none → exec (.act h port) s = .next (s.laneFault s.lane 0x05)) ∧
      (x.row = none → (p.valid = false ∨ p.pos ≠ 0 ∨ 8 ≤ p.banks.length) →
        exec (.act h port) s = .next (s.laneFault s.lane 0x06)) ∧
      (x.row = none → p.valid = true → p.pos = 0 → p.banks.length < 8 → x.ready ≤ t → l.actFloor h.layer.toNat ≤ t →
        l.actExt h.layer.toNat ≤ t → x.extReady ≤ t → x.extRef = 0 → Completes (exec (.act h port) s) (fun u =>
        let m := u.laneOf s.lane
        LaneSteps s (t + 1) (t + 26) false u ∧ LaneSame l { m with banks := l.banks, ports := l.ports } ∧
        (m.bankT b).row = some h.row.toNat ∧ (m.bankT b).actAt = t ∧ (∀ k, k ≠ b → m.bankT k = l.bankT k) ∧
        SMap.get m.acts [] h.layer.toNat = ((t, false) :: SMap.get l.acts [] h.layer.toNat).take 4 ∧
        m.port port.toNat = { p with banks := p.banks ++ [(b, h.row.toNat)] } ∧
        (∀ k, k ≠ port.toNat → m.port k = l.port k) ∧ s.SameBytes u))) ∧
    (x.row = none → Completes (exec (.pre h) s) (fun u =>
      LaneSteps s (t + 1) t false u ∧ LaneSame l (u.laneOf s.lane) ∧ s.SameBytes u)) ∧
    (x.row ≠ none → x.mayClose ≤ t → x.fillHold ≤ t → l.fills = [] → Completes (exec (.pre h) s) (fun u =>
      let m := u.laneOf s.lane
      LaneSteps s (t + 1) (t + 22) false u ∧
      LaneSame l { m with banks := l.banks, ports := l.ports, wbufs := l.wbufs } ∧
      (m.bankT b).row = none ∧ (m.bankT b).ready = t + 22 ∧ (∀ k, k ≠ b → m.bankT k = l.bankT k) ∧
      ∀ k, (∀ y ∈ (m.port k).banks, y.1 ≠ b) ∧ ((∀ y ∈ (l.port k).banks, y.1 ≠ b) → m.port k = l.port k) ∧
        ((∃ y ∈ (l.port k).banks, y.1 = b) → (m.port k).valid = false))) ∧
    (∀ (g : LaneHdr) (ps : BitVec 4), g.idle = h.idle →
      (∀ k ∈ portsOf ps, ∀ y ∈ (l.port k).banks, (l.bankT y.1).mayClose ≤ t ∧ (l.bankT y.1).fillHold ≤ t) →
      ∃ fin, Completes (exec (.prea g ps) s) (fun u => let m := u.laneOf s.lane
        LaneSteps s (t + 1) fin false u ∧ LaneSame l { m with banks := l.banks, ports := l.ports, wbufs := l.wbufs } ∧
        (∀ k ∈ portsOf ps, m.port k = Port.init ∧ ∀ y ∈ (l.port k).banks, (m.bankT y.1).row = none) ∧
        (∀ k, k ∉ portsOf ps → m.port k = l.port k))) ∧
    (x.row ≠ none → exec (.ref h) s = .next (s.laneFault s.lane 0x05)) ∧
    (x.ready ≤ t → x.extReady ≤ t → x.extRef = 0 → x.row = none → l.fills = [] → Completes (exec (.ref h) s) (fun u =>
      let m := u.laneOf s.lane
      let at0 := s.refclk (s.lane / 64) - (s.laneClk s.lane - t)
      LaneSteps s (t + 1) (t + 252) false u ∧ LaneSame l { m with banks := l.banks, wbufs := l.wbufs } ∧
      (m.bankT b).lastRef = at0 ∧
      (m.bankT b).deadline = at0 + (if (s.stackOf (s.lane / 64)).hot then 24570 else 49140) ∧ (m.bankT b).due = false ∧
      (m.bankT b).ready = t + 252 ∧ (m.bankT b).row = none ∧ ∀ k, k ≠ b → m.bankT k = l.bankT k)) ∧
    (∀ src : BitVec 12, let o := 64 * src.toNat
      o ≤ 260096 → s.poison = [] → s.sumPending l o (o + 2048) = false →
      (l.wbuf b h.row.toNat ≠ none ∨ (l.wbufs.filter (fun w => w.lane && w.bank / 4 == h.layer.toNat)).length < 2) →
      Completes (exec (.wrrow h src) s) (fun u => let m := u.laneOf s.lane
        LaneSteps s (t + 1) (t + 128) false u ∧ LaneSame l { m with banks := l.banks, later := l.later } ∧ s.SameBytes u ∧
        (m.bankT b).closeAt = t + 152 ∧ (∀ k, k ≠ b → m.bankT k = l.bankT k) ∧
        SMap.get m.wrLast 0 h.layer.toNat = t + 128 ∧
        m.later = l.later ++ [(t + 1, LaneAct.unit b h.row.toNat o 0 (s.laneScratch s.lane o 16) l.head l.pos)]))

/-- What an issued word does at a later tick: unit h of a WRROW arrives in the write buffer with the bytes read a tick
before, and the next unit is read then, as lane scratch was at the beginning of the tick; bytes that a word writes to lane
scratch stand there from their tick on (R209, R216, R221). -/
def LaneArrivalsHold : Prop :=
  ∀ (s : State) (lane t : Nat),
    (∀ (bank row src h pos : Nat) (data : List Byte) (w : LWord), h < 127 → data.length = 16 → s.poison = [] →
      (s.laneOf lane).running = true →
      let u := s.laneEffect lane t (.unit bank row src h data w pos)
      (∀ i b, data[i]? = some b → u.bankByte lane bank row (16 * h + i) = b) ∧
      (∀ k c r y, (k ≠ lane ∨ c ≠ bank ∨ r ≠ row ∨ y < 16 * h ∨ 16 * h + 16 ≤ y) → u.bankByte k c r y = s.bankByte k c r y) ∧
      (∀ a, u.readLoc a = s.readLoc a) ∧
      (u.laneOf lane).later = (s.laneOf lane).later ++
        [(t + 1, .unit bank row src (h + 1) (s.laneScratch lane (src + 16 * (h + 1)) 16) w pos)]) ∧
    (∀ (off : Nat) (data : List Byte), off + data.length ≤ 0x40000 → s.poison = [] →
      let u := s.laneEffect lane t (.scratch off data)
      (∀ i b, data[i]? = some b → u.readLoc (.scratch lane (off + i)) = b) ∧
      (∀ k y, y < 0x40000 → (k ≠ lane ∨ y < off ∨ off + data.length ≤ y) → u.readLoc (.scratch k y) = s.readLoc (.scratch k y)) ∧
      u = { s with scratch := u.scratch, scratchWas := u.scratchWas }) ∧
    (∀ off n : Nat, s.scratchWas = [] → s.laneScratch lane off n =
      (List.range n).map (fun i => s.readLoc (.scratch lane (off + i))))

/-- The words on accumulators: ACCZ clears an element, ACCMV copies a bank to another or to lane scratch, POPA pops 64
elements from an activation buffer, STATS applies the online update of R229, QST quantises a run into lane scratch and
RSEND sends a contribution to its sum. A repeated word does its first execution at its tick and leaves the others to
theirs; what goes to lane scratch arrives at the tick at which the word is done (R207, R216, R229 to R236). -/
def LaneAccumulatorsHold : Prop :=
  ∀ (s : State) (h : LaneHdr) (t : Nat), LaneGoes s h.idle t → let l := s.laneOf s.lane; let n := h.rep.toNat + 1
    let same (m : Lane) : Prop := LaneSame l { m with acc := l.acc }
    let follows (off : Nat) (op : RunOp) (m : Lane) : Prop := (h.rep = 0 → m.later = l.later) ∧
      (h.rep ≠ 0 → ∃ x : LRun, m.later = l.later ++ [(t + off, .exec x)] ∧ x.op = op ∧ x.h = h ∧ x.r = 1 ∧ x.t0 = t)
    (∀ (bank : BitVec 3) (ninf : Bool) (y : BitVec 8), Completes (exec (.accz h bank ninf y) s) (fun u =>
      let m := u.laneOf s.lane
      LaneSteps s (t + 1) (t + (n + 15) / 16) false u ∧ same { m with later := l.later } ∧ s.SameBytes u ∧
      follows 0 (.accz bank.toNat ninf y.toNat) m ∧
      ∀ k j, j < 256 → m.accAt k j = if k = bank.toNat ∧ j = y.toNat then (if ninf then 0xFF800000 else 0) else l.accAt k j)) ∧
    (∀ src dst : BitVec 3, n ≤ 256 → Completes (exec (.accmvBank h src dst) s) (fun u =>
      let m := u.laneOf s.lane
      LaneSteps s (t + 1) (t + (n + 15) / 16 + 2) false u ∧ same m ∧ s.SameBytes u ∧
      ∀ k j, j < 256 → m.accAt k j = if k = dst.toNat ∧ j < n then l.accAt src.toNat j else l.accAt k j)) ∧
    (∀ (src : BitVec 3) (off : BitVec 8), n ≤ 256 → 1024 * off.toNat + 4 * n ≤ 0x40000 →
      s.sumPending l (1024 * off.toNat) (1024 * off.toNat + 4 * n) = false → Completes (exec (.accmvScratch h src off) s) (fun u =>
        let m := u.laneOf s.lane
        LaneSteps s (t + 1) (t + (n + 15) / 16 + 2) false u ∧ LaneSame l { m with later := l.later } ∧ s.SameBytes u ∧
        ∃ data : List Byte, m.later = l.later ++ [(t + (n + 15) / 16 + 2, .scratch (1024 * off.toNat) data)] ∧
          data.length = 4 * n ∧ ∀ i, i < 4 * n → data[i]? = some (byteOf (l.accAt src.toNat (i / 4)).toNat (i % 4)))) ∧
    (∀ src : BitVec 3, 256 < n → exec (.accmvBank h src src) s = .next (s.laneFault s.lane 0x04)) ∧
    (∀ (buf : BitVec 2) (first : BitVec 6) (bank : BitVec 3), let rs := [(256 * first.toNat, 256 * first.toNat + 256)]
      h.rep.toNat ≤ 3 → s.poison = [] → s.vfifoHeld s.lane buf.toNat t rs = false → l.landFloor buf.toNat rs ≤ t →
      Completes (exec (.popa h buf first bank) s) (fun u => let m := u.laneOf s.lane
        LaneSteps s (t + 1) (t + 2 * n) false u ∧ same { m with later := l.later } ∧ s.SameBytes u ∧
        follows 2 (.popa buf.toNat first.toNat bank.toNat) m ∧
        ∀ k j, j < 256 → m.accAt k j = if k = bank.toNat ∧ j < 64 then BitVec.ofNat 32 (ofBytes
          (Memory.readN s.bufs (bufAddr s.lane buf.toNat (256 * first.toNat + 4 * j)) 4)) else l.accAt k j)) ∧
    (∀ score out stat slot : BitVec 3, n ≤ 256 → l.kc ≤ 256 → score ≠ out → score ≠ stat → out ≠ stat →
      let v := statsUpdate (l.accs score.toNat n) (l.accAt stat.toNat (2 * slot.toNat)) (l.accAt stat.toNat (2 * slot.toNat + 1))
      Completes (exec (.stats h score out stat slot) s) (fun u => let m := u.laneOf s.lane
        LaneSteps s (t + 1) (t + n + 8) false u ∧ same m ∧ s.SameBytes u ∧ m.accs score.toNat n = v.1 ∧
        (v.2 = none → ∀ k j, k ≠ score.toNat → j < 256 → m.accAt k j = l.accAt k j) ∧
        ∀ f mx sm, v.2 = some (f, mx, sm) → m.accs out.toNat l.kc = (l.accs out.toNat l.kc).map (fun y => fmul y f) ∧
          m.accAt stat.toNat (2 * slot.toNat) = mx ∧ m.accAt stat.toNat (2 * slot.toNat + 1) = sm)) ∧
    (∀ (strict : Bool) (desc : BitVec 12) (tg : QTgt), let o := 64 * desc.toNat
      let q : QDesc := ⟨ofBytes (s.laneScratch s.lane o 32)⟩
      let held := SMap.get l.e ⟨0, 0, 0⟩ q.eddy
      let r := quantize tg (runScale tg q.scale) 0 held q.tag q.start ((List.range q.n).map (fun i => (false, s.qstElem l q i)))
      let rs := if q.src then [(2 * q.first, 2 * (q.first + q.n))] else []
      QTgt.ofCode q.tgt = some tg → q.check (some tg) = 0 → tg.isMx = false → q.eload = false → q.esave = false →
      s.poison = [] → s.sumPending l o (o + 32) = false → s.sumPending l q.dst (q.dst + codeBytes tg q.n) = false →
      l.landFloor q.index rs ≤ t → s.vfifoHeld s.lane q.index t rs = false →
      (strict = true → (incoming held q.tag q.start).2 = false) → Completes (exec (.qst h strict desc) s) (fun u =>
        let m := u.laneOf s.lane
        LaneSteps s (t + 1) (t + 4 + q.n) false u ∧ LaneSame l { m with e := l.e, later := l.later } ∧ s.SameBytes u ∧
        (∀ k, SMap.get m.e ⟨0, 0, 0⟩ k = if k = q.eddy then r.2.2.1 else SMap.get l.e ⟨0, 0, 0⟩ k) ∧
        m.later = l.later ++ [(t + 4 + q.n, .scratch q.dst (packCodes tg.bits r.1))])) ∧
    (∀ (bank stat slot : BitVec 3) (j : Nat) (x : Sum), n ≤ 256 → s.sumFor l s.lane = some j → SMap.find s.sums j = some x →
      (s.groupIn (some j) l s.lane = true ∨ (s.openSums l s.lane < 4 ∧ l.sumFree ≤ t)) →
      let sent (fin : Nat) (merge : Bool) (vals : List F32) (u : State) : Prop :=
        LaneSteps s (t + 1) fin false u ∧ LaneSame l (u.laneOf s.lane) ∧ s.SameBytes u ∧
        (u.laneOf s.lane).sends = l.sends + 1 ∧
        SMap.find u.sums j = some { x with contribs := x.contribs ++ [⟨s.lane, l.group, merge, vals, fin⟩] }
      Completes (exec (.rsendSum h bank) s) (sent (t + (n + 15) / 16) false (l.accs bank.toNat n)) ∧
      Completes (exec (.rsendMerge h bank stat slot) s) (sent (t + (n + 17) / 16) true
        (l.accAt stat.toNat (2 * slot.toNat) :: l.accAt stat.toNat (2 * slot.toNat + 1) :: l.accs bank.toNat n)))

/-- An array word at its tick whose first execution passes the checks of R226: its rows are open and their data has
come, its activations have landed, and no error is met. -/
structure ArrayGoes (s : State) (w : ArrayWord) (t : Nat) (f : WFmt) : Prop where
  lane : LaneGoes s w.h.idle t
  fmt : WFmt.ofCode (s.laneOf s.lane).fmt = some f
  check : (s.laneOf s.lane).arrayCheck w w.y0 = 0
  rows : (s.laneOf s.lane).portFloor ((s.laneOf s.lane).wordPorts w) ≤ t
  ext : (s.laneOf s.lane).portExt ((s.laneOf s.lane).wordPorts w) ≤ t
  landed : (s.laneOf s.lane).landFloor w.buf (w.bufReads (s.laneOf s.lane).xb (s.laneOf s.lane).kc) ≤ t
  held : s.vfifoHeld s.lane w.buf t (w.bufReads (s.laneOf s.lane).xb (s.laneOf s.lane).kc) = false
  sums : s.sumPending (s.laneOf s.lane) ((s.laneOf s.lane).scaleRange w).1 ((s.laneOf s.lane).scaleRange w).2 = false
  good : s.poison = []

/-- What one execution of an array word reads, as its last tick takes it: weights, block scales, and the product of a
vector of latched activations with them on top of a value (R223, R227). -/
def runProduct (x : LRun) (ws : Weights) (acc : F32) (first : Nat) : F32 :=
  dot acc (ws.el.zip ((List.range x.kc).map (fun k => bfValue ((x.latch[first + k]?).getD 0).toNat)))
    (fun g => ((ws.scale[g]?).getD (.fin false 1 0), .fin false 1 0))

/-- An accumulator element after an execution of an array word with stepped value `y`: GEMV adds the dot product of KC
weights and activations to one element, GEMVB to one of each of its vectors' banks, DOTK writes the dot product, or −∞ at
or past LIM, AXPV adds the weighted value row to its output bank; every other element stays (R227, R228). -/
def runAcc (l : Lane) (x : LRun) (w : ArrayWord) (ws : Weights) (y k j : Nat) : F32 :=
  match w.op with
  | .gemv => if k = w.a ∧ j = y then runProduct x ws (l.accAt k j) 0 else l.accAt k j
  | .gemvb nv => if w.a ≤ k ∧ k < w.a + nv ∧ j = y then runProduct x ws (l.accAt k j) (x.kc * (k - w.a)) else l.accAt k j
  | .dotk => if k = w.a ∧ j = y then (if x.lim ≤ x.kpos then 0xFF800000 else runProduct x ws 0 0) else l.accAt k j
  | .axpv out => if k = out ∧ j < x.kc then fl32 (Fp.add (fp32 (l.accAt out j)) (Fp.mul (fp32 (l.accAt w.a y))
      (Fp.mul ((ws.el[j]?).getD .nan) ((ws.scale[j / 16]?).getD (.fin false 1 0))).1).1).1 else l.accAt k j

/-- Array words. At its tick a word issues: its activations are read, its executions follow from that tick on, and nothing
else of the lane changes. In each tick an execution reads 16 bytes from every bank of its port; its first tick makes the
checks of R226 and reads the scales; its last one changes the accumulators, moves the port and SCP past the bytes read,
counts KPOS for DOTK, and leaves the next execution to its own tick (R210, R216, R221, R226 to R228). -/
def Obligations.ArrayWords : Prop :=
  (∀ (s : State) (h : LaneHdr) (port buf : BitVec 2) (a b : BitVec 3) (t : Nat) (f : WFmt), let l := s.laneOf s.lane
    let issues (w : ArrayWord) (i : Instr) : Prop :=
      ArrayGoes s w t f → Completes (exec i s) (fun u => let m := u.laneOf s.lane
        s.SameBytes u ∧ LaneSame l { m with banks := l.banks, later := l.later } ∧
        LaneSteps s (t + 1) (t + 6 + ((h.rep.toNat + 1) * (l.kc * f.bits / 8) + 16 * (l.port port.toNat).banks.length - 1) /
          (16 * (l.port port.toNat).banks.length)) false u ∧
        ∃ latch : List (BitVec 16), m.later = l.later ++ [(t, .exec (l.newRun (.array w) h t latch))] ∧
          ((∀ o, w.op ≠ .axpv o) → ∀ v k, v < w.nv → k < l.kc → latch[l.kc * v + k]? = some (BitVec.ofNat 16 (ofBytes
            (Memory.readN s.bufs (bufAddr s.lane buf.toNat (2 * (l.xb + 1024 * v + k))) 2)))))
    (∀ y : BitVec 5, issues ⟨.gemv, h, port.toNat, buf.toNat, a.toNat, 8 * y.toNat⟩ (.gemv h port buf a y)) ∧
    (∀ (nv : BitVec 3) (y : BitVec 2),
      issues ⟨.gemvb (nv.toNat + 1), h, port.toNat, buf.toNat, a.toNat, 64 * y.toNat⟩ (.gemvb h port buf a nv y)) ∧
    (∀ y : BitVec 5, issues ⟨.dotk, h, port.toNat, buf.toNat, a.toNat, 8 * y.toNat⟩ (.dotk h port buf a y)) ∧
    (∀ y : BitVec 4, issues ⟨.axpv b.toNat, h, port.toNat, 0, a.toNat, 16 * y.toNat⟩ (.axpv h port a b y))) ∧
  (∀ (s : State) (lane t : Nat) (l : Lane) (x : LRun) (w : ArrayWord) (f : WFmt), x.op = .array w →
    WFmt.ofCode x.fmt = some f → s.poison = [] →
    let cfg := l.underRun x; let p := l.port w.port; let nb := x.kc * f.bits / 8; let rate := 16 * max 1 p.banks.length
    let y := w.h.stepped w.y0 x.r
    let scl := if x.got = [] then (s.scalePart lane cfg f).1 else x.scl
    let got := x.got ++ (List.range (min (nb - x.got.length) (rate - (x.r * nb + x.got.length) % rate))).map (fun i =>
      s.streamByte lane p (p.pos + x.got.length + i))
    (x.got = [] → cfg.arrayCheck w y ≠ 0 → s.runExec lane t l x = .error (cfg.arrayCheck w y)) ∧
    ((x.got = [] → cfg.arrayCheck w y = 0) →
      (got.length < nb → s.runExec lane t l x =
        .ok { l with later := l.later ++ [(t + 1, .exec { x with got := got, scl := scl, late := 0 })] }) ∧
      (nb ≤ got.length → 0 ≤ y → y ≤ 255 → cfg.scalePort ≠ some w.port → (∀ o, w.op = .axpv o → x.kc ≤ 256) →
        ∃ m, s.runExec lane t l x = .ok m ∧
          (∀ k j, j < 256 → m.accAt k j = runAcc l x w (weightsOf f x.kc got scl) y.toNat k j) ∧
          (m.port w.port).pos = p.pos + nb ∧
          m.scp = (if x.ownScp = false then l.scp else if cfg.scalePort = none ∧ f ≠ .bf16 then x.scp + scaleBytes f x.kc
            else x.scp) ∧
          m.kpos = (if x.ownKpos = false then l.kpos else if w.op = .dotk then min (x.kpos + 1) 0xFFFFFF else x.kpos) ∧
          (x.h.n ≤ x.r + 1 → m.later = l.later) ∧
          (x.r + 1 < x.h.n → ∃ z, m.later = l.later ++ [(x.t0 + (x.r + 1) * nb / rate, .exec z)] ∧
            z = { x with r := x.r + 1, scp := z.scp, kpos := z.kpos, late := 0, got := [], scl := [] }))))
/-! ### Engine records -/

/-- The state once the head record of the current queue is popped (R188, R244, R453). -/
def popped (s : State) (r : Rec) (rs : List Rec) : State :=
  let e := s.engq s.queue
  s.setEngq s.queue { e with recs := rs, popped := if r.chained ∨ r.todo then e.popped else e.popped + 1,
                             lastPop := if r.chained ∨ r.todo then e.lastPop else some (s.core (s.queue / 8)).cyc.toNat }

/-- The head record of the current queue may be popped: no attempt at it waits, there is room for one more in flight, its
pacing register does not put it off, its counter is the job's, and where it is a graph image's the job's shared extent map
can be read (R242, R244, R249 step 5, R453). -/
structure RecordGoes (s : State) (limit : Nat) (r : Rec) (rs : List Rec) : Prop where
  head : (s.engq s.queue).recs = r :: rs
  first : r.todo = false
  alone : ∀ x ∈ (s.engq s.queue).run, x.seq ≠ r.seq
  room : (s.engq s.queue).run.length < limit
  pace : (!r.chained && s.paced s.queue) = false
  map : r.gctr = none ∨ (popped s r rs).mapReady (s.recParty (s.queue / 8) r).job = .ok (popped s r rs) .unit
  ctr : (!r.cen || (r.gctr.isSome && !r.link) || (popped s r rs).ctrFits (s.recParty (s.queue / 8) r) r.ctr) = true

/-- The record is in flight: the queue has one record less, and one more running. -/
def RunsRecord (s : State) (r : Rec) (rs : List Rec) (r' : Rec) (t : State) : Prop :=
  t.engq s.queue = { (popped s r rs).engq s.queue with
    run := (s.engq s.queue).run ++ [{ r' with chained := false, todo := false }] } ∧
  ∀ q, q ≠ s.queue → t.engq q = s.engq q

/-- The popped record faults and holds its queue (R249, R251). -/
def FaultsRecord (s : State) (r : Rec) (rs : List Rec) (fcode check : Nat) (addr : Word) : State :=
  ((popped s r rs).dropRun s.queue r.seq).recFault s.queue { r with todo := false, desc := [] } fcode check addr

/-- COPY and its reductions, where the descriptor is read and legal, every operand passes its checks in memory, no earlier
record that overlaps it waits, and no source byte is a destination byte: each row of the destination takes the row of the source, or ROP of its old value and
the source in parts of 16 bytes; the record is in flight with its bytes to be subtracted from the barrier that it names,
pinned lines are pinned for its unit, and nothing else changes (R249, R253 to R256). -/
def Obligations.CopyRecords : Prop :=
  ∀ (s s1 s2 s3 s4 : State) (r : Rec) (rs : List Rec) (h : RecHdr) (chain : Bool) (pin : BitVec 2) (desc : Word)
    (bs : List Byte) (so dso : Opnd) (key : Nat),
    ∀ c ∈ [(Instr.copy h chain pin desc, 0), (.copyFadd h chain pin desc, 1), (.copyIadd h chain pin desc, 2),
        (.copyRi32 h chain pin desc, 3), (.copyImax h chain pin desc, 4), (.copyOr h chain pin desc, 5)],
    let core := s.queue / 8; let p := s.recParty core r; let d := CopyDesc.ofDesc bs
    let ranges (base : Word) (st : Int) := (List.range d.rows).map (fun i => (rowAt base st i, d.len))
    let from0 (i : Nat) := locsAt so.locs (rowAt d.src d.sstr i)
    let goal (i : Nat) := locsAt dso.locs (rowAt d.dst d.dstr i)
    let every := (List.range d.rows).flatMap (fun i => from0 i ++ goal i)
    let lines := linesOf (so.locs.flatMap (·.2)); let mine := s.pinnedBy core
    let out (i : Nat) := (((groups 16 d.len ((goal i).map s.readLoc)).zip (groups 16 d.len ((from0 i).map s.readLoc))).zipIdx).flatMap
      (fun x => ropPart c.2 x.2 x.1.1 x.1.2)
    s.MemWf → s.poison = [] → RecordGoes s 4 r rs → (pin = 0 ∨ classOf core = .tile) → pin ≠ 3 →
    (popped s r rs).readDesc p desc 64 64 = .ok s1 bs → dfield bs 38 2 = 0 → dfield bs 48 16 = 0 →
    d.fits c.2 chain pin.toNat = true → s1.operands p .load (copyWindows core).1 (ranges d.src d.sstr) = .ok s2 so →
    s2.operands p .store (copyWindows core).2 (ranges d.dst d.dstr) = .ok s3 dso → s3.barCheck p d.bar = .ok s4 none →
    so.wait = none → dso.wait = none → s4.copyHeld core p { r with desc := bs, todo := false } d = false →
    s4.mem = s.mem → s4.memKey = s.memKey →
    (pin = 1 → mine.length + (lines.filter (fun l => !mine.contains l)).length ≤ 2048) →
    (∀ i, i < d.rows → (from0 i).length = d.len ∧ (goal i).length = d.len) →
    PlainLocs every key → (∀ l ∈ every, l.unshadowed s4 s4) →
    (∀ i j, i < d.rows → j < d.rows → ∀ l ∈ from0 i, l ∉ goal j) →
    (c.2 ≠ 0 → ((List.range d.rows).flatMap goal).Nodup) →
    Completes (exec c.1 s) (fun t =>
      { s with engqs := t.engqs, units := t.units }.Stores ((List.range d.rows).flatMap goal) ((List.range d.rows).flatMap out) t ∧
      RunsRecord s r rs { r with desc := bs, subs := addSub [] d.bar (d.rows * d.len),
                                 chain := if chain then some d.next else none } t ∧
      (pin = 0 → t.units = s.units) ∧ (∀ w, pin = 1 → r.uid = some w → ∀ x ∈ lines, (core, x) ∈ (t.unitAt w).pins) ∧
      (∀ w, pin = 2 → ∀ x ∈ lines, (core, x) ∉ (t.unitAt w).pins))

/-- FMT enters its word in the format queue, if there is room, and completes. MTILE, where its descriptor, its format
word and its operands pass their checks, writes the product into the cells of its accumulator tile: masked cells take
MVAL, the others the dot product of their row and column, on top of the cell's value or from zero, or combined over
slices; no other cell and no byte of data changes, and the record is in flight (R245, R249, R258 to R262). -/
def MatrixRecordsHold : Prop :=
  ∀ (s : State) (r : Rec) (rs : List Rec) (h : RecHdr),
    let core := s.queue / 8; let p := s.recParty core r
    (∀ word : Word, RecordGoes s 33 r rs → (s.core core).fmtq.length < 16 → (s.engq s.queue).run = [] →
      Completes (exec (.fmt h word) s) (fun t => ∃ v : State, t = (v.finishRec r true).dropRun s.queue r.seq ∧
        (v.core core).fmtq = (s.core core).fmtq ++ [(r.uid.getD 0, word)] ∧ (v.engq s.queue).recs = rs ∧
        s.SameBytes v ∧ v.ctxs = s.ctxs ∧ ∀ k, k ≠ core → v.core k = s.core k)) ∧
    (∀ word : Word, RecordGoes s 33 r rs → 16 ≤ (s.core core).fmtq.length →
      exec (.fmt h word) s = .next (FaultsRecord s r rs 0x2F 0 0)) ∧
    (∀ (s1 s2 s3 s4 : State) (acc : BitVec 2) (zero tri part : Bool) (rows cols : BitVec 8) (desc : Word) (x : List Byte)
      (f : WFmt) (k : Nat) (la lb lc : Opnd),
      let d := MtileDesc.ofDesc x; let m := rows.toNat + 1; let n := cols.toNat + 1
      let live (i j : Nat) : Bool := !(tri && decide (d.row0 + i < d.col0 + j))
      let bytes (ls : Opnd) (base : Word) (str i : Nat) := (locsAt ls.locs (strideAt base str i)).map s.readLoc
      RecordGoes s 1 r rs → s.poison = [] → (s.engq (8 * core + 2)).earlier 3 acc.toNat r.seq = false →
      (part = true → zero = true ∧ d.kc ≠ 0 ∧ d.kc % 16 = 0) → (popped s r rs).readDesc p desc 64 64 = .ok s1 x →
      dfield x 50 14 = 0 → s1.mtileWord core r part d.kc = .ok s1 (f, k) →
      s1.operands p .load [1, 2] (((List.range m).filter (fun i => live i 0)).map (fun i => (strideAt d.a d.astr i, 2 * k))) =
        .ok s2 la →
      s2.operands p .load [0, 1, 2] (((List.range n).filter (fun j => live (m - 1) j)).map (fun j =>
        (strideAt d.b d.bstr j, f.bytes k))) = .ok s3 lb →
      s3.operands p .load [0, 1, 2] (((List.range n).filter (fun j => live (m - 1) j)).map (fun j =>
        (strideAt d.bs d.sstr j, f.scaleBytes k))) = .ok s4 lc →
      la.wait = none → lb.wait = none → lc.wait = none → s4.mem = s.mem → s4.memKey = s.memKey →
      Completes (exec (.mtile h acc zero tri rows cols part desc) s) (fun t => s.SameData t ∧ t.ctxs = s.ctxs ∧
        RunsRecord s r rs { r with desc := x } t ∧ (∀ q, q ≠ core → t.core q = s.core q) ∧
        ∀ a i j, i < 256 → j < 256 → SMap.get (t.core core).tiles 0 (tilePlace a i j) =
          if a = acc.toNat ∧ i < m ∧ j < n then
            (if live i j = false then d.mval
            else tileDot (if zero then 0 else SMap.get (s.core core).tiles 0 (tilePlace acc.toNat i j))
              (if part then some d.kc else none) (WFmt.bf16.elems (bytes la d.a d.astr i) k)
              (f.elems (bytes lb d.b d.bstr j) k) (f.scale k (bytes lc d.bs d.sstr j)))
          else SMap.get (s.core core).tiles 0 (tilePlace a i j)))

/-- EPI, where its descriptor and its operands pass their checks and strict mode meets no break: each run of cells is
quantised under its eddy register, from the bank or from its image, its codes, scale codes and image are stored, the
bank takes its residue, and the record completes with the flags of its runs (R89, R249, R263, R264, R366). -/
def EpilogueRecordsHold : Prop :=
  ∀ (s s1 s2 s3 s4 s5 : State) (r : Rec) (rs : List Rec) (h : RecHdr) (acc eio : BitVec 2) (axis strict tri : Bool)
    (tgt : BitVec 3) (rows cols : BitVec 8) (desc : Word) (x : List Byte) (ld lsc li lo : Opnd) (key : Nat),
    let core := s.queue / 8; let p := s.recParty core r; let d := EpiDesc.ofDesc x; let t := QTgt.ofCode tgt.toNat
    let u := (if axis then cols else rows).toNat + 1; let n := (if axis then rows else cols).toNat + 1
    let us := List.range u; let image (i : Nat) := strideAt d.eimg 16 i
    let ed (i : Nat) : Eddy × Bool := if bitOf eio.toNat 0 then
        eddyOfImage (ofBytes ((locsAt li.locs (image i)).map s.readLoc))
      else (SMap.get (s.ctx r.slot).epi ⟨0, 0, 0⟩ (d.e0 + i), false)
    let cell (i k : Nat) : Bool × F32 := let a := if axis then k else i; let b := if axis then i else k
      (tri && decide (d.row0 + a < d.col0 + b), SMap.get (s.core core).tiles 0 (tilePlace acc.toNat a b))
    let run (i : Nat) := d.run t (ed i).1 ((List.range n).map (cell i))
    let codes (i : Nat) := locsAt ld.locs (strideAt d.dst d.dstr i)
    let scales (i : Nat) := locsAt lsc.locs (strideAt d.sdst (n / 16) i)
    let images (i : Nat) := if bitOf eio.toNat 1 then locsAt lo.locs (image i) else []
    s.MemWf → s.poison = [] → RecordGoes s 1 r rs → (s.engq (8 * core + 1)).earlier 2 acc.toNat r.seq = false →
    (t = none → eio = 0) → (epiMx t = true → n % 16 = 0) → (popped s r rs).readDesc p desc 64 64 = .ok s1 x →
    dfield x 41 7 = 0 → dfield x 56 8 = 0 → d.fits t eio.toNat u = true →
    s1.operands p .store [0, 1, 2, 3] (us.map (fun i => (strideAt d.dst d.dstr i, n * epiBits t / 8))) = .ok s2 ld →
    s2.operands p .store [0, 1, 2, 3] (if epiMx t then us.map (fun i => (strideAt d.sdst (n / 16) i, n / 16)) else []) =
      .ok s3 lsc →
    s3.operands p .load [1, 2] (if bitOf eio.toNat 0 then us.map (fun i => (image i, 16)) else []) = .ok s4 li →
    s4.operands p .store [1, 2] (if bitOf eio.toNat 1 then us.map (fun i => (image i, 16)) else []) = .ok s5 lo →
    ld.wait = none → lsc.wait = none → li.wait = none → lo.wait = none → s5.mem = s.mem → s5.memKey = s.memKey →
    (strict = true → ∀ i, i < u → (incoming (ed i).1 d.tag d.start).2 = false) →
    (∀ i, i < u → (codes i).length = (run i).1.length ∧ (scales i).length = (run i).2.1.length ∧
      (images i).length = (if bitOf eio.toNat 1 then 16 else 0)) →
    PlainLocs (us.flatMap (fun i => codes i ++ scales i ++ images i)) key →
    Completes (exec (.epi h acc axis tgt strict eio tri rows cols desc) s) (fun v => ∃ w : State,
      v = (w.finishRec { r with
        desc := x
        flags := r.flags ||| us.foldl (fun f i =>
          f ||| runFlags ((run i).2.2.2 ||| (if (ed i).2 then fBRK else 0))) 0 } true).dropRun s.queue r.seq ∧
      { s with engqs := w.engqs, ctxs := w.ctxs }.Stores
        (us.flatMap codes ++ us.flatMap scales ++ us.flatMap images)
        (us.flatMap (fun i => (run i).1) ++ us.flatMap (fun i => (run i).2.1) ++
          (if bitOf eio.toNat 1 then us.flatMap (fun i => eddyBytes (run i).2.2.1) else [])) w ∧
      (w.engq s.queue).recs = rs ∧ (∀ k, k ≠ r.slot → w.ctx k = s.ctx k) ∧
      w.ctx r.slot = { s.ctx r.slot with epi := (w.ctx r.slot).epi } ∧
      ∀ e, SMap.get (w.ctx r.slot).epi ⟨0, 0, 0⟩ e =
        if t ≠ none ∧ d.e0 ≤ e ∧ e < d.e0 + u then (run (e - d.e0)).2.2.1 else SMap.get (s.ctx r.slot).epi ⟨0, 0, 0⟩ e)

/-- NODE declares its node: the predecessors less the credit that it had, its target, block and empty status; NID 0, a
NID in use and a negative count are FCODE 0x2E. An entry with a slot is parked there with its descriptor, read once; ARM
and TSEND put their trigger into a slot that has none, and wait there for an entry (R242, R249, R266 to R268). -/
def Obligations.NodesAndSlots : Prop :=
  ∀ (s : State) (r : Rec) (rs : List Rec) (h : RecHdr) (slot : BitVec 6), let core := s.queue / 8
    let p := s.recParty core r
    (∀ (target : BitVec 3) (pcnt : BitVec 12) (blk : Word), RecordGoes s 33 r rs → let n := s.node r.owner r.nid
      ((r.nid = 0 ∨ n.declared = true ∨ pcnt.toNat < n.credit) → exec (.node h target pcnt blk) s =
        .next (FaultsRecord s r rs 0x2E 0 0)) ∧
      (∀ w, r.uid = some w → r.gctr = none → w < 2 ^ 32 → (s.unit? w).isSome = true → r.nid ≠ 0 → n.declared = false →
        n.credit ≤ pcnt.toNat → Completes (exec (.node h target pcnt blk) s) (fun t =>
          let m := t.node w r.nid
          m.declared = true ∧ m.count = pcnt.toNat - n.credit ∧ m.target = target.toNat ∧ m.blk = blk ∧ m.fired = false ∧
          m.slot = r.slot ∧ (∀ k, k ≠ r.nid → t.node w k = s.node w k) ∧ (t.engq s.queue).recs = rs ∧
          s.SameBytes t ∧ t.ctxs = s.ctxs))) ∧
    (∀ (s1 : State) (bs : List Byte) (desc : Word) (rop : BitVec 3), slot ≠ 0 → r.fired = false →
      s.slotTaken core slot.toNat r.seq = false → (s.cslot core slot.toNat).trigger = none → s.rafts = [] →
      RecordGoes s 80 r rs → (popped s r rs).readDesc p desc 64 64 = .ok s1 bs → s1.mem = s.mem → s1.memKey = s.memKey →
      ∀ x : Instr × Entry, x ∈ [(Instr.qpw h slot desc, Entry.write 0), (.qpwr h slot rop desc, .write rop.toNat),
          (.raftxRi32 h slot desc, .reduce 0), (.raftxMax h slot desc, .reduce 1), (.raftxOr h slot desc, .reduce 2),
          (.rafta h slot desc, .back)] →
        s1.entryCheck x.2 p bs = .ok s1 .unit → Completes (exec x.1 s) (fun t => s.SameBytes t ∧ t.ctxs = s.ctxs ∧
          t.cslot core slot.toNat = ⟨some { r with desc := bs, todo := false }, none⟩ ∧ (t.engq s.queue).recs = rs ∧
          (t.engq s.queue).run = (s.engq s.queue).run ∧ ∀ k, k ≠ 64 * core + slot.toNat →
            SMap.find t.cslots k = SMap.find s.cslots k)) ∧
    (RecordGoes s 80 r rs → (s.cslot core slot.toNat).trigger = none → (s.cslot core slot.toNat).entry = none →
      let parked (i : Instr) (tr : Trigger) (flags : Nat) : Prop := Completes (exec i s) (fun t =>
        s.SameBytes t ∧ t.ctxs = s.ctxs ∧ t.cslot core slot.toNat = ⟨none, some (tr, { r with flags := r.flags ||| flags })⟩ ∧
        (t.engq s.queue).recs = rs ∧ (t.engq s.queue).run = (s.engq s.queue).run)
      (∀ (ctr : BitVec 13) (n : BitVec 48), (popped s r rs).ctrFits p ctr.toNat = true →
        parked (.arm h slot ctr n) (.counter ctr.toNat n.toNat) 0) ∧
      (∀ (w : BitVec 16) (time : Word), parked (.tsend h slot w time) (.time time w.toNat)
        (if time.toNat ≤ s.time.toNat then 8 else 0))) ∧
    (∀ (ctr : BitVec 13) (n : BitVec 48), RecordGoes s 80 r rs → r.chained = false → (s.cslot core slot.toNat).trigger ≠ none →
      exec (.arm h slot ctr n) s = .next (FaultsRecord s r rs 0x24 0 0))

/-- A slot with an entry and a due trigger fires: the slot is free at once, whatever becomes of the entry; where fewer than
16 records run and the entry starts, it is in flight; an entry that must wait stands popped among those in flight, and is
tried again (R244, R267, R268). -/
def SlotsFireHold : Prop :=
  ∀ (s : State) (core slot : Nat) (e tr : Rec) (tg : Trigger), s.cslot core slot = ⟨some e, some (tg, tr)⟩ →
    let q := 8 * core + 4
    let s1 := (s.setCslot core slot ⟨none, none⟩).finishRec tr true
    let e' := { e with fired := true, ts := match tg with | .time a w => some (a, w) | _ => none }
    let go := s1.entryRun core e.entry e' (s1.recParty core e') e.desc
    (s.triggerDue tg = false → s.fireSlot core slot = s) ∧
    (s.triggerDue tg = true →
      (∀ s2 z, go = .wait s2 z → (∃ x ∈ ((s.fireSlot core slot).engq q).run, x.seq = e.seq ∧ x.todo = true ∧ x.desc = e.desc)) ∧
      (∀ s2 r, go = .ok s2 (some r) → s.fireSlot core slot =
        ((s2.markFills s1 none (some r.seq)).putRun q { r with todo := false }).startRafts) ∧
      (16 ≤ (s1.engq q).started → go = .wait s1 false))

/-- The collective records without a slot, where their descriptors and operands pass their checks: QPW and QPWR to the
own member store the source, or ROP of the old value and the source, at the destination; RAFTX sets up its reduction,
which starts at once; RAFTA stores the 256 bytes that each reduced chunk of 272 gives under its exponent byte
(R96, R249, R269 to R271). -/
def CollectiveRecordsHold : Prop :=
  ∀ (s s1 s2 s3 s4 s5 : State) (r : Rec) (rs : List Rec) (h : RecHdr) (desc : Word) (bs : List Byte) (src dst lx : List Loc)
    (key : Nat), let core := s.queue / 8; let p := s.recParty core r
    s.MemWf → s.poison = [] → s.rafts = [] → RecordGoes s 16 r rs → (s.engq (8 * core + 4)).started < 16 →
    (popped s r rs).readDesc p desc 64 64 = .ok s1 bs →
    PlainLocs (src ++ dst ++ lx) key → (∀ l ∈ src ++ lx, l ∉ dst) → dst.Nodup →
    (let d := QpwDesc.ofDesc bs; let dp := s1.sharedParty p
     ∀ (rop : BitVec 3) (so dso : Opnd), rop.toNat ≤ 5 → s1.qpwCheck rop.toNat p bs = .ok s1 .unit →
      (p.task = true ∨ s1.mapReady p.job = .ok s1 .unit) → d.dm = s1.jobMemb p.job →
      s1.operand p .load [0, 1, 2, 3] d.src d.len = .ok s2 so → s2.operand dp .store [0] d.dst d.len = .ok s3 dso →
      so.wait = none → dso.wait = none → locsAt so.locs d.src = src → locsAt dso.locs d.dst = dst →
      s3.barCheck p d.bar = .ok s4 none → s4.barCheck p d.rbar = .ok s5 none → src.length = d.len → dst.length = d.len →
      s5.mem = s.mem → s5.memKey = s.memKey → (∀ l ∈ src ++ dst, l.unshadowed s5 s5) →
      ∀ i, (i = Instr.qpwr h 0 rop desc ∨ i = .qpw h 0 desc ∧ rop = 0) → Completes (exec i s) (fun t =>
        { s with engqs := t.engqs }.Stores dst
          ((((groups 16 d.len (dst.map s.readLoc)).zip (groups 16 d.len (src.map s.readLoc))).zipIdx).flatMap
            (fun (x : (List Byte × List Byte) × Nat) => ropPart rop.toNat x.2 x.1.1 x.1.2)) t ∧
        RunsRecord s r rs { r with desc := bs, subs := addSub (addSub [] d.bar d.len) d.rbar d.len } t)) ∧
    (let d := RaftxDesc.ofDesc bs
     ∀ c ∈ [(Instr.raftxRi32 h 0 desc, 0), (.raftxMax h 0 desc, 1), (.raftxOr h 0 desc, 2)],
      let n := d.nchunk * chunkBytes c.2
      s1.raftxCheck c.2 p bs = .ok s1 .unit → (s1.rg d.group).hold = false → s1.chunksAt p .load d.src n = .ok s2 (src, none) →
      s2.chunksAt p .store d.dst n = .ok s3 (dst, none) → s3.barCheck p d.bar = .ok s4 none →
      s4.mem = s.mem → s4.memKey = s.memKey → Completes (exec c.1 s) (fun t =>
        ∃ v : State, t = v.startRafts ∧ s.SameData v ∧ v.ctxs = s.ctxs ∧ RunsRecord s r rs { r with desc := bs } v ∧
          v.rafts = [{ seq := r.seq, core := core, group := d.group, round := 0, op := c.2, src := d.src, dst := d.dst,
                       bar := d.bar, nchunk := d.nchunk, got := [], endpoint := false, usedEp := false, todo := [] }])) ∧
    (let n := dfield bs 24 4; let hr := dfield bs 28 1
     s1.raftaCheck bs = .ok s1 .unit → s1.chunksAt p .load (dptr bs 0) (272 * n) = .ok s2 (src, none) →
      s2.chunksAt p .store (dptr bs 8) (256 * n) = .ok s3 (dst, none) → s3.chunksAt p .load (dptr bs 16) n = .ok s4 (lx, none) →
      src.length = 272 * n → dst.length = 256 * n → lx.length = n →
      s4.mem = s.mem → s4.memKey = s.memKey → (∀ l ∈ src ++ lx, l.unshadowed s4 s4) →
      (∀ l ∈ lx, s.readLoc l ≠ 0 ∧ s.readLoc l ≠ 255) → Completes (exec (.rafta h 0 desc) s) (fun t =>
        { s with engqs := t.engqs }.Stores dst ((List.range n).flatMap (fun c =>
          chunkBack (((src.drop (272 * c)).take 272).map s.readLoc) (((lx.map s.readLoc).getD c 0).toNat) hr)) t ∧
        RunsRecord s r rs { r with desc := bs } t))
/-! ### Events: what the lanes, the engines, the hub, the host and the fabric do by themselves (log 1) -/

/-- Streams and words: a lane whose queue holds a word starts a stream when it is free; an issued word retires at its
tick; a faulted stream is discarded up to its HALTL, and one whose HALTL has issued leaves nothing to discard; the oldest VFIFO entry lands in the buffers of its lanes, 12 ticks
after its acceptance and 2 after the last. A stream that starts, and the end of a discard, change nothing else of the lane but
the write-buffer entries that drain (R203, R209, R210, R212, R238, R334). -/
def StreamEventsHold : Prop :=
  ∀ (s : State) (lane : Nat), let l := s.laneOf lane
    (∀ (w : LWord) (ws : List LWord), l.align = none → l.words = w :: ws → l.free = true → l.scrubbing = false →
      (s.stackOf (lane / 64)).overt = false → max w.arrived l.after ≤ s.laneClk lane →
      Completes (exec (.laneStreamStart lane) s) (fun u => let m := u.laneOf lane
        m.running = true ∧ m.pos = 0 ∧ m.words = l.words ∧ m.after = max w.arrived l.after ∧ m.strict = w.strict ∧
        m.uid = w.uid ∧ m.group = w.group ∧ LaneSame l { m with running := l.running, wbufs := l.wbufs, banks := l.banks } ∧
        (l.wbufs = [] → m.banks = l.banks ∧ m.wbufs = [] ∧ s.SameBytes u) ∧
        (∀ k, k ≠ lane → u.laneOf k = s.laneOf k) ∧ u.ctxs = s.ctxs)) ∧
    (∀ (w : Issued) (ws : List Issued), l.issued = w :: ws → s.mayRetire lane w true = true →
      Completes (exec (.laneWordRetire lane) s) (fun u => let m := u.laneOf lane
        m.issued = ws ∧ m.popped = (l.popped + 1) % 2 ^ 32 ∧ m.words = l.words ∧ LaneSame l m ∧
        (∀ k, k ≠ lane → u.laneOf k = s.laneOf k) ∧ ((w.halt = false ∨ l.flags = 0) → s.SameBytes u) ∧ u.ctxs = s.ctxs)) ∧
    (∀ (c : Nat) (w : LWord) (ws : List LWord), l.fault = some c → c ≠ 0x0D → l.discarding = true →
      l.words.dropWhile (fun w => !w.isHalt) = w :: ws → Completes (exec (.streamDiscardEnd lane) s) (fun u =>
        let m := u.laneOf lane
        m.fault = none ∧ m.words = ws ∧ m.running = false ∧ m.discarding = false ∧ LaneSame l { m with running := l.running, wbufs := l.wbufs, banks := l.banks } ∧
        (l.wbufs = [] → m.banks = l.banks ∧ m.wbufs = [] ∧ s.SameBytes u) ∧
        (∀ k, k ≠ lane → u.laneOf k = s.laneOf k) ∧ u.ctxs = s.ctxs)) ∧
    (∀ c : Nat, l.fault = some c → l.discarding = false → Completes (exec (.streamDiscardEnd lane) s) (fun u =>
        let m := u.laneOf lane
        m.fault = none ∧ m.words = l.words ∧ m.running = false ∧ LaneSame l { m with running := l.running, wbufs := l.wbufs, banks := l.banks } ∧
        (l.wbufs = [] → m.banks = l.banks ∧ m.wbufs = [] ∧ s.SameBytes u) ∧
        (∀ k, k ≠ lane → u.laneOf k = s.laneOf k) ∧ u.ctxs = s.ctxs)) ∧
    (∀ (quad : Nat) (e : VEntry) (es : List VEntry), let q := s.quadOf quad
      let t := max (e.accepted + 12) (q.lastLand + 2)
      q.vfifo = e :: es → e.buf < 4 → e.slot < 64 → t ≤ s.cclk (quad / 4) → Completes (exec (.vfifoLand quad) s) (fun u =>
        (u.quadOf quad).vfifo = es ∧ (u.quadOf quad).lastLand = t ∧ u.ctxs = s.ctxs ∧
        (∀ k, k / 16 = quad → e.lanes.getLsbD (k % 16) = true →
          Memory.readN u.bufs (bufAddr k e.buf (256 * e.slot)) 256 = bytesOf 256 e.data.toNat) ∧
        (∀ k b y, b < 4 → y < 16384 → (k / 16 ≠ quad ∨ e.lanes.getLsbD (k % 16) = false ∨ b ≠ e.buf ∨
          y < 256 * e.slot ∨ 256 * e.slot + 256 ≤ y) → Memory.read u.bufs (bufAddr k b y) = Memory.read s.bufs (bufAddr k b y)) ∧
        (∀ a, u.readLoc a = s.readLoc a) ∧ ∀ k, LaneSame (s.laneOf k) (u.laneOf k)))

/-- Columns and stacks: the guard marks a bank that is due and refreshes it at its lane's boundary; a lane reset gives
the lane its reset values and clears its scratch and buffers; a scrub clears the column; heat halves the refresh spans, 1 ms
without a reading above 82 °C ends the hot class, above 105 °C the stack stops and the host is told; a reset of a stack starts its clocks again; a failed module is noted (R220, R239, R331,
R337 to R340, R416). -/
def Obligations.ColumnEvents : Prop :=
  ∀ (s : State) (lane b stack : Nat), let l := s.laneOf lane; let x := l.bankT b; let st := s.stackOf stack
    (lane < 512 → b < 64 → x.deadline ≤ s.refclk (lane / 64) → Completes (exec (.refreshDeadlineReached lane b) s) (fun u =>
      ((u.laneOf lane).bankT b) = { x with due := true, dueAt := if x.due then x.dueAt else s.laneClk lane } ∧ (∀ k, k ≠ b → (u.laneOf lane).bankT k = l.bankT k) ∧
      (∀ k, k ≠ lane → u.laneOf k = s.laneOf k) ∧ s.SameBytes u)) ∧
    (let clk := s.laneClk lane
     let skip : Bool := s.pwrs == 3 && x.row.isNone
     let act := x.guardAt (if l.live && !skip then max l.stall (l.boundary x.dueAt) else if l.live then clk else x.dueAt)
     x.due = true → (∀ k, k < b → s.bankDue lane k = false) → l.fills = [] → (l.running = true → l.refHead b = none) →
      x.extRef = 0 → act ≤ clk → Completes (exec (.guardRefresh lane b) s) (fun u => let y := (u.laneOf lane).bankT b
      y.due = false ∧ y.row = x.row ∧ y.deadline = y.lastRef + refreshSpan (s.stackOf (lane / 64)).hot ∧
      y.lastRef = max (s.refclk (lane / 64) + (act + (if x.row.isSome then 22 else 0)) - clk) (if skip then l.refHold else 0) ∧
      (∀ k, k ≠ b → (u.laneOf lane).bankT k = { l.bankT k with usedTo := ((u.laneOf lane).bankT k).usedTo } ∧
        (l.bankT k).usedTo ≤ ((u.laneOf lane).bankT k).usedTo) ∧ (∀ k, k ≠ lane → u.laneOf k = s.laneOf k) ∧
      (u.stackOf (lane / 64)).forced = ((s.stackOf (lane / 64)).forced + 1) % 2 ^ 32)) ∧
    (∀ j : Option Nat, lane < 512 → Completes (exec (.laneReset lane j) s) (fun u => let m := u.laneOf lane
      m.words = [] ∧ m.issued = [] ∧ m.running = false ∧ m.fault = none ∧ m.acc = [] ∧ m.e = [] ∧ m.ports = [] ∧
      m.lim = 2 ^ 24 - 1 ∧ m.kpos = 0 ∧ m.job = j ∧ (∀ k, (m.bankT k).row = none) ∧
      (∀ o, o < 0x40000 → u.readLoc (.scratch lane o) = 0) ∧
      (∀ y, y < 65536 → Memory.read u.bufs (bufAddr lane 0 y) = 0) ∧ (∀ k, k ≠ lane → u.laneOf k = s.laneOf k) ∧
      (∀ k o, k ≠ lane → o < 0x40000 → u.readLoc (.scratch k o) = s.readLoc (.scratch k o)))) ∧
    (lane < 512 → l.scrubbing = true → Completes (exec (.columnScrub lane) s) (fun u =>
      (∀ k r y, k < 64 → r < 16384 → y < 2048 → u.bankByte lane k r y = 0) ∧
      (∀ j k r y, j ≠ lane → k < 64 → r < 16384 → y < 2048 → u.bankByte j k r y = s.bankByte j k r y) ∧
      (∀ a, u.readLoc a = s.readLoc a) ∧ (u.laneOf lane).scrubbing = false)) ∧
    (∀ c : Nat, stack < 8 → 85 ≤ c → st.hot = false → Completes (exec (.tempHotEnter stack c) s) (fun u =>
      u.stackOf stack = { st with hot := true, tmax := min 255 c, coolAt := none } ∧ s.SameBytes u ∧ u.irqs = (0, 3) :: s.irqs ∧
      (∀ k, k / 64 = stack → ∀ y ∈ (u.laneOf k).banks, y.2.deadline ≤ y.2.lastRef + 24570) ∧
      ∀ k, k / 64 ≠ stack → u.laneOf k = s.laneOf k)) ∧
    (∀ c since : Nat, stack < 8 → c ≤ 82 → st.hot = true → st.coolAt = some since → since + 1400000 ≤ s.tick →
      Completes (exec (.tempCoolEnter stack c) s) (fun u =>
      u.stackOf stack = { st with hot := false, tmax := c } ∧ u.irqs = (0, 3) :: s.irqs ∧ u.lanes = s.lanes)) ∧
    (∀ c : Nat, stack < 8 → 105 < c → s.stackJobs stack = [] → Completes (exec (.overtemp stack c) s) (fun u =>
      u.stackOf stack = { st with overt := true, hot := true, tmax := min 255 c, coolAt := none } ∧ u.irqs = (0, 3) :: s.irqs ∧
      u.ready.getLsbD (56 + stack) = false ∧ (st.hot = true → u.lanes = s.lanes) ∧ s.SameBytes u ∧
      (st.hot = false → ∀ k, k / 64 = stack → ∀ y ∈ (u.laneOf k).banks, y.2.deadline ≤ y.2.lastRef + 24570) ∧
      ∀ k, k / 64 ≠ stack → u.laneOf k = s.laneOf k)) ∧
    (stack < 8 → Completes (exec (.stackReset stack) s) (fun u =>
      (u.stackOf stack).cclk = 0 ∧ (u.stackOf stack).refclk = 0 ∧ (u.stackOf stack).forced = 0 ∧
      (u.stackOf stack).overt = false ∧ (∀ k, k / 64 = stack → u.laneOf k = Lane.init) ∧
      (∀ k, k / 64 ≠ stack → u.laneOf k = s.laneOf k) ∧ (∀ k, k ≠ stack → u.stackOf k = s.stackOf k) ∧
      ∀ k o, k / 64 = stack → o < 0x40000 → u.readLoc (.scratch k o) = 0)) ∧
    (∀ n : Nat, stack < 8 → n < 4 → s.stackJobs stack = [] → Completes (exec (.ucieModuleFail stack .hub n) s) (fun u =>
      n ∈ (u.stackOf stack).hubDown ∧ (∀ k ∈ st.hubDown, k ∈ (u.stackOf stack).hubDown) ∧ s.SameBytes u ∧ u.lanes = s.lanes))

/-- The confluence tree: a sum whose quadrants are settled is combined in the positions of its lanes, 8 ticks after the
last contribution of one quadrant and 14 after that of several, and its words are in the receiving lane's scratch; a ring
sum's partial goes on to the next stack; a quadrant that cannot contribute any more is absent (R326, R344 to R347,
R417). -/
def SumEventsHold : Prop :=
  ∀ (s : State) (n : Nat) (x : Sum), SMap.find s.sums n = some x →
    (let qs := s.sumQuads x
     let t := x.contribs.foldl (fun m c => max m c.done) 0 + (if qs.length ≤ 1 then 8 else 14)
     let v := combine x.contribs
     x.result = none → x.written = false → (∀ q ∈ qs, s.quadSettled x q = true) → x.contribs ≠ [] →
      max t x.absentAt ≤ s.cclk x.stack →
      (s.ringed x = false → x.merge = false → 4 * v.length ≤ 1024 → s.poison = [] →
        (x.absentAt ≤ t ∨ (s.laneOf x.receiver).strict = false) → Completes (exec (.treeResultWrite n) s) (fun u =>
        SMap.find u.sums n = none ∧ u.ctxs = s.ctxs ∧
        (∀ k, SMap.find (u.laneOf k).acc = SMap.find (s.laneOf k).acc ∧ (u.laneOf k).words = (s.laneOf k).words) ∧
        (∀ i, i < 4 * v.length → u.readLoc (.scratch x.receiver (0x3F000 + 1024 * (x.k % 4) + i)) =
          byteOf ((v[i / 4]?).getD 0).toNat (i % 4)) ∧
        ∀ k o, o < 0x40000 → (k ≠ x.receiver ∨ o < 0x3F000) → u.readLoc (.scratch k o) = s.readLoc (.scratch k o))) ∧
      (s.ringed x = true → Completes (exec (.treeResultWrite n) s) (fun u =>
        SMap.find u.sums n = some { x with result := some v } ∧ s.SameBytes u ∧ u.lanes = s.lanes))) ∧
    (∀ v : List F32, x.result = some v → x.written = false → x.relay = none →
      (∀ y ∈ s.sums, y.2.inst = x.inst → x.stack ≤ y.2.stack) → Completes (exec (.ringSumArrive n) s) (fun u =>
        SMap.find u.sums n = some { x with relay := some v } ∧ s.SameBytes u ∧ u.lanes = s.lanes)) ∧
    (∀ q : Nat, q < 4 → q ∉ x.absent → x.ofQuad (4 * x.stack + q) = [] → s.quadOver x q = true →
      Completes (exec (.quadrantAbsent n q) s) (fun u => SMap.find u.sums n = some { x with absent := q :: x.absent, absentAt := s.cclk x.stack } ∧
        s.SameBytes u ∧ u.lanes = s.lanes))

/-- The next record of a chain, as it waits at the head of its queue (R257). -/
def chainNext (s : State) (r : Rec) : Rec :=
  { r with chained := true, link := true, desc := [], subs := [], flags := 0, waits := [], seq := s.seq,
           prev := some (r.raw.getD r.bits), raw := none }

/-- Records between pops: a node whose count is zero enters its record, with its NID, in its queue; a slot with an entry
fires when its trigger's condition holds; performed bytes are subtracted from the barrier that a record names; a settled
record completes and its counter advances by 1, and a chain goes on; a save marker writes the slot's epilogue bank to
its image, a load marker takes it from there (R174, R244, R246, R247, R257, R266 to R268, R286, R367). -/
def Obligations.RecordEvents : Prop :=
  ∀ (s s1 : State) (queue pos core slot key : Nat) (ls : List Loc) (ts : List Nat), let e := s.engq queue
    (∀ (owner nid : Nat) (bs : List Byte), let n := s.node owner nid; let c := s.walkerCore owner
      let r := s.nodeRec owner nid; let k := 8 * c + n.target
      n.ripe = true → (s.engq (8 * c + 3)).fault = [] → s.riperNode c n.ready = false → n.target < 7 →
      (r.gctr = none ∨ s.mapReady (s.recParty c r).job = .ok s .unit) →
      s.readDesc (s.recParty c r) n.blk 32 32 = .ok s1 bs → s1.mem = s.mem → s1.memKey = s.memKey →
      ((s1.engq k).recs.filter (fun (x : Rec) => !x.chained)).length < 32 → Completes (exec (.nodeFire owner nid) s) (fun t =>
        (∃ x : Rec, (t.engq k).recs = (s1.engq k).recs ++ [x] ∧ x.uid = r.uid ∧ x.gctr = r.gctr ∧
          x.bits = BitVec.ofNat 128 (setBits (dfield bs 0 16) 104 97 nid)) ∧
        t.node owner nid = { n with
          fired := true, lctr := none, succ := (bs.drop 16).map BitVec.toNat,
          status := BitVec.ofNat 256 (setBits n.status.toNat 127 0 (BitVec.ofNat 128 (setBits (dfield bs 0 16) 104 97 nid)).toNat) } ∧
        s.SameBytes t ∧ t.ctxs = s.ctxs ∧ t.lanes = s.lanes)) ∧
    (∀ (en tr : Rec) (tg : Trigger) (s2 : State) (r2 : Rec), let q := 8 * core + 4
      let i := match tg with | .counter _ _ => Instr.slotCounterTrigger core slot | .time _ _ => .slotTimeTrigger core slot
      let e' := { en with fired := true, ts := match tg with | .time a w => some (a, w) | .counter _ _ => none }
      let s0 := s.setCslot core slot ⟨none, none⟩
      s.cslot core slot = ⟨some en, some (tg, tr)⟩ →
      (s.triggerDue tg = false → exec i s = .next s) ∧
      (s.triggerDue tg = true → tr.flags = 0 → tr.gctr = none → tr.cen = false → tr.nid = 0 →
        s0.entryRun core en.entry e' (s0.recParty core e') en.desc = .ok s2 (some r2) → (∀ x ∈ s2.rafts, x.round ≠ 0) →
        exec i s = .next ((s2.markFills s0 none (some r2.seq)).putRun q { r2 with todo := false }))) ∧
    (∀ r : Rec, e.run[pos]? = some r → r.todo = false → (queue % 8 ≤ 2 → pos = 0) → s.settled r = true → (∀ x ∈ s.rafts, x.seq ≠ r.seq) →
      bitsOf r.bits.toNat 127 122 ≠ 2 → r.gctr = none → r.flags = 0 →
      (r.cen = false → r.nid = 0 → r.chain = none → Completes (exec (.recordComplete queue pos) s) (fun t =>
        t.engq queue = { e with run := e.run.eraseIdx pos } ∧ (∀ q, q ≠ queue → t.engq q = s.engq q) ∧
        s.SameBytes t ∧ t.ctxs = s.ctxs ∧ t.counters = s.counters)) ∧
      (r.cen = false → r.chain ≠ none → Completes (exec (.recordComplete queue pos) s) (fun t =>
        t.engq queue = { e with run := e.run.eraseIdx pos, recs := chainNext s r :: e.recs } ∧ s.SameBytes t)) ∧
      (let c := s.counter r.ctr
       r.cen = true → r.nid = 0 → r.chain = none → s.recAlive r = true → (c.state ≠ 1 ∨ c.target = 0 ∨ c.value + 1 < c.target) →
        c.target < 2 ^ 48 → Completes (exec (.recordComplete queue pos) s) (fun t =>
          t.counter r.ctr = { c with value := min (2 ^ 48 - 1) (c.value + 1) } ∧
          (∀ n, n ≠ r.ctr → t.counter n = s.counter n) ∧ t.engq queue = { e with run := e.run.eraseIdx pos } ∧
          s.SameBytes t ∧ t.ctxs = s.ctxs))) ∧
    (∀ (r : Rec) (bar : Word) (left bytes : Nat), let x := ofBytes (ls.map s.readLoc); let pend := bitsOf x 111 64
      e.run[pos]? = some r → r.todo = false → s.poison = [] → r.subs.find? (fun b => b.2 ≠ 0) = some (bar, left) → bytes ≠ 0 → bytes ≤ 4096 →
      bytes + s.onTheWay r ≤ left → s.locate (s.recParty (queue / 8) r) .barrier 16 bar 16 = (s1, .ok ls ts) →
      s1.mem = s.mem → s1.memKey = s.memKey → s.MemWf → ls.length = 16 → PlainLocs ls key → Completes (exec (.barrierSubtract queue pos bytes) s) (fun t =>
        (t.engq queue).run = e.run.set pos { r with subs := r.subs.map (fun b => if b.1 == bar then (b.1, b.2 - bytes) else b) } ∧
        { s with engqs := t.engqs }.Stores ls (bytesOf 16 (barTest (if pend < bytes then setBits (setBits x 111 64 0) 58 58 1
          else setBits x 111 64 (pend - bytes))).1) t ∧ t.ctxs = s.ctxs)) ∧
    (∀ (m : Marker) (ms : List Marker), let q := 8 * core + 2; let s0 := s.setEngq q { s.engq q with markers := ms }
      (s.engq q).markers = m :: ms → (s.engq q).run = [] → (s.engq q).fault = [] → (∀ r ∈ (s.engq q).recs, m.seq < r.seq) →
      (m.save = true → s0.locate (sysParty s0) .store 1 (m.image + 0x6000) 0x1000 = (s1, .ok ls ts) → s.MemWf →
        ls.length = 0x1000 → PlainLocs ls key → Completes (exec (.epiSaveMarker core) s) (fun t =>
          t.engq q = { s.engq q with markers := ms } ∧ t.ctxs = s.ctxs ∧ { s with engqs := t.engqs }.Stores ls
            ((List.range 256).flatMap (fun i => eddyBytes (SMap.get (s.ctx m.slot).epi ⟨0, 0, 0⟩ i))) t)) ∧
      (m.save = false → m.fresh = true → Completes (exec (.epiLoadMarker core) s) (fun t =>
        t.engq q = { s.engq q with markers := ms } ∧ t.ctx m.slot = { s.ctx m.slot with epi := [] } ∧
        (∀ k, k ≠ m.slot → t.ctx k = s.ctx k) ∧ s.SameBytes t)) ∧
      (m.save = false → m.fresh = false → s.poison = [] → s0.locate (sysParty s0) .load 1 m.image 0x1000 = (s1, .ok ls ts) →
        Completes (exec (.epiLoadMarker core) s) (fun t => let c := t.ctx m.slot
          t.engq q = { s.engq q with markers := ms } ∧ s.SameBytes t ∧ (∀ k, k ≠ m.slot → t.ctx k = s.ctx k) ∧
          c = { s.ctx m.slot with epi := c.epi, fpst := c.fpst } ∧ ∀ i, i < 256 →
            SMap.get c.epi ⟨0, 0, 0⟩ i = (eddyFrom (((ls.map s.readLoc).drop (16 * i)).take 16)).1)))

/-- Units between instructions: a pending trap is taken at a boundary, the first of R373; a request that outlasts PDL
forces a save; a WAITT goes on at its time; a save writes the image and frees the context, which a bind or a resume then
loads; NEXT takes effect with its last bytes; the side log performs in order; a halted unit contributes once its work has
performed; a faulted unit's scratchpad freezes, and a scratchpad's frames are spilled and restored (R60, R180, R276,
R277, R294, R295, R350, R356, R370, R373, R376, R379, R409). -/
def Obligations.UnitEvents : Prop :=
  ∀ (s s1 : State) (slot u key : Nat) (ls : List Loc) (ts : List Nat), let c := s.ctx slot; let core := coreOf slot
    let others (t : State) : Prop := ∀ k, k ≠ slot → t.ctx k = s.ctx k
    (∀ (x : Machine.Unit) (p : Pend), s.asyncDue slot = true → c.held = false → c.replay = [] → c.uid = some u →
      s.unit? u = some x → firstPend x.pend = some p → (∀ q ∈ x.pend, p.rank ≤ q.rank) ∧
      (s.boundaryTrap slot = none → exec (.asyncTrap slot) s =
        .next (((s.setCtx slot { c with held := false, frz := false, frzAt := 0 }).setUnit u { x with
            pend := x.pend.erase p, trapRec := if p.cause = 0x0E then some (p.ord, p.seq) else none }) |> fun v =>
          s.takeTrap v slot ⟨p.cause, p.info, p.addr, p.extra⟩ 0 true c.pc [])) ∧
      ∀ t, s.boundaryTrap slot = some t → exec (.asyncTrap slot) s = .next t) ∧
    (c.replay ≠ [] → exec (.asyncTrap slot) s = .next s) ∧
    (c.st = .preempt → c.pdlLeft = 0 → s.saveHeld slot = false → s.atYieldPoint slot = true →
      exec (.pdlExpire slot) s = .next (s.startSave slot false)) ∧
    (c.st = .preempt → c.pdlLeft = 0 → s.saveHeld slot = true → exec (.pdlExpire slot) s = .next s) ∧
    (c.st = .preempt → c.pdlLeft = 0 → s.saveHeld slot = false → c.held = false →
      (c.replay ≠ [] ∨ s.boundaryTrap slot = none) → s.asyncDue slot = false → Completes (exec (.pdlExpire slot) s) (fun t => t = { s with ctxs := t.ctxs } ∧ others t ∧
        t.ctx slot = { c with st := .saving, forced := true, held := false, frz := false, frzAt := 0, preq := false })) ∧
    (∀ (w n : BitVec 32) (a : BitVec 5), (c.st = .running ∨ c.st = .preempt) → c.held = true →
      (s.fetchIns slot).2 = .words w n → decodeWord w n = .ok (.waitt a) →
      (c.preq = true → exec (.waittTimeReached slot) s = .next s) ∧
      (c.preq = false → (c.rd a.toNat).toNat ≤ s.time.toNat → exec (.waittTimeReached slot) s = .next (s.setCtx slot (c.fall 4))) ∧
      (s.time.toNat < (c.rd a.toNat).toNat → exec (.waittTimeReached slot) s = .next s)) ∧
    (∀ x : Machine.Unit, let sv := match SMap.find s.next slot with
        | some (_, r) => if r.save = 0 then Config.saveAddr u else r.save
        | none => Config.saveAddr u
      c.st = .saving → c.uid = some u → s.unit? u = some x → s.locate (sysParty s) .store 1 sv 0x6000 = (s1, .ok ls ts) →
      (∀ (op : Nat) (r : NextRec), SMap.find s.nextLater slot = some (op, r) →
        Completes (exec (.contextSaveComplete slot) s) (fun t => SMap.find t.nextLater slot = none ∧
          SMap.find t.next slot = (if op = 0 then none else some (op, r)) ∧ (t.unitAt u).image = some sv)) ∧
      (SMap.find s.nextLater slot = none → s.MemWf → ls.length = 0x6000 → PlainLocs ls key → Completes (exec (.contextSaveComplete slot) s) (fun t =>
        { s with ctxs := t.ctxs, units := t.units, engqs := t.engqs, seq := t.seq }.Stores ls (imageBytes c c.forced) t ∧
        others t ∧ t.ctx slot = { Ctx.init with
          epi := c.epi, berr := c.berr, forced := c.forced, marker := c.marker, g := c.g, v := c.v, m := c.m, e := c.e, fpst := c.fpst,
          st := if (SMap.find s.next slot).isSome then .loading else .idle } ∧
        t.unit? u = some { x with
          image := some sv, lastCore := core, spadUsed := c.spadUsed, epoch := c.epoch, side := c.side, popBase := c.popBase } ∧ (∀ k, k ≠ u → t.unit? k = s.unit? k) ∧
        (classOf core = .tile → ∃ m : Marker, (t.engq (8 * core + 2)).markers = (s.engq (8 * core + 2)).markers ++ [m] ∧
          m.save = true ∧ m.slot = slot ∧ m.image = sv)))) ∧
    (∀ (r : NextRec) (l : Launch) (op : Nat), let n := r.lctr.toNat
      c.st = .loading → SMap.find s.next slot = some (op, r) → SMap.find s.launches n = some l → l.cancelling = false →
      s.bindable core = true → s.gangReady n l = true → s.spadFree slot n l.job = true → SMap.find s.nextLater slot = none →
      (∀ bs : List Byte, op = 1 → s.translate n l = .ok s1 → s1.devRead n l.job 256 l.xtab = .bytes bs →
        Completes (exec (.contextLoadComplete slot) s) (fun t => let c1 := t.ctx slot
          c1.uid = some s1.nextUid ∧ c1.st = .running ∧ c1.level = .unit ∧ c1.pc = pcOf (toWord (l.field 0 8)) ∧
          (∀ i, c1.rd i = if 1 ≤ i ∧ i ≤ 4 then toWord (l.field (32 + 8 * (i - 1)) 8) else 0) ∧
          (∀ i, c1.rdV i = 0 ∧ c1.rdE i = ⟨0, 0, 0⟩) ∧ c1.fpst = 0 ∧ c1.loops = [] ∧ c1.xtab = xtabOf bs ∧ c1.side = [] ∧
          c1.tframe = sdataPtr + BitVec.ofNat 64 ((s1.raw (0x700000 + 0x40 * l.job + 40)).toNat + 512 * slot) ∧
          (t.unitAt s1.nextUid).job = l.job ∧ (t.unitAt s1.nextUid).lctr = n ∧ (t.unitAt s1.nextUid).index = r.unit.toNat ∧
          (t.unitAt s1.nextUid).strict = l.strict ∧ t.nextUid = s1.nextUid + 1 ∧ SMap.find t.next slot = none)) ∧
      (op = 2 → s.poison = [] → s.savedUnit n r.unit.toNat = some u → s.locate (sysParty s) .load 1 r.load 0x6000 = (s1, .ok ls ts) →
        (∀ a ∈ ls, ∃ pa k, a = Loc.mem pa k) → Completes (exec (.contextLoadComplete slot) s) (fun t =>
          (∃ base : Ctx, t.ctx slot = imageCtx (ls.map s.readLoc) base ∧ base.uid = some u ∧ base.st = .running ∧
            base.prio = r.prio.toNat ∧ base.epi = c.epi) ∧ others t ∧ (t.unitAt u).image = none ∧
          (t.unitAt u).lastCore = core ∧ SMap.find t.next slot = none))) ∧
    (∀ (r : NextRec) (p : Nat × Instr), p ∈ [(1, Instr.nextBind slot r), (2, .nextResume slot r)] → slot < 162 → s.boot.code = 2 →
      (c.st = .saving ∨ c.st = .loading → Completes (exec p.2 s) (fun t =>
        t = { s with nextLater := t.nextLater, launches := t.launches, regs := t.regs } ∧
        SMap.find t.nextLater slot = some (p.1, r) ∧ ∀ k, k ≠ slot → SMap.find t.nextLater k = SMap.find s.nextLater k)) ∧
      (c.st ≠ .saving → c.st ≠ .loading → Completes (exec p.2 s) (fun t =>
        t = { s with next := t.next, launches := t.launches, ctxs := t.ctxs, regs := t.regs } ∧
        t.raw (0x400000 + 0x80 * slot + 0x10) = r.save ∧ t.raw (0x400000 + 0x80 * slot + 0x08) = r.load ∧
        (∀ o, o % 8 = 0 → (o < 0x400000 + 0x80 * slot ∨ 0x400000 + 0x80 * slot + 0x20 ≤ o) → t.raw o = s.raw o) ∧
        SMap.find t.next slot = some (p.1, r) ∧ (∀ k, k ≠ slot → SMap.find t.next k = SMap.find s.next k) ∧
        (p.1 = 2 → SMap.find s.next slot = none → t.launches = s.launches) ∧
        (∀ l : Launch, p.1 = 1 → SMap.find s.launches r.lctr.toNat = some l → ∃ l' : Launch,
          SMap.find t.launches r.lctr.toNat = some l' ∧ r.unit.toNat ∈ l'.bound) ∧
        (c.st = .idle → others t ∧ t.ctx slot = { c with st := .loading }) ∧
        (c.st ≠ .idle → r.pre = true → r.save ≠ 0 → isTask slot = false → others t ∧
          t.ctx slot = { c with preq := true, st := .preempt, pdlLeft := c.pdl.toNat }) ∧
        (c.st ≠ .idle → (r.pre = false ∨ r.save = 0 ∨ isTask slot = true) → s.gangSlots slot = [slot] → others t ∧
          t.ctx slot = if c.st = .preempt then { c with preq := false, st := .running } else c)))) ∧
    (slot < 162 → s.boot.code = 2 → c.st = .loading → SMap.find s.nextLater slot = none →
      exec (.nextWithdraw slot) s = .next s) ∧
    (s.boot.code ≠ 2 → ∀ (op : BitVec 3) (r : NextRec), ∀ i ∈ [Instr.nextBind slot r, .nextResume slot r, .nextWithdraw slot,
      .nextReject slot op r], exec i s = .next s) ∧
    (slot < 162 → s.boot.code = 2 → c.st = .saving → Completes (exec (.nextWithdraw slot) s) (fun t =>
      t = { s with nextLater := t.nextLater, regs := t.regs } ∧ (SMap.find t.nextLater slot).map (·.1) = some 0)) ∧
    (slot < 162 → s.boot.code = 2 → c.st ≠ .loading → c.st ≠ .saving → s.gangSlots slot = [slot] →
      Completes (exec (.nextWithdraw slot) s) (fun t =>
      t = { s with next := t.next, launches := t.launches, ctxs := t.ctxs, regs := t.regs } ∧ others t ∧ SMap.find t.next slot = none ∧
      t.ctx slot = (if c.st = .preempt then { c with preq := false, st := .running } else c) ∧
      (∀ (r : NextRec) (l : Launch), SMap.find s.next slot = some (1, r) → SMap.find s.launches r.lctr.toNat = some l →
        SMap.find t.launches r.lctr.toNat = some { l with bound := l.bound.erase r.unit.toNat }))) ∧
    (∀ (op : BitVec 3) (r : NextRec), slot < 162 → s.boot.code = 2 → 3 ≤ op.toNat →
      exec (.nextReject slot op r) s = .next (s.setCtx slot { c with berr := true })) ∧
    (∀ (e : SideEntry) (es : List SideEntry), let p := s.entryParty slot e; let k : AccKind := if e.red then .atomic else .store
      c.side = e :: es →
      (e.sent = true → (s.remotes.any (fun (r : Remote) => r.uid == c.uid.getD 0) = true → exec (.sideLogReplay slot) s = .next s) ∧
        (s.remotes.any (fun (r : Remote) => r.uid == c.uid.getD 0) = false → exec (.sideLogReplay slot) s =
          .next (s.setCtx slot { c with side := es }))) ∧
      (e.sent = false → s.locateEntry p k e = (s1, .ok ls ts) →
      (∀ m a rs, ls = Loc.remote m a :: rs → let q := streamKey p.job false m
        (s1.streamFull q = true → exec (.sideLogReplay slot) s = .next s1) ∧
        (s1.streamFull q = false → Completes (exec (.sideLogReplay slot) s) (fun t =>
          t.ctx slot = { c with side := { e with sent := true } :: es } ∧ t.remotes = s1.remotes ++
            [⟨c.uid.getD 0, false, q, (s1.stream q).seq + 1, none, none⟩]))) ∧
      (s1.mem = s.mem → s1.memKey = s.memKey → s.poison = [] → s.MemWf → ls.length = e.data.length →
      PlainLocs ls key → Completes (exec (.sideLogReplay slot) s) (fun t =>
        { s with ctxs := t.ctxs, jobs := t.jobs }.Stores ls (if e.red then
          bytesOf e.data.length (aopValue e.aop e.data.length (ofBytes (ls.map s.readLoc)) (ofBytes e.data)) else e.data) t ∧
        t.ctx slot = { c with side := es, spadUsed := c.spadUsed || bitsOf e.addr.toNat 63 60 == 1 || bitsOf e.addr.toNat 63 60 == 2 } ∧
        others t ∧ ∀ j, t.job j = s.job j)))) ∧
    (∀ x : Machine.Unit, let v := s.counter x.lctr; let m := s.jobCtr (s.ctrJob x.lctr)
      s.unit? u = some x → x.ending = some .halted → s.unitDrained u = true →
      (x.cls = .head → Completes (exec (.unitContribution u) s) (fun t => t.unit? u = none ∧ t.counters = s.counters ∧
        (∀ k, k ≠ u → t.unit? k = s.unit? k) ∧ s.SameBytes t ∧ t.ctxs = s.ctxs)) ∧
      (x.cls ≠ .head → v.kind = 2 → v.state = 1 → v.target < 2 ^ 48 →
      (v.value + 1 < v.target → Completes (exec (.unitContribution u) s) (fun t =>
        t.counter x.lctr = { v with value := v.value + 1 } ∧ t.unit? u = none ∧ (∀ k, k ≠ u → t.unit? k = s.unit? k) ∧
        (∀ n, n ≠ x.lctr → t.counter n = s.counter n) ∧ s.SameBytes t ∧ t.ctxs = s.ctxs ∧ t.launches = s.launches)) ∧
      (v.value + 1 = v.target → s.cancelDue x.lctr = false → v.parent = 0x1FFF → m ≠ x.lctr → (s.counter m).kind = 5 →
        (s.counter m).parent = 0x1FFF → Completes (exec (.unitContribution u) s) (fun t =>
          t.counter x.lctr = { v with value := v.target, state := 2 } ∧ SMap.find t.launches x.lctr = none ∧ t.unit? u = none)))) ∧
    (∀ k : Nat, s.freezeDue k = true → exec (.scratchpadFreeze k) s = .next (s.setCore k { s.core k with frozen := true })) ∧
    (∀ k f : Nat, let x := s.core k
      32 ≤ k → k < 80 → f < 64 → f ∈ x.spill → Completes (exec (.scratchpadSpillComplete k f) s) (fun t =>
        (∀ b, b < 65536 → t.readLoc (.spad k (65536 * f + b)) = match x.owner with
          | some j => (t.spillRead j k f).getD b 0
          | none => 0) ∧
        (∀ j b, x.outgoing = some j → f ∈ x.written → b < 65536 →
          Memory.read t.spillMem (spillAddr j k f b) = s.readLoc (.spad k (65536 * f + b))) ∧
        (∀ k' o, 32 ≤ k' → k' < 80 → o < 0x400000 → (k' ≠ k ∨ o / 65536 ≠ f) → t.readLoc (.spad k' o) = s.readLoc (.spad k' o)) ∧
        (t.core k).spill = x.spill.filter (· ≠ f) ∧ (t.core k).owner = x.owner ∧ t.ctxs = s.ctxs))

/-- The firmware's dispatch, host submission, jobs, phases, graphs and services: a decision for a class D launch writes
its bind record, the lottery of class L moves LSEED on; an overdue launch is counted once; a phase at the head of its queue
takes the variant that fits, and its graphs start one after another; firmware decides and runs only once it has been
verified; a cancelled counter settles as CANCELLED; a packet is accepted or refused by its last bytes, once the held writes
of its function have performed; VALID starts and ends a job, CANCEL cancels it; service requests are held, run one at a time
and end, and the firmware's own events start tasks as well (R14, R280 to R282, R286, R289 to R293, R296, R297). -/
def Obligations.JobEvents : Prop :=
  ∀ (s : State) (job ctr : Nat),
    (s.boot.code ≠ 2 → ∀ cls : UnitClass, exec (.dispatchDecision cls) s = .next s ∧ exec (.phaseEntry ctr) s = .next s ∧
      exec .serviceTaskStart s = .next s) ∧
    (∀ (cls : UnitClass) (n i sl : Nat) (is : List Nat) (l : Launch), s.boot.code = 2 → s.pickD cls = some (n, l) →
      (s.belowFloor cls && !(s.waitingOf cls true).isEmpty) = false → s.placement n l cls = [sl] → l.unbound = i :: is →
      SMap.find s.launches n = some l → n < 8192 → i < 2048 → sl < 162 → (s.ctx sl).st = .idle → (s.ctx sl).uid = none →
      Completes (exec (.dispatchDecision cls) s) (fun t => SMap.find t.next sl = some (1, bindRec l n i l.prio false 0) ∧
        t.ctx sl = { s.ctx sl with st := .loading } ∧ (∀ k, k ≠ sl → t.ctx k = s.ctx k) ∧
        SMap.find t.launches n = some { l with bound := i :: l.bound } ∧ t.lseed = s.lseed ∧
        t = { s with next := t.next, launches := t.launches, ctxs := t.ctxs, regs := t.regs })) ∧
    (∀ cls : UnitClass, s.boot.code = 2 → s.pickD cls = none → (s.headsL cls).any (fun h => s.tickets h.1 ≠ 0) = true →
      Completes (exec (.dispatchDecision cls) s) (fun t => t.lseed = lotteryStep s.lseed ∧
        t = { s with lseed := t.lseed, next := t.next, launches := t.launches, ctxs := t.ctxs, regs := t.regs,
                     nextLater := t.nextLater })) ∧
    (∀ l : Launch, SMap.find s.launches ctr = some l → l.cls ≠ 2 → s.waiting ctr l = true → s.classL l.queue = false →
      l.overdue = false → l.deadline < s.time.toNat → Completes (exec (.launchOverdue ctr) s) (fun t =>
        SMap.find t.launches ctr = some { l with overdue := true } ∧
        t.sub l.queue = { s.sub l.queue with overdue := (s.sub l.queue).overdue + 1 } ∧
        t = { s with launches := t.launches, subs := t.subs })) ∧
    (∀ (l : Launch) (desc h gs : List Byte) (gl : Nat), let n := ofBytes (h.take 2)
      s.boot.code = 2 → SMap.find s.launches ctr = some l → l.cls = 2 → s.atHead ctr l = true →
      s.statusWalk l = .bytes [] → s.devRead ctr l.job 64 (l.field 0 8) = .bytes desc →
      (chooseVariant desc (s.jobBudget l.job).toNat = none → exec (.phaseEntry ctr) s = .next s) ∧
      (chooseVariant desc (s.jobBudget l.job).toNat = some gl → s.devRead ctr l.job 16 gl = .bytes h → n ≠ 0 → n ≤ 1024 →
        (∀ b ∈ h.drop 2, b = 0) → s.devRead ctr l.job (8 * n) (gl + 16) = .bytes gs →
        Completes (exec (.phaseEntry ctr) s) (fun t => t = { s with counters := t.counters, phases := t.phases } ∧
          t.counter ctr = { s.counter ctr with target := n } ∧ SMap.find t.phases ctr = some
            ⟨ctr, l.job, (List.range n).map (fun i => bytesWord ((gs.drop (8 * i)).take 8)), 0⟩))) ∧
    (∀ (p : Phase) (a : Word) (h rs : List Byte), let nn := ofBytes (h.take 2); let gc := ofBytes ((h.drop 2).take 2)
      SMap.find s.phases ctr = some p → (∀ g ∈ s.graphs, g.2.phase.map (·.1) ≠ some ctr) → p.graphs[p.done]? = some a →
      s.devRead ctr p.job 16 a.toNat = .bytes h → nn ≠ 0 → nn ≤ 255 → gc < 8192 → (∀ b ∈ h.drop 4, b = 0) →
      s.ctrOfJob p.job gc = true → (s.counter gc).state ≠ 1 → s.devRead ctr p.job (16 * nn) (a.toNat + 16) = .bytes rs →
      Completes (exec (.graphStart ctr) s) (fun t => t = { s with counters := t.counters, graphs := t.graphs, seq := s.seq + nn } ∧
        t.counter gc = { s.counter gc with kind := 3, state := 1, value := 0, target := nn, parent := ctr } ∧
        ∃ g : Graph, SMap.find t.graphs gc = some g ∧ g.job = p.job ∧ g.phase = some (ctr, p.done))) ∧
    (s.cancelDue ctr = true → (s.counter ctr).kind ≠ 5 → s.arrived (fun n => n == ctr) = true → Completes (exec (.cancelComplete ctr) s) (fun t =>
      t.counter ctr = { s.counter ctr with state := 3 } ∧ SMap.find t.launches ctr = none ∧ t.ctxs = s.ctxs)) ∧
    (let j := (s.counter ctr).job
     s.cancelDue ctr = true → (s.counter ctr).kind = 5 → (s.job j).cancelling = true →
      s.arrived (fun n => n == ctr || s.ctrJob n == j) = true → Completes (exec (.cancelComplete ctr) s) (fun t => (t.job j).cancelling = false ∧
        (∀ (n : Nat) (c : Counter), SMap.find s.counters n = some c → s.ctrJob n = j → c.state = 1 → c.kind ≠ 1 →
          (t.counter n).state = 3) ∧ ((s.job j).clearing = true → t.jobValid j = false) ∧ t.ctxs = s.ctxs)) ∧
    (∀ (fn q off : Nat) (data : List Byte), off + data.length ≤ 128 → let a := 128 * q + off
      let i := if covers off data.length then Instr.submissionCommit fn q off data else .submissionWindowWrite fn q off data
      let packet := ofBytes (Memory.readN (Memory.writeN s.subWin a data) (128 * q) 128)
      let l : Launch := { queue := q, job := s.queueJob q, packet := packet, seq := s.seq, translated := false, bound := [],
                          overdue := false, cancelling := (s.job (s.queueJob q)).cancelling, node := none, graph := none }
      let n := l.ctl 44 32
      (s.fnQueue fn q = false → Completes (exec i s) (fun t => t = { s with fnErr := t.fnErr } ∧
        SMap.get t.fnErr 0 fn = SMap.get s.fnErr 0 fn + 1)) ∧
      (s.fnQueue fn q = true → covers off data.length = false → Completes (exec i s) (fun t => t = { s with subWin := t.subWin } ∧
        (∀ k, k < data.length → Memory.read t.subWin (a + k) = (data[k]?).getD 0) ∧
        (∀ k, (k < a ∨ a + data.length ≤ k) → Memory.read t.subWin k = Memory.read s.subWin k))) ∧
      (s.fnQueue fn q = true → covers off data.length = true → s.commitHeld fn q = true → exec i s =
        .next { s with subWin := Memory.writeN s.subWin a data, heldCommit := s.heldCommit ++ [(fn, q, packet)] }) ∧
      (s.fnQueue fn q = true → covers off data.length = true → s.commitHeld fn q = false → bitOf (s.sqcfg q) 63 = true →
        s.used q < 64 →
        (s.packetReason l false = 0 → Completes (exec i s) (fun t => SMap.find t.launches n = some l ∧ (t.counter n).state = 1 ∧
          (t.counter n).value = 0 ∧ (t.counter n).kind = (if l.cls = 2 then 4 else 2) ∧
          (t.counter n).target = (if l.cls = 2 then 2 ^ 48 - 1 else l.nunit + 1) ∧ t.subs = s.subs ∧ t.ctxs = s.ctxs)) ∧
        (∀ r : Nat, r ≠ 0 → s.packetReason l false = r → Completes (exec i s) (fun t => t.launches = s.launches ∧
          t.counters = s.counters ∧ t.sub q = { s.sub q with refused := ((s.sub q).refused + 1) % 2 ^ 32, lasterr := r }))) ∧
      (s.fnQueue fn q = true → covers off data.length = true → s.commitHeld fn q = false →
        (bitOf (s.sqcfg q) 63 = false ∨ 64 ≤ s.used q) →
        Completes (exec i s) (fun t => t.launches = s.launches ∧ t.counters = s.counters ∧
          t.sub q = { s.sub q with refused := ((s.sub q).refused + 1) % 2 ^ 32, lasterr := 0xFF }))) ∧
    (job < 256 → s.jobValid job = false →
      ∀ v : Word, v.getLsbD 63 = true → Completes (exec (.jobActivate job v) s) (fun t => t.jobValid job = true ∧
        t.jobWord job 0 = v &&& 0x800000000003FFFF ∧ (t.job job).active = true ∧ (t.job job).cancelling = false ∧
        (t.counter (s.jobCtr job)).state = 1 ∧ (t.counter (s.jobCtr job)).value = 0 ∧
        (∀ x ∈ t.streams, x.1 / 131072 ≠ job) ∧
        t = { s with regs := t.regs, counters := t.counters, jobs := t.jobs, streams := t.streams, txq := t.txq, runs := t.runs })) ∧
    (job < 256 → s.jobValid job = true →
      ((s.job job).cancelling = true → exec (.jobCancelWrite job) s = .next s) ∧
      (s.jobBusy job = false → (s.job job).cancelling = false → exec (.jobCancelWrite job) s =
        .next (((s.setJob job { s.job job with cancelling := true }).jobIrq job 1).irq 0 2)) ∧
      (s.jobBusy job = false → (s.job job).cancelling = false → Completes (exec (.jobInvalidate job) s) (fun t => t.jobValid job = false ∧
        (t.job job).active = false ∧ (∀ x ∈ t.streams, x.1 / 131072 ≠ job) ∧
        t = { s with regs := t.regs, jobs := t.jobs, failing := t.failing, checked := t.checked, streams := t.streams,
                     txq := t.txq })) ∧
      (s.jobBusy job = true ∨ (s.job job).cancelling = true → Completes (exec (.jobInvalidate job) s) (fun t => (t.job job).clearing = true))) ∧
    (∀ v : Word, (s.svc.held.length < 16 → exec (.svcreq v) s = .next { s with svc := { s.svc with held := s.svc.held ++ [v] } }) ∧
      (16 ≤ s.svc.held.length → exec (.svcreq v) s =
        .next { s with svc := { s.svc with done := (s.svc.done + 1) % 2 ^ 32, last := 0xFE } })) ∧
    (∀ (r : Word) (own : Bool), s.boot.code = 2 → s.svc.running = false → s.svc.own = false → (s.ctx 161).st = .idle →
      (s.svc.held.head? = some r ∧ own = false ∨
        s.svc.held = [] ∧ Config.firmwareTask s.boot.bytes s.tick = some r ∧ own = true) →
      (Config.service s.boot.bytes (bitsOf r.toNat 63 48) = none → exec .serviceTaskStart s = .next (if own then s else
        { s with svc := { held := s.svc.held.drop 1, running := false, own := false, done := (s.svc.done + 1) % 2 ^ 32, last := 0xFF } })) ∧
      (∀ (entry : Word) (img : List Byte), Config.service s.boot.bytes (bitsOf r.toNat 63 48) = some (entry, img) →
        Completes (exec .serviceTaskStart s) (fun t => let c := t.ctx 161
          t = { s with svc := t.svc, ctxs := t.ctxs, units := t.units, nextUid := s.nextUid + 1 } ∧
          t.svc = { s.svc with running := true, own := own } ∧
          c.pc = pcOf entry ∧ c.level = .management ∧ c.st = .running ∧ c.uid = some s.nextUid ∧ c.xtab = xtabOf img ∧
          (∀ k, c.rd k = if k = 1 then r &&& 0xFFFFFFFFFFFF else 0) ∧ ∀ k, k ≠ 161 → t.ctx k = s.ctx k))) ∧
    (let c := s.ctx 161
     s.svc.running = true → c.st = .running →
      (∀ p : Pend, firstPend (s.unitOf 161).pend = some p → exec .serviceTaskTrap s =
        .next (s.takeTrap s 161 ⟨p.cause, p.info, p.addr, p.extra⟩ 0 true c.pc c.replay)) ∧
      (∀ (x : TrapInfo) (w : Nat), firstPend (s.unitOf 161).pend = none → s.fetchTrap 161 = some (x, w) →
        exec .serviceTaskTrap s = .next (s.takeTrap s 161 x w false c.pc c.replay)) ∧
      (firstPend (s.unitOf 161).pend = none → s.fetchTrap 161 = none → exec .serviceTaskTrap s = .next s) ∧
      (s.svc.own = false → ((s.unitOf 161).pend ≠ [] ∨ s.fetchTrap 161 ≠ none) →
        Completes (exec .serviceTaskTrap s) (fun t => t.svc = { s.svc with
            held := s.svc.held.drop 1, running := false, done := (s.svc.done + 1) % 2 ^ 32, last := 1 } ∧
          (t.ctx 161).uid = none ∧ ∀ k, k ≠ 161 → t.ctx k = s.ctx k)))


/-- The range translator and the freeze: a command drops the runs that overlap its pages, each whole, and those at which the
job waits, and it waits among at most 16; the oldest completes; a page request is posted once in the ring; the held accesses
of a slot look at their pages anew; a freeze holds the requests of its range at the slices, and its end serves them at their
homes, reads, writes and atomics (R385 to R387, R402, R404 to R406). -/
def Obligations.HubEvents : Prop :=
  ∀ (s : State),
    (∀ (j : BitVec 8) (va : BitVec 32) (np : BitVec 16) (p : Bool × Instr),
      p ∈ [(false, Instr.xlcmdInval j va np), (true, .xlcmdMapped j va np)] →
      (s.xl.cmds.length < 16 → Completes (exec p.2 s) (fun t =>
        t.xl = { s.xl with cmds := s.xl.cmds ++ [⟨p.1, j.toNat, va.toNat, np.toNat + 1⟩] } ∧
        t = { s with xl := t.xl, runs := t.runs } ∧
        let mine (r : Nat × Run) : Prop := s.domJob (r.1 / 2 ^ 32) = some j.toNat
        ∀ r : Nat × Run, r ∈ t.runs ↔ (¬(mine r ∧ (r.2.state = .absent ∨ r.2.state = .discarded)) ∧
          ∃ g ∈ runsOf s.runs, r ∈ g ∧ ∀ x ∈ g, ¬(mine x ∧ va.toNat ≤ x.1 % 2 ^ 32 ∧ x.1 % 2 ^ 32 < va.toNat + (np.toNat + 1))))) ∧
      (16 ≤ s.xl.cmds.length → exec p.2 s = .next { s with xl := { s.xl with err := true } })) ∧
    (∀ v : Word, (bitsOf v.toNat 63 60 ≠ 1 ∧ bitsOf v.toNat 63 60 ≠ 2 ∨ 16 ≤ s.xl.cmds.length) →
      exec (.xlcmdBad v) s = .next { s with xl := { s.xl with err := true } }) ∧
    (∀ (c : XlCmd) (cs : List XlCmd), s.xl.cmds = c :: cs →
      exec .xlcmdComplete s = .next { s with xl := { s.xl with cmds := cs, done := (s.xl.done + 1) % 2 ^ 32 } }) ∧
    (∀ (j p k : Nat) (ws : List (Nat × Nat × Nat)), s.xl.wait = (j, p, k) :: ws →
      (∀ i ∈ s.prqUsed, ∀ x : Nat × Nat × Nat, SMap.find s.xl.ring i = some x → ¬(x.1 = j ∧ x.2.1 = p)) →
      ((s.xl.head + 1) % 256 ≠ s.prqTail → Completes (exec .pageRequestPost s) (fun t =>
        t.xl.wait = ws ∧ SMap.find t.xl.ring s.xl.head = some (j, p, k) ∧ t.xl.head = (s.xl.head + 1) % 256 ∧
        (∀ i, i ≠ s.xl.head → SMap.find t.xl.ring i = SMap.find s.xl.ring i) ∧
        t = { s with xl := t.xl, irqs := (0, 0) :: s.irqs })) ∧
      ((s.xl.head + 1) % 256 = s.prqTail → exec .pageRequestPost s = .next s)) ∧
    (∀ slot : Nat, Completes (exec (.heldAccessRetry slot) s) (fun t => t = { s with runs := t.runs } ∧
      (∀ r : Nat × Run, r ∈ t.runs ↔ (r ∈ s.runs ∧ ¬(r.1 / 2 ^ 32 ∈ s.heldDoms slot ∧
        (r.2.state = .absent ∨ r.2.state = .discarded)))) ∧
      (s.unitOf slot).lctr ∈ s.heldDoms slot ∧ ∀ (q : Nat × EngQ) (r : Rec), q ∈ s.engqs → q.1 / 8 = coreOf slot →
        r ∈ q.2.recs ++ q.2.run → (s.recParty (coreOf slot) r).dom ∈ s.heldDoms slot)) ∧
    exec .freezeSet s = .next { s with fz := true } ∧
    (s.fz = false → exec .freezeClear s = .next s) ∧
    (s.fz = true → s.poison = [] → s.heldFrames = [] → Completes (exec .freezeClear s) (fun t => t.fz = false ∧ t.frozenAt = [] ∧ t.heldReq = [] ∧ t.heldCommit = [] ∧
      t.heldStats = [] ∧
      ∀ k, t.ctx k = { s.ctx k with frz := false })) ∧
    (∀ (slice : Nat) (req : SliceReq), let i := Instr.sliceRequestAccept slice req
      ((s.fz && s.fzRange req.pa) = true → exec i s = .next { s with frozenAt := s.frozenAt ++ [⟨req, slice⟩] }) ∧
      ((s.fz && s.fzRange req.pa) = false →
        (req.op = none → req.write = false → Completes (exec i s) (fun t => s.SameData t ∧ t.ctxs = s.ctxs ∧
          t.fzReplay = if s.homeOf req.pa = slice then s.fzReplay else (s.fzReplay + 1) % 2 ^ 32)) ∧
        (req.op = none → req.write = true → s.poison = [] → s.MemWf → Completes (exec i s) (fun t => t.ctxs = s.ctxs ∧
          { s with fzReplay := t.fzReplay }.Stores ((List.range req.data.length).map (fun i => Loc.mem (req.pa + i) req.key)) req.data t ∧
          t.fzReplay = if s.homeOf req.pa = slice then s.fzReplay else (s.fzReplay + 1) % 2 ^ 32)) ∧
        (∀ o : Nat, let ls := (List.range req.len).map (fun i => Loc.mem (req.pa + i) req.key); let old := ofBytes (ls.map s.readLoc)
          req.op = some o → s.poison = [] → s.MemWf →
          (o ≠ 0x30 → Completes (exec i s) (fun t => t.ctxs = s.ctxs ∧ { s with fzReplay := t.fzReplay }.Stores ls
            (bytesOf req.len (areqValue o req.len old (ofBytes req.data) req.expected)) t)) ∧
          (o = 0x30 → (bitOf old 56 = true ∨ bitsOf old 47 32 = bitsOf old 31 16) → Completes (exec i s) (fun t =>
            t.ctxs = s.ctxs ∧ s.SameBytes t)))))

/-- Islands, the power predicate, the governor and the spillway: a gate goes through its steps, a wake takes the island
back to 00, and a target written on the way is kept for the end; PWRS follows the package's power and the inlet, 40 to
60 V with coolant of at most 45 °C at 2 litres per minute or more, once per microsecond, while verified firmware runs; a
cluster's scratchpads are spilled before its rail goes (log 127); the governor idles engines by the pool (R441, R442, R445, R446, R451, R452, R454, R455). -/
def Obligations.PowerEvents : Prop :=
  ∀ (s : State) (i : Nat), let x := s.island i; let clk := s.islandClk i false
    let one (t : State) (y : Island) : Prop := t.island i = y ∧ ∀ k, k ≠ i → t.island k = s.island k
    let same (t : State) : Prop := t = { s with islands := t.islands }
    let ramped := s.islandClk i true + s.rampTicks i
    (∀ tg : BitVec 2, i < 128 → tg ≠ 0 → islandPermits i tg.toNat = true → tg.toNat ≠ x.tgt →
      (x.cur = 0 → x.busy = false → ∀ c ∈ [Instr.islandGate i tg, .islandRetarget i tg], Completes (exec c s) (fun t => same t ∧
        one t { x with tgt := tg.toNat, goal := tg.toNat, next := none, hold := true, busy := true, step := 1 })) ∧
      (x.busy = true → Completes (exec (.islandRetarget i tg) s) (fun t => same t ∧
        one t { x with tgt := tg.toNat, next := some tg.toNat })) ∧
      (x.cur ≠ 0 → x.busy = false → x.cur < tg.toNat → Completes (exec (.islandRetarget i tg) s) (fun t => same t ∧
        one t { x with tgt := tg.toNat, goal := tg.toNat, next := none, busy := true, step := 5, spill := true, ends := ramped })) ∧
      (x.cur ≠ 0 → x.busy = false → tg.toNat < x.cur → Completes (exec (.islandRetarget i tg) s) (fun t => same t ∧
        one t { x with tgt := tg.toNat, goal := 0, next := some tg.toNat, busy := true, step := 6, ends := ramped }))) ∧
    (i < 128 →
      (x.busy = false → x.cur = 0 → Completes (exec (.islandWake i) s) (fun t => same t ∧ one t { x with tgt := 0 })) ∧
      (x.busy = false → x.cur ≠ 0 → Completes (exec (.islandWake i) s) (fun t => same t ∧
        one t { x with tgt := 0, goal := 0, next := none, busy := true, step := 6, ends := ramped })) ∧
      (x.busy = true → x.step ≤ 3 → Completes (exec (.islandWake i) s) (fun t => same t ∧ one t { x with
        tgt := 0, goal := 0, next := none, hold := false, retv := false, busy := false, step := 0, latch := [] })) ∧
      (x.busy = true → 4 ≤ x.step → Completes (exec (.islandWake i) s) (fun t => same t ∧
        one t { x with tgt := 0, next := if x.step ≤ 5 then some 0 else none }))) ∧
    (x.busy = true → x.step = 1 → s.drained i = true → (∃ c ∈ clusterCores i, (s.core c).owner ≠ none) →
      Completes (exec (.islandDrainComplete i) s) (fun t => t.islands = s.islands ∧
        ∀ c ∈ clusterCores i, (t.core c).owner = none)) ∧
    (x.busy = true → x.step = 1 → s.drained i = true → (∀ c ∈ clusterCores i, (s.core c).owner = none) →
      Completes (exec (.islandDrainComplete i) s) (fun t =>
      (t.island i).step = 2 ∧ t.island i = { x with step := 2, ends := (t.island i).ends } ∧
      (∀ k, k ≠ i → t.island k = s.island k) ∧ (∀ k, k ∉ islandLanes i → t.laneOf k = s.laneOf k) ∧
      ∀ k ∈ islandLanes i, (t.laneOf k).ports = [] ∧ ∀ b, ((t.laneOf k).bankT b).row = none)) ∧
    (x.busy = true → x.ends ≤ s.islandClk i (decide (x.step = 5 ∨ x.step = 6)) →
      let goes (p : State → Prop) : Prop := Completes (exec (.islandStepComplete i) s) p
      (x.step = 2 → goes (fun t => same t ∧ one t { x with step := 3, ends := clk + 64 })) ∧
      (x.step = 3 → goes (fun t => same t ∧ one t { x with step := 4, ends := clk + 4, retv := true, latch := (t.island i).latch } ∧
        ∀ k ∈ islandLanes i, SMap.find (t.island i).latch k = some (s.laneOf k).latched)) ∧
      (x.step = 4 → x.goal = 1 → x.next = none → goes (fun t => same t ∧
        one t { x with spill := false, cur := 1, busy := false, step := 0 })) ∧
      (x.step = 4 → x.goal ≠ 1 → goes (fun t => same t ∧ one t { x with step := 5, spill := true, ends := ramped })) ∧
      (x.step = 5 → x.goal ≠ 3 → x.next = none → goes (fun t => same t ∧
        one t { x with spill := false, cur := x.goal, busy := false, step := 0 })) ∧
      (x.step = 5 → x.goal = 3 → x.next = none → goes (fun t =>
        one t { x with spill := false, cur := 3, busy := false, step := 0, retv := false, latch := [] } ∧
        ∀ k ∈ islandLanes i, (t.laneOf k).acc = [] ∧ (t.laneOf k).e = [] ∧
          (∀ o, o < 0x40000 → t.readLoc (.scratch k o) = 0) ∧ ∀ y, y < 65536 → Memory.read t.bufs (bufAddr k 0 y) = 0)) ∧
      (x.step = 6 → goes (fun t => same t ∧ one t { x with step := 7, ends := clk + 64 })) ∧
      (x.step = 7 → goes (fun t => one t { x with step := 8, ends := clk + 4 } ∧ s.SameBytes t ∧
        (∀ k, k ∉ islandLanes i → t.laneOf k = s.laneOf k) ∧ ∀ k ∈ islandLanes i,
          (∀ r : Lane, x.cur ≠ 3 → SMap.find x.latch k = some r → (t.laneOf k).e = r.e ∧ (t.laneOf k).fmt = r.fmt ∧
            (t.laneOf k).kc = r.kc ∧ (t.laneOf k).lim = r.lim ∧ (t.laneOf k).ports = r.ports) ∧
          (x.cur = 3 → (t.laneOf k).acc = [] ∧ (t.laneOf k).e = [] ∧ (t.laneOf k).ports = [] ∧ (t.laneOf k).lim = 0xFFFFFF))) ∧
      (x.step = 8 → x.next = none → goes (fun t => same t ∧
        one t { x with cur := 0, retv := false, busy := false, step := 0, latch := [], hold := false }))) ∧
    (∀ (watts : Nat) (x : Inlet), s.tick % 1400 = 0 → let inlet := inletOk x; let w := min 65535 watts; let p1 := s.pmcfg 63 48; let p2 := s.pmcfg 47 32
      let low := match s.power.lowAt with | some t => w ≤ p1 ∧ 140000 ≤ s.tick - t | none => False
      (inlet = true ↔ 40000 ≤ x.millivolt ∧ x.millivolt ≤ 60000 ∧ x.coolant ≤ 450 ∧ 2000 ≤ x.flow) ∧
      Completes (exec (.pwrsUpdate watts x) s) (fun t => t.power.pavg = w ∧ t.power.inletOk = inlet ∧
        (s.boot.code ≠ 2 → t.pwrs = s.pwrs) ∧
        (s.boot.code = 2 → s.pwrs = 0 → t.pwrs = if p1 < w ∨ inlet = false then 1 else 0) ∧
        (s.boot.code = 2 → s.pwrs = 1 → (p2 < w → t.pwrs = 2) ∧ (w ≤ p2 → low → inlet = true → t.pwrs = 0) ∧
          (w ≤ p2 → ¬(low ∧ inlet = true) → t.pwrs = 1)) ∧
        (s.boot.code = 2 → s.pwrs = 2 → t.pwrs = if w ≤ p2 ∧ s.tick - s.power.p2At ≤ 14000 then 1
          else if 14000 ≤ s.tick - s.power.p2At then 3 else 2) ∧
        (s.boot.code = 2 → s.pwrs = 3 → (¬low → t.pwrs = 3) ∧ (low → t.pwrs = if inlet then 0 else 1)) ∧
        t.irqs = (if t.pwrs = s.pwrs then s.irqs else (0, 3) :: s.irqs) ∧
        t = { s with power := t.power, pwrs := t.pwrs, irqs := t.irqs, growth := t.growth })) ∧
    (∀ traffic : List Nat, s.tick % 1400 = 0 → let cfg := (s.raw 0xD00010).toNat; let pool := bitsOf cfg 63 48
      let f := (List.range 12).foldl (fun a p => a + portCost (s.portWidth p) (traffic.getD p 0)) 0
      let a := s.activeEngines.length; let n := pool - min f pool
      Completes (exec (.governorStep traffic) s) (fun t => t = { s with power := t.power, ports := t.ports } ∧
        t.power.idle = (if a = 0 ∨ 15 * a ≤ n then 0 else 16 * (15 * a - n) / (15 * a)) ∧ t.power.active = [] ∧
        (f + a * bitsOf cfg 47 32 ≤ pool → t.ports = s.ports ∧ t.power.lastShed = s.power.lastShed))) ∧
    (∀ ma : Nat, i < 128 → x.busy = false → ma ≠ 0 → Completes (exec (.spillwayEngage i ma) s) (fun t =>
      one t { x with spill := true, load := ma } ∧ t.power.release = some t.spillEnd ∧
      t = { s with islands := t.islands, power := t.power }))

/-- The host and boot: an image is verified and runs; resets leave the reset state but for the flash; a firmware fault and
a READY bit's change are told; BAR4 reads and writes memory under the function's key, held in a freeze, and refuses what
lies outside its window or meets bad data; the bank-fill aperture writes the selected column; reads of registers clear the
RC fields that they cover, and writes set their RW bits (R5, R284, R291, R349, R369, R384, R393, R413, R420, R426, R456 to R462). -/
def Obligations.HostEvents : Prop :=
  ∀ (s : State),
    (∀ n : BitVec 32, (s.boot.code = 0 ∨ s.boot.code = 3 ∨ s.boot.code = 4 →
        exec (.bootVerifyRun n) s = .next { s with boot := { s.boot with code := 1, len := n.toNat } }) ∧
      (s.boot.code = 1 ∨ s.boot.code = 2 ∨ s.boot.code = 5 → exec (.bootVerifyRun n) s = .next s)) ∧
    (s.boot.code = 1 → let image := (List.range s.boot.len).map (fun i => Memory.read s.boot.image i)
      exec .bootVerifyComplete s = .next { s with boot := { s.boot with
        code := if s.boot.len = 0 ∨ 0x2000000 < s.boot.len then 4 else if Config.imageVerifies image (sm3 image) then 2 else 3 } }) ∧
    exec .deviceReset s = .next { State.reset with agenda := s.agenda, flash := s.flash, growth := s.flash } ∧
    exec .deviceResetCmd s = .next { State.reset with agenda := s.agenda, flash := s.growth, growth := s.growth } ∧
    exec .growthRecordWrite s = .next { s with flash := s.growth } ∧
    ((∀ j, j < 256 → s.jobValid j = false) → (s.ctx 160).uid = none → (s.ctx 161).uid = none →
      exec .firmwareFault s = .next { s with boot := { s.boot with code := 5 }, irqs := (0, 2) :: s.irqs,
                                             svc := { s.svc with running := false, own := false } }) ∧
    Completes (exec .firmwareFault s) (fun t => t.boot.code = 5 ∧ t.svc.running = false ∧ t.svc.own = false ∧
      (t.ctx 160).uid = none ∧ (t.ctx 161).uid = none ∧ ∀ j, j < 256 → s.jobValid j = true → (t.job j).cancelling = true) ∧
    (∀ b : Nat, 28 ≤ b → b < 64 → let st := s.stackOf (b - 56)
      (s.ready.getLsbD b = false →
        (56 ≤ b → st.overt = false ∧ ∀ i, i < 64 → (s.laneOf (64 * (b - 56) + i)).scrubbing = false) →
        (b = 28 → s.boot.code = 2) → Completes (exec (.functionReady b) s) (fun t =>
          t = { s with ready := t.ready, irqs := (0, 3) :: s.irqs, stackTab := t.stackTab, mem := t.mem, memKey := t.memKey,
                       poison := t.poison, lines := t.lines } ∧
          (b < 42 ∨ 46 ≤ b → t.mem = s.mem ∧ t.memKey = s.memKey ∧ t.poison = s.poison ∧ t.lines = s.lines) ∧
          (42 ≤ b → b < 46 → ∀ a, Memory.read? t.mem a = (if a / 512 % 24 / 6 = b - 42 then none else Memory.read? s.mem a) ∧
            ∀ l : Line, l ∈ t.lines → chanGroup (512 * l.line) ≠ b - 42) ∧
          (∀ k, t.ready.getLsbD k = (s.ready.getLsbD k || k == b)) ∧ (b < 56 → t.stackTab = s.stackTab) ∧
          (56 ≤ b → t.stackOf (b - 56) = { st with
            rows := (Config.repairRows (b - 56)).toNat, buslines := (Config.repairLines (b - 56)).toNat } ∧
            ∀ k, k ≠ b - 56 → t.stackOf k = s.stackOf k))) ∧
      (56 ≤ b → (st.overt = true ∨ ∃ i, i < 64 ∧ (s.laneOf (64 * (b - 56) + i)).scrubbing = true) →
        exec (.functionReady b) s = .next s) ∧
      (b = 28 → s.boot.code ≠ 2 → exec (.functionReady b) s = .next s) ∧
      (s.ready.getLsbD b = true → Completes (exec (.functionFail b) s) (fun t =>
        t = { s with ready := t.ready, irqs := (0, 3) :: s.irqs } ∧ ∀ k, t.ready.getLsbD k = (s.ready.getLsbD k && k != b)))) ∧
    (∀ (fn off n : Nat) (data : List Byte), let key := s.slotKey (s.fncfg fn 3 % 256)
      (s.bar4 fn off n = none → Completes (exec (.hostBar4Read fn off n) s) (fun t => t = { s with fnErr := t.fnErr } ∧
        SMap.get t.fnErr 0 fn = SMap.get s.fnErr 0 fn + 1)) ∧
      (s.bar4 fn off data.length = none → Completes (exec (.hostBar4Write fn off data) s) (fun t => t = { s with fnErr := t.fnErr } ∧
        SMap.get t.fnErr 0 fn = SMap.get s.fnErr 0 fn + 1)) ∧
      (∀ pa, s.bar4 fn off n = some pa →
        ((∀ i, i < n → s.frozen (pa + i) = false) →
          (s.poison = [] → Completes (exec (.hostBar4Read fn off n) s) (fun t => s.SameData t ∧ t.ctxs = s.ctxs)) ∧
          (s.reqBad ⟨pa, false, n, [], key, none, 0, none⟩ = true → Completes (exec (.hostBar4Read fn off n) s) (fun t =>
            SMap.get t.fnErr 0 fn = SMap.get s.fnErr 0 fn + 1 ∧ (fn = 0 → t = { s with fnErr := t.fnErr }) ∧
            (fn ≠ 0 → (t.job (s.fnJob fn)).cancelling = true)))) ∧
        ((∃ i, i < n ∧ s.frozen (pa + i) = true) → exec (.hostBar4Read fn off n) s =
          .next { s with heldReq := s.heldReq ++ [(fn, ⟨pa, false, n, [], key, none, 0, none⟩)] })) ∧
      (∀ pa, s.bar4 fn off data.length = some pa →
        ((∀ i, i < data.length → s.frozen (pa + i) = false) → s.MemWf → s.poison = [] → Completes (exec (.hostBar4Write fn off data) s) (fun t =>
          s.Stores ((List.range data.length).map (fun i => Loc.mem (pa + i) key)) data t ∧ t.ctxs = s.ctxs)) ∧
        ((∃ i, i < data.length ∧ s.frozen (pa + i) = true) → exec (.hostBar4Write fn off data) s =
          .next { s with heldReq := s.heldReq ++ [(fn, ⟨pa, true, data.length, data, key, none, 0, none⟩)] }))) ∧
    (∀ (off n : Nat) (data : List Byte), let row := bitsOf off 24 11; let byte := bitsOf off 10 0; let b := bitsOf off 30 25
      let col := s.bfCol
      Completes (exec (.bankFillApertureRead off n) s) (fun t => t = { s with fnErr := t.fnErr } ∧
        SMap.get t.fnErr 0 0 = SMap.get s.fnErr 0 0 + 1) ∧
      ((2 ^ 31 ≤ off ∨ 12288 ≤ row ∨ 2048 < byte + data.length ∨
        s.eccBad .store ((List.range data.length).map (fun i => Loc.bank col b row (byte + i))) = true) → Completes (exec (.bankFillApertureWrite off data) s) (fun t =>
        t = { s with fnErr := t.fnErr } ∧ SMap.get t.fnErr 0 0 = SMap.get s.fnErr 0 0 + 1)) ∧
      (off < 2 ^ 31 → row < 12288 → byte + data.length ≤ 2048 → s.poison = [] → (s.laneOf col).fills = [] →
        (s.laneOf col).sending = false → (s.laneOf col).fillRoom b row = true → byte / 16 = (byte + data.length - 1) / 16 →
        (s.laneOf col).upAt ≤ (s.stackOf (col / 64)).cclk.toNat → Completes (exec (.bankFillApertureWrite off data) s) (fun t =>
          (∀ i, i < data.length → t.bankByte col b row (byte + i) = (data[i]?).getD 0) ∧
          (∀ k b' r y, (k ≠ col ∨ b' ≠ b ∨ r ≠ row ∨ y < byte ∨ byte + data.length ≤ y) →
            t.bankByte k b' r y = s.bankByte k b' r y) ∧ (∀ a, t.readLoc a = s.readLoc a) ∧ t.ctxs = s.ctxs)) ∧
      (off < 2 ^ 31 → row < 12288 → byte + data.length ≤ 2048 → s.poison = [] → (s.laneOf col).sending = true →
        Completes (exec (.bankFillApertureWrite off data) s) (fun t => s.SameBytes t ∧ t.ctxs = s.ctxs ∧
          (t.laneOf col).fills = (s.laneOf col).fills ++
            (List.range data.length).map (fun i => ⟨b, row, byte + i, [(data[i]?).getD 0], none, none⟩)))) ∧
    (let ask (c : HostSpdm) : Out := exec (.hostSpdmRequest c) s
     ask (.message 0xE0) = .next { s with hostAnswer := sm3 s.boot.loaded } ∧
     ask (.message 0x82) = .next { s with hostAnswer := Config.identity } ∧
     ask (.message 0xEC) = .next { s with hostSession := false, hostAnswer := [] } ∧
     (∀ c : BitVec 8, c = 0xE4 ∨ c = 0xE5 → ask (.message c) =
       .next (if s.hostAgreed then { s with hostSession := true, hostAnswer := [] } else { s with hostAnswer := [] })) ∧
     (∀ o : Bool, ask (.negotiate o) = .next { s with hostAgreed := o, hostAnswer := [] }) ∧
     (∀ (k : BitVec 8) (v : BitVec 128) (m : BitVec 256), s.hostSession = true → s.boot.code = 2 →
       Completes (ask (.memoryKey k m)) (fun t => t = { s with keyGen := t.keyGen, mkeys := t.mkeys, hostAnswer := [] } ∧
         t.keyBytes (t.slotKey k.toNat) = bytesOf 32 m.toNat ∧ (∀ n, n ≠ t.slotKey k.toNat → t.keyBytes n = s.keyBytes n) ∧
         ∀ i, i < 256 → (t.slotKey i = s.slotKey i ↔ i ≠ k.toNat)) ∧
       Completes (ask (.sessionKey k v)) (fun t => t = { s with skeys := t.skeys, hostAnswer := [] } ∧
         t.sessionKey k.toNat = bytesOf 16 v.toNat ∧ ∀ i, i ≠ k.toNat → t.sessionKey i = s.sessionKey i)) ∧
     (∀ (k : BitVec 8) (v : BitVec 128) (m : BitVec 256), s.hostSession = false ∨ s.boot.code ≠ 2 →
       ask (.memoryKey k m) = .next { s with hostAnswer := [] } ∧ ask (.sessionKey k v) = .next { s with hostAnswer := [] })) ∧
    (∀ who : Writer, (who = .host ∨ who = .headwater) → let read (off : Nat) := exec (.registerReadClear who ⟨off, 8⟩) s
      (∀ q, q < 64 → read (0x200008 + 0x100 * q) = .next (s.setSub q { s.sub q with refused := 0, lasterr := 0 }) ∧
        read (0x200010 + 0x100 * q) = .next (s.setSub q { s.sub q with overdue := 0 }) ∧
        exec (.registerReadClear who ⟨0x20000C + 0x100 * q, 4⟩) s = .next (s.setSub q { s.sub q with refused := 0 }) ∧
        exec (.registerReadClear who ⟨0x20000A + 0x100 * q, 1⟩) s = .next (s.setSub q { s.sub q with lasterr := 0 })) ∧
      (∀ k, k < 8 → read (0x500018 + 0x1000 * k) = .next (s.setStack k { s.stackOf k with forced := 0, skew := 0, treeerr := 0 }) ∧
        read (0x500020 + 0x1000 * k) = .next (s.setStack k { s.stackOf k with exthold := 0 })) ∧
      read 0x800018 = .next { s with fzReplay := 0, fzOrphan := 0, fzMoved := 0, fzIgn := 0 } ∧
      (∀ g, g < 64 → read (0xA00008 + 0x40 * g) = .next (s.setRg g { s.rg g with swrec := 0, eprec := 0 })) ∧
      (∀ p, p < 12 → read (0xB00008 + 0x100 * p) = .next (s.setPort p { s.port p with sheds := 0, tagerr := 0, skew := 0 }) ∧
        read (0xB00010 + 0x100 * p) = .next (s.setPort p { s.port p with retx := 0 })) ∧
      (∀ n, n < 8192 → ∀ i, i < 4 → read (0x300000 + 32 * n + 8 * i) = .next s)) ∧
    (∀ (off : Nat) (data : List Byte), off + data.length ≤ 0x4000000 →
      (∀ f, exec (.registerWrite (.vf f) off data) s = .next s) ∧
      (data.length = 8 → off % 8 = 0 →
        (∀ who : Writer, (who = .host ∨ who = .headwater) →
          (0x700000 ≤ off ∧ off < 0x704000 ∧ off % 0x40 < 0x30 ∨
            (∃ j i, j < 256 ∧ i ∈ [1, 5, 7, 8, 10] ∧ off = 0x100000 + 0x100 * j + 8 * i)) →
          exec (.registerWrite who off data) s = .next (s.setRaw off (toWord (ofBytes data)))) ∧
        (∀ (who : Writer) (j : Nat), (who = .host ∨ who = .headwater) → j < 256 → off = 0x100000 + 0x100 * j + 72 →
          ((∀ g, g < 64 → s.rgEn g = true → s.rgJob g ≠ j) →
            exec (.registerWrite who off data) s = .next (s.setRaw off (toWord (ofBytes data)))) ∧
          Completes (exec (.registerWrite who off data) s) (fun t => ∀ g, g < 64 → s.rgEn g = true → s.rgJob g = j →
            (t.rg g).path = .pending ∨ (t.rg g).path = .refused)) ∧
        (∀ n, off = 0x300000 + 32 * n → n < 8192 → (s.counter n).value < 2 ^ 48 → exec (.registerWrite .host off data) s =
          .next (s.setCounter n { s.counter n with value := ofBytes data % 2 ^ 48 }))))

/-- Ports and timers: a port retrains at a new width, sheds to the next narrower one, comes up with its unacknowledged
frames sent again or tries narrower still, and goes down at two lanes; frames are sent again after 8 µs and a BUSY atomic
after 1 µs, where a port takes frames, and wait for it otherwise; ACKED is told after 2 µs; a path that fails cancels the
jobs with a stream through it (R320, R420, R424, R425, R437). -/
def Obligations.PortEvents : Prop :=
  ∀ (s : State) (p : Nat), let x := s.port p; let st := s.stream p
    let one (t : State) (y : FPort) : Prop := t.port p = y ∧ ∀ k, k ≠ p → t.port k = s.port k
    let alone : Prop := ∀ g, g < 64 → s.rgEn g = false
    let still : Prop := alone ∧ s.streams = [] ∧ s.txq = []
    let up (k : Nat) : Bool := (s.fpcfg k).getLsbD 63 && (s.port k).lanes ≠ 3
    (∀ v : Word, p < 12 → let w := if bitsOf v.toNat 62 61 = 3 then bitsOf (s.fpcfg p).toNat 62 61 else bitsOf v.toNat 62 61
      Completes (exec (.fpcfgWrite p v) s) (fun t => let y := t.port p
        t.fpcfg p = toWord (setBits (setBits v.toNat 59 48 0) 62 61 w) ∧
        (v.getLsbD 63 = false → y.lanes = 3 ∧ y.retrain = false ∧ y.downAt = x.downAt.or (some s.tick)) ∧
        (v.getLsbD 63 = true → x.lanes.toNat ≠ w → y.retrain = true ∧ y.goal = BitVec.ofNat 2 w ∧ y.lanes = x.lanes) ∧
        (v.getLsbD 63 = true → x.lanes.toNat = w → y.lanes = x.lanes ∧ y.retrain = x.retrain) ∧
        (still → t = { s with regs := t.regs, ports := t.ports } ∧ ∀ k, k ≠ p → t.port k = s.port k))) ∧
    (∀ cause : ShedCause, p < 12 → (s.fpcfg p).getLsbD 63 = true → x.lanes ≠ 3 → x.retrain = false →
      (cause = .errors → (s.fpcfg p).getLsbD 60 = true) → Completes (exec (.portShed p cause) s) (fun t =>
        one t { x with retrain := true, goal := if x.lanes = 0 then 1 else 2, sheds := min 65535 (x.sheds + 1) } ∧
        t = { s with ports := t.ports, growth := t.growth, power := { s.power with lastShed := some s.tick } })) ∧
    (x.retrain = true → Completes (exec (.portRetrainComplete p true) s) (fun t =>
        (t.port p).lanes = x.goal ∧ (t.port p).retrain = false ∧ (t.port p).downAt = none ∧
        (alone → s.SameBytes t ∧ t.ctxs = s.ctxs ∧
          ((∀ k ∈ s.streams, k.2.kept = [] ∧ k.2.queue = []) → s.txq = [] → t.out = s.out) ∧
          (p < 12 → (s.fpcfg p).getLsbD 63 = true → x.goal ≠ 3 → (∀ k, k < p → up k = false) → s.streams = [] →
            t.txq = [] ∧ ∃ m : List Frame, t.out = s.out ++ m ∧ m.map (·.payload) = s.txq.map (·.2.payload)))) ∧
      (x.goal.toNat < 2 → Completes (exec (.portRetrainComplete p false) s) (fun t => one t { x with goal := x.goal + 1 } ∧
        t = { s with ports := t.ports })) ∧
      (2 ≤ x.goal.toNat → Completes (exec (.portRetrainComplete p false) s) (fun t =>
        (t.port p).retrain = false ∧ (t.port p).lanes = 3 ∧ (t.port p).downAt = x.downAt.or (some s.tick) ∧
        (still → one t { x with retrain := false, lanes := 3, downAt := x.downAt.or (some s.tick) } ∧
          t = { s with ports := t.ports })))) ∧
    (∀ (f : Kept) (fs : List Kept), st.kept = f :: fs →
      (∀ q : Nat, 11200 ≤ s.tick - f.sent → s.txPort = some q → (s.port q).retrain = false → s.blocked p = false → st.queue = [] →
        Completes (exec (.retransmitTimeout p) s) (fun t => t.out = s.out ++ st.kept.map (fun y => { y.frame with port := q }) ∧
          t.stream p = { st with port := some q, kept := st.kept.map (fun y =>
            { y with frame := { y.frame with port := q }, sent := s.tick }) } ∧
          (∀ k, k ≠ p → t.stream k = s.stream k) ∧ s.SameBytes t ∧ t.ctxs = s.ctxs)) ∧
      ((s.tick - f.sent < 11200 ∨ s.portReady = false ∨ s.blocked p = true) → exec (.retransmitTimeout p) s = .next s)) ∧
    (∀ (seq t0 : Nat) (r : Remote), r ∈ s.remotes → r.stream = p → r.seq = seq → r.busyAt = some t0 → 1400 ≤ s.tick - t0 →
      s.portReady = true → Completes (exec (.areqBusyRetry p seq) s) (fun t => { r with busyAt := none } ∈ t.remotes ∧
        t.out = s.out ++ (st.kept.filter (fun f => f.frame.seq = seq)).map (·.frame) ∧
        t = { s with remotes := t.remotes, out := t.out })) ∧
    (∀ t0 : Nat, st.ackDue = some t0 →
      (2800 ≤ s.tick - t0 → s.portReady = false → Completes (exec (.ackTimer p) s) (fun t =>
        t = { s with streams := t.streams, txq := t.txq } ∧ ∃ a : Frame, t.txq = s.txq ++ [(p, a)] ∧ a.kind = 4)) ∧
      (2800 ≤ s.tick - t0 → s.portReady = true → Completes (exec (.ackTimer p) s) (fun t => t.stream p = { st with ackDue := none } ∧
        t = { s with streams := t.streams, out := t.out } ∧ ∃ a : Frame, t.out = s.out ++ [a] ∧ a.kind = 4 ∧ a.op = 0 ∧
          a.acked = st.acked ∧ a.dstm = p % 65536)) ∧
      (s.tick - t0 < 2800 → exec (.ackTimer p) s = .next s)) ∧
    (∀ cause : PathCause, (match cause with
        | .portDown => ∃ q t0, st.port = some q ∧ (s.port q).downAt = some t0 ∧ 14000000 ≤ s.tick - t0
        | .unacknowledged => s.blocked p = false ∧ ∃ t0, st.unackedSince = some t0 ∧ 70000000 ≤ s.tick - t0) →
      Completes (exec (.pathFail p cause) s) (fun t => SMap.find t.streams p = none ∧ (0, 1) ∈ t.irqs ∧
        (streamJob p < 256 → (t.job (streamJob p)).cancelling = true) ∧
        (cause = .portDown → ∀ (k : Nat) (y : Stream), SMap.find s.streams k = some y → y.port = st.port →
          SMap.find t.streams k = none ∧ (streamJob k < 256 → (t.job (streamJob k)).cancelling = true))))

/-- Frames: one that arrives twice has no second effect; DATA stores its bytes, or ROP of the old and its own, once,
and subtracts them from the barrier named at its destination, whose failing check goes back to the sender (logs 26, 49);
RAFT adds a contribution to its chunk in the group's reduction area; AREQ performs and answers with the old value, and answers a copy from the reply
cache; AREP completes or defers a remote atomic; ACK frees what it covers but an AREQ without its reply; a NOTE of member 0 sets MODE or HOLD (R255, R269,
R320, R422 to R424, R433, R434). -/
def FrameEventsHold : Prop :=
  ∀ (s s1 s2 : State) (f : Frame) (j k key : Nat) (ls : List Loc) (ts : List Nat),
    let moved (t : State) : State := { s with rgs := t.rgs, streams := t.streams, out := t.out }
    (∀ i kind, (kind, i) ∈ [(0, Instr.dataFrame f), (1, .raftFrame f), (5, .noteMode1 f), (5, .noteMode0 f), (5, .noteHold f)] →
      s.receive f kind = .take s1 j k → s1.stale k f.seq = true → exec i s = .next s1) ∧
    (s.receive f 0 = .take s1 j k → s1.stale k f.seq = false → (s1.stream k).notes = [] → f.tsv = false → f.rbar = 0 →
      s.poison = [] → s.MemWf →
      s1.locate (s1.remoteParty j) .store 1 (toWord f.addr) f.payload.length = (s2, .ok ls ts) →
      s2.mem = s.mem → s2.memKey = s.memKey →
      ls.length = f.payload.length → PlainLocs ls key → Completes (exec (.dataFrame f) s) (fun t =>
        (moved t).Stores ls ((List.range ((f.payload.length + 15) / 16)).flatMap (fun i =>
          ropPart f.op i (((ls.map s.readLoc).drop (16 * i)).take 16) ((f.payload.drop (16 * i)).take 16))) t ∧
        t.stale k f.seq = true ∧ t.ctxs = s.ctxs)) ∧
    (let p := { s1.remoteParty j with xtab := s1.sharedMap j }; let bar := toWord f.rbar
     s.receive f 0 = .take s1 j k → s1.stale k f.seq = false → (s1.stream k).notes = [] → f.rbar ≠ 0 → f.payload ≠ [] →
      s1.locate (s1.remoteParty j) .store 1 (toWord f.addr) f.payload.length = (s2, .ok ls ts) → s2.mapReady j = .ok s2 .unit →
      (s2.barCheck p bar = .ok s2 none → (f.op = 0 ∨ ls.any s2.poisoned = false) →
        ∀ u : State, exec (.dataFrame { f with rbar := 0 }) s = .next u →
          exec (.dataFrame f) s = .next (u.barSub p bar f.payload.length).1) ∧
      (∀ (c n : Nat) (a : Word), s2.barCheck p bar = .fault c n a → s2.portReady = true → Completes (exec (.dataFrame f) s) (fun t =>
        s2.SameBytes t ∧ t.stale k f.seq = true ∧ ∃ h : Frame, t.out = s2.out ++ [h] ∧ h.kind = 4 ∧ h.op = 0 ∧ h.seq = f.seq ∧
          h.nack = some (if c = 0x2C then 8 else n, a.toNat) ∧ h.dstm = f.srcm))) ∧
    (s.receive f 0 = .take s1 j k → s1.stale k f.seq = false → (s1.stream k).notes = [] → f.rbar = 0 → f.op ≠ 0 →
      f.payload ≠ [] → s2.portReady = true →
      s1.locate (s1.remoteParty j) .store 1 (toWord f.addr) f.payload.length = (s2, .ok ls ts) → ls.any s2.poisoned = true →
      Completes (exec (.dataFrame f) s) (fun t => s2.SameBytes t ∧ t.stale k f.seq = true ∧ ∃ h : Frame,
        t.out = s2.out ++ [h] ∧ h.kind = 4 ∧ h.op = 0 ∧ h.seq = f.seq ∧ h.nack.map (·.1) = some 8 ∧ h.dstm = f.srcm)) ∧
    (s.fz = true → s.receive f 0 = .take s1 j k → s1.stale k f.seq = false → f.payload ≠ [] →
      s1.locate (s1.remoteParty j) .store 1 (toWord f.addr) f.payload.length = (s2, .held true ts) →
      Completes (exec (.dataFrame f) s) (fun t => f ∈ t.heldFrames ∧ t.stale k f.seq = false ∧ s2.SameBytes t)) ∧
    (frameSound f = false → exec (.dataFrame f) s = .next (s.grow gFrameDrop 1)) ∧
    (let a := (s1.rg f.group).chunk f.round f.chunk; let at0 := s1.areaLocs f.group f.round f.chunk f.payload.length
     s.receive f 1 = .take s1 j k → s1.stale k f.seq = false → (s1.stream k).notes = [] → s1.rgEn f.group = true →
      s1.rgJob f.group = j → f.ep = true → f.red = false → a.final = false → f.srcm ∉ a.senders → a.senders.length + 1 < s1.rgMembers f.group →
      s.poison = [] → s.MemWf → s1.areaReady at0 = true →
      Completes (exec (.raftFrame f) s) (fun t => (t.rg f.group).chunk f.round f.chunk =
          { a with senders := f.srcm :: a.senders, len := f.payload.length } ∧
        { moved t with ports := t.ports, engqs := t.engqs }.Stores at0
          (addChunk f.op (if a.senders = [] then [] else at0.map s.readLoc) f.payload) t ∧
        t.stale k f.seq = true ∧ t.ctxs = s.ctxs)) ∧
    (s.receive f 2 = .take s1 j k → s1.portReady = true →
      (∀ n old : Nat, (s1.stream k).replies.find? (fun r => r.1 == f.seq) = some (n, old) → Completes (exec (.areq f) s) (fun t =>
        s.SameBytes t ∧ ∃ a : Frame, t.out = s1.out ++ [a] ∧ a.kind = 3 ∧ a.op = 0 ∧ a.seq = f.seq ∧ a.payload = bytesOf 8 old)) ∧
      (let old := ofBytes (ls.map s.readLoc)
       (∀ r ∈ (s1.stream k).replies, r.1 ≠ f.seq) → (s1.stream k).notes = [] → (s1.stream k).freed < f.seq → s1.stale k f.seq = false →
        s1.cachedReplies k < 256 → s1.locate (s1.remoteParty j) .atomic f.chunk (toWord f.addr) f.chunk = (s2, .ok ls ts) →
        s2.mem = s.mem → s2.memKey = s.memKey → s.poison = [] → s.MemWf → ls.length = f.chunk → PlainLocs ls key →
        Completes (exec (.areq f) s) (fun t =>
          (moved t).Stores ls (bytesOf f.chunk (areqValue f.op f.chunk old (ofBytes (f.payload.take 8)) (ofBytes (f.payload.drop 8)))) t ∧
          t.stale k f.seq = true ∧ t.ctxs = s.ctxs ∧ ∃ a : Frame, t.out = s1.out ++ [a] ∧ a.kind = 3 ∧ a.op = 0 ∧
            a.seq = f.seq ∧ a.payload = bytesOf 8 (if f.op / 16 = 2 then 0 else old)))) ∧
    (s.receive f 3 = .take s1 j k → ∀ r ∈ s.remotes, r.stream = k → r.seq = f.seq → Completes (exec (.arep f) s) (fun t =>
      s.SameBytes t ∧ t.ctxs = s.ctxs ∧ (f.op = 1 → { r with busyAt := some s.tick } ∈ t.remotes) ∧
      (f.op ≠ 1 → r.awaits = true → { r with reply := some (ofBytes f.payload), busyAt := none } ∈ t.remotes))) ∧
    (s.receive f 4 = .take s1 j k → f.nack = none → (s.stream k).queue = [] → Completes (exec (.ack f) s) (fun t => s.SameBytes t ∧ t.ctxs = s.ctxs ∧
      (t.stream k).kept = (s.stream k).kept.filter (fun x => f.acked < x.frame.seq || s.replyDue k x.frame.seq) ∧ t.remotes = s.remotes)) ∧
    (∀ (q n c a : Nat) (e : EngQ) (r : Rec), s.receive f 4 = .take s1 j k → f.nack = some (c, a) → s1.engqs = [(q, e)] →
      e.run = [r] → r.waits = [(k, n)] → f.seq ≤ n → exec (.ack f) s = .next (s1.failRun q r.seq 0x2B c (toWord a))) ∧
    (s.receive f 5 = .take s1 j k → s1.stale k f.seq = false → s1.rgEn f.group = true → s1.rgJob f.group = j →
      (s1.stream k).notes = [] → (s1.stream k).window = [] → f.seq ≠ (s1.stream k).acked + 1 →
      ∀ c : Nat × Instr, c ∈ [(0, Instr.noteMode1 f), (1, .noteMode0 f), (2, .noteHold f)] → f.op = c.1 →
        Completes (exec c.2 s) (fun t => t.rgs = s1.rgs ∧ (t.stream k).notes = [f] ∧ s.SameBytes t ∧ t.ctxs = s.ctxs)) ∧
    (s.receive f 5 = .take s1 j k → s1.stale k f.seq = false → s1.rgEn f.group = true → s1.rgJob f.group = j → f.srcm = 0 →
      (s1.stream k).notes = [] → (s1.stream k).window = [] → f.seq = (s1.stream k).acked + 1 → s.rafts = [] → let tells (i : Instr) (p : RGroup → Prop) : Prop := Completes (exec i s) (fun t =>
        p (t.rg f.group) ∧ (f.paths = [] → (t.rg f.group).peers = (s1.rg f.group).peers) ∧ (t.rg f.group).epoch = ofBytes (f.payload.take 8) ∧ s.SameBytes t ∧ t.ctxs = s.ctxs)
      (f.op = 0 → tells (.noteMode1 f) (fun r => r.mode = 1 ∧ r.hold = false)) ∧
      (f.op = 1 → tells (.noteMode0 f) (fun r => r.mode = 0 ∧ r.hold = false)) ∧
      (f.op = 2 → tells (.noteHold f) (fun r => r.hold = true ∧ s.rgMemb f.group ∈ r.answered)))

/-- Trust in switches: verified firmware has an exchange start with each switch of a pending path, step by step, each request
with an id of its own; the SM3 digest of the measurement record must be one that the job's descriptor lists; a switch that
finishes is accepted and sent its key;
with every switch keyed the path is attested; a failure or a timeout refuses it, and the end of a session makes it
pending again (R14, R412, R426 to R429). -/
def TrustEventsHold : Prop :=
  ∀ (s : State) (g sw : Nat), let r := s.rg g
    let sends (t : State) (y : Exchange) (kind code : Nat) (body : List Byte) : Prop :=
      t.rid = (s.rid + 1) % 2 ^ 32 ∧ { y with sent := s.tick, rid := s.rid } ∈ t.exchanges ∧
      ∃ m : Mgmt, t.mgmt = s.mgmt ++ [m] ∧ m.kind = kind ∧ m.code = code ∧ m.body = body ∧ m.rid = s.rid
    (s.boot.code ≠ 2 → exec (.switchAttest g sw) s = .next s) ∧
    (s.rgEn g = true → r.path = .pending → s.boot.code = 2 →
      ((s.pathSwitches g = none ∨ s.readTrust (s.rgJob g) = .bad) → Completes (exec (.switchAttest g sw) s) (fun t =>
        (t.rg g).path = .refused)) ∧
      (∀ n pg, s.pathSwitches g = some n → s.readTrust (s.rgJob g) = .wait (some pg) →
        exec (.switchAttest g sw) s = .next (s.request (s.rgJob g) pg 4)) ∧
      (∀ n, s.pathSwitches g = some n → s.trustOk (s.rgJob g) = true → sw < n → sw ∉ r.accepted →
        (∀ x ∈ s.exchanges, ¬(x.group = g ∧ x.sw = sw)) → (s.exchanges.filter (fun x => !x.session)).length < 64 →
        Completes (exec (.switchAttest g sw) s) (fun t => sends t ⟨g, sw, false, 0, [], 0, 0⟩ 0 0x84 [] ∧
          t = { s with exchanges := s.exchanges ++ [⟨g, sw, false, 0, [], s.tick, s.rid⟩], mgmt := t.mgmt, rid := t.rid }))) ∧
    (∀ x : Exchange, s.exchange g sw false = some x → let code := spdmCodes.getD x.step 0; let next := spdmCodes.getD (x.step + 1) 0
      let i (v : Bool) (b : List Byte) : Instr := .spdmResponse g sw v b
      (∀ b : List Byte, (code ≠ 0x81 → code ≠ 0xE0 → code ≠ 0xE5 → Completes (exec (i true b) s) (fun t =>
          t = { s with exchanges := t.exchanges, mgmt := t.mgmt, rid := t.rid } ∧ sends t { x with step := x.step + 1 } 0 next [])) ∧
        (code = 0x81 → b.length = 32 → Completes (exec (i true b) s) (fun t =>
          t = { s with exchanges := t.exchanges, mgmt := t.mgmt, rid := t.rid } ∧
          sends t { x with step := x.step + 1, record := b } 0 next [])) ∧
        (code = 0xE0 → s.digestOk (s.rgJob g) (sm3 (x.record ++ b)) = true → Completes (exec (i true b) s) (fun t =>
          t = { s with exchanges := t.exchanges, mgmt := t.mgmt, rid := t.rid } ∧
          sends t { x with step := x.step + 1, record := x.record ++ b } 0 next [])) ∧
        (code = 0xE5 → Completes (exec (i true b) s) (fun t =>
          t = { s with exchanges := t.exchanges, mgmt := t.mgmt, rid := t.rid, rgs := t.rgs } ∧ sw ∈ (t.rg g).accepted ∧
          (t.rg g).path = r.path ∧ sends t { x with session := true } 1 0xFE (s.keyPayload g sw))) ∧
        ∀ v : Bool, (v = false ∨ code = 0x81 ∧ b.length ≠ 32 ∨ code = 0xE0 ∧ (s.readTrust (s.rgJob g) = .bad ∨
            ∃ ds, s.readTrust (s.rgJob g) = .digests ds ∧ sm3 (x.record ++ b) ∉ ds)) →
          Completes (exec (i v b) s) (fun t => (t.rg g).path = .refused ∧ ∀ y ∈ t.exchanges, ¬(y.group = g ∧ y.sw = sw)))) ∧
    (∀ x, s.exchanges.find? (fun x => x.group == g && x.sw == sw && !r.keyed.contains sw) = some x →
      280000000 ≤ s.tick - x.sent → Completes (exec (.spdmTimeout g sw) s) (fun t => (t.rg g).path = .refused)) ∧
    ((s.exchange g sw true).isSome = true →
      Completes (exec (.keyDeliveryResponse g sw false) s) (fun t => (t.rg g).path = .refused) ∧
      (∀ n, s.pathSwitches g = some n → (∃ i, i < n ∧ i ≠ sw ∧ i ∉ r.keyed) →
        Completes (exec (.keyDeliveryResponse g sw true) s) (fun t => t = { s with rgs := t.rgs } ∧ sw ∈ (t.rg g).keyed ∧
          (t.rg g).path = r.path)) ∧
      (∀ n, s.pathSwitches g = some n → (∀ i, i < n → i = sw ∨ i ∈ r.keyed) → r.path = .pending →
        Completes (exec (.keyDeliveryResponse g sw true) s) (fun t => (t.rg g).path = .attested)) ∧
      (r.path = .attested → Completes (exec (.sessionEnded g sw) s) (fun t => (t.rg g).path = .pending ∧
        ∀ x ∈ t.exchanges, x.group ≠ g)) ∧
      (r.path ≠ .attested → Completes (exec (.sessionEnded g sw) s) (fun t => t = { s with exchanges := t.exchanges, rgs := t.rgs } ∧
        (t.rg g).path = r.path ∧ ∀ x ∈ t.exchanges, ¬(x.group = g ∧ x.sw = sw))))

/-! ### Statements of several parts -/

/-- At a context that runs, with no replay entry, no asynchronous trap due, no pre-emption request that finds it
waiting at a yield point and no earlier access of its core's port behind which it stands after a freeze, a step whose
fetch gives words that decode to an instruction is `exec` of that instruction in the state that the fetch leaves, with
the words kept for as long as the instruction waits (R116, R117, R200, R373, R387). A step whose fetched words are no
instruction takes an illegal-instruction trap at PC; one whose fetch fails a check takes the trap of that check (R50,
R59, R117). A lane's turn runs the word at the head of its queue, and what the lane has to do by then; an engine's turn
the record at the head of its queue, where none that it popped before waits to start; and an event's turn the event
(R203, R216, R244; log 1). -/
def Obligations.StepRunsWhatItFetches : Prop :=
  StepRunsFetchedInstructionHold ∧ StepTrapsOnBadFetchHold ∧ StepRunsHeadsHold

/-- An LD or ST whose access fails a check of R122 traps at its own PC, with the cause of that check, the check's
number in INFO and the faulting address (R122, R368). LD of a reserved size, or of 16 bytes into an odd register, is an
illegal-instruction trap, and so is such an ST (R37, R120). -/
def Obligations.AccessTraps : Prop :=
  FailedChecksTrapHold ∧ BadSizesTrapHold

/-- Each AMO completes: the home takes the new value of the table, g(d) the old value zero-extended, and nothing else
changes (R159 to R164). CAS completes: with the expected value at the home it stores g(b), else it stores nothing; g(d)
takes the old value zero-extended either way (R162). Each RED completes: the home takes the new value of the table, and
no register changes (R162, R163). -/
def Obligations.AtomicsAndReductions : Prop :=
  AtomicsHold ∧ CompareAndSwapHold ∧ ReductionsHold

/-- The mask operations complete in every state on all 256 bits (R141). The comparisons complete on every type: bit k
of the mask is the comparison of the elements where element k is active, and 0 elsewhere; VCMP.LT and VCMP.LE with a
NaN are false and raise NV (R136). -/
def Obligations.MasksAndComparisons : Prop :=
  MaskOperationsHold ∧ VectorComparisonsHold

/-- VRED completes: element 0 of vd takes the root of the balanced tree over the active elements, or the empty value;
the other elements of vd, and every other register, keep theirs (R149). VSCAN completes: each active element of vd
takes the sum, in ascending order and rounded at each step, of the active elements up to it; the others keep theirs
(R150). -/
def Obligations.VectorReductionsAndScan : Prop :=
  VectorReductionsHold ∧ VectorScanHold

/-- The immediate operations, the immediate shifts, LUI and ADDPC complete in every state with the values of R103 to
R106: the immediate sign-extended, or zero-extended for ANDI, ORI, XORI and SLTNI. CLZ, CTZ and POPC complete in every
state: the zero bits above the highest one bit, those below the lowest one bit, 64 of each for zero, and the number of
one bits (R101). -/
def Obligations.ImmediatesAndBitCounts : Prop :=
  ImmediateOperationsHold ∧ BitCountsHold

/-- ST completes where its checks pass, its pages are present and the side log is empty: the low bytes of g(d), or of
g(d) and g(d + 1) for 16 bytes, are stored at the address that the access resolves to; no register changes (R119, R120,
R125). A store whose page is absent retires into the side log, where there is room, and leaves every byte as it was:
one entry at its address, behind those that stand there (R125, R407). -/
def Obligations.StoresAndSideLog : Prop :=
  StoresHold ∧ SideLogStoresHold

/-- A vector instruction on a type that it does not take is an illegal-instruction trap with no effect, and so is a
conversion between equal or reserved types (R38, R134, R139). VCVT completes on two different types: active elements
below both counts are converted, all others keep theirs (R69, R139). -/
def Obligations.VectorTypesAndConversion : Prop :=
  VectorTypeTrapsHold ∧ VectorConversionHold

/-- PUSH, PUSHF, VSEND and LPUSH complete where their queue exists on the core and has room: what they send stands last
in that queue, of every lane that the mask names for an LPUSH where no column of them is scrubbed, and nothing else
changes. PUSH without an even register or without its queue, and the others on another class of core, are illegal; a
PUSH to a full queue waits. An empty mask sends nothing (R55, R183 to R187). QSTAT reports a queue that exists on the
core: FREE, USED, whether a fault holds it and its code, and the entries popped since the context was created; for the
lane queues USED is the greatest of the 16 lanes. A queue that does not exist there is illegal (R188). -/
def Obligations.QueuePushesAndStatus : Prop :=
  QueuePushesHold ∧ QueueStatusHold

/-- The six branches complete in every state: PC plus 4 times the signed 13-bit count where the condition holds, else
the next instruction (R107, R114). J, JAL and JALR complete in every state: JAL links g31, JALR links g(d) after g(a)
is read and clears bits 1:0 of its target (R108, R109, R114). -/
def Obligations.BranchesAndJumps : Prop :=
  BranchesHold ∧ JumpsHold

/-- FMT enters its word in the format queue, if there is room, and completes. MTILE, where its descriptor, its format
word and its operands pass their checks, writes the product into the cells of its accumulator tile: masked cells take
MVAL, the others the dot product of their row and column, on top of the cell's value or from zero, or combined over
slices; no other cell and no byte of data changes, and the record is in flight (R245, R249, R258 to R262). EPI, where
its descriptor and its operands pass their checks and strict mode meets no break: each run of cells is quantised under
its eddy register, from the bank or from its image, its codes, scale codes and image are stored, the bank takes its
residue, and the record completes with the flags of its runs (R89, R249, R263, R264, R366). -/
def Obligations.MatrixAndEpilogueRecords : Prop :=
  MatrixRecordsHold ∧ EpilogueRecordsHold

/-- The windows of an address: a range within its bounds that the party may reach resolves to the bytes of the own
scratchpad (window 1), of a scratchpad of the cluster (2), of lane scratch (3), and of a bank row (4); a range beyond
the bounds fails check 3, a reserved window check 1, and window 2 fails check 6 at a core that another job owns (R122,
R302, R358). Second-tier memory through an extent: an invalid entry or an offset at or beyond its size fails check 2, a
range that runs beyond it check 3, a store to a read-only extent check 4, a store to a sealed range check 5; a range
within one present page that permits the access is the bytes of that page under the party's key (R122, R398 to R402).
-/
def Obligations.AddressesResolve : Prop :=
  WindowsResolveHold ∧ ExtentsResolveHold

/-- Streams and words: a lane whose queue holds a word starts a stream when it is free; an issued word retires at its
tick; a faulted stream is discarded up to its HALTL, and one whose HALTL has issued leaves nothing to discard; the
oldest VFIFO entry lands in the buffers of its lanes, 12 ticks after its acceptance and 2 after the last. A stream that
starts, and the end of a discard, change nothing else of the lane but the write-buffer entries that drain (R203, R209,
R210, R212, R238, R334). The confluence tree: a sum whose quadrants are settled is combined in the positions of its
lanes, 8 ticks after the last contribution of one quadrant and 14 after that of several, and its words are in the
receiving lane's scratch; a ring sum's partial goes on to the next stack; a quadrant that cannot contribute any more is
absent (R326, R344 to R347, R417). -/
def Obligations.StreamAndSumEvents : Prop :=
  StreamEventsHold ∧ SumEventsHold

/-- Taking a trap at unit level where the job has a handler and the frame can be written: the frame is stored at
TFRAME, with PC, STATUS, ADDR, the trapping words, EXTRA, g1 to g8 and the replay entries at their offsets; the level
becomes supervisor and PC HENTRY of extent 14, the handler's loop entries are inactive, and every register, the unit's
loop entries and FPST stay. A trap of a service task, which writes its frame in the firmware's own data, or at another
level, for an uncorrectable error, without a handler, or whose frame fails a check is fatal. A frame whose store is
held leaves the state of before the instruction: the trap is taken at a later turn (R281, R369 to R371, R375, R376).
Returning from a trap: RTRAP of a frame without replay entries, and REINJ of any frame, whose disposition is 00 or 01,
complete: they restore PC, g1 to g8 and the level from the frame at TFRAME and leave the supervisor's loop entries
inactive; REINJ leaves the frame's replay entries to be issued again. The read-only fields of STATUS are those written
at the trap, whatever the frame holds there now. After a record fault the record's hold is released as well, and a
disposition of 01 drops the record. A disposition of 10 is fatal, 11 is illegal, and so is RTRAP of a frame with replay
entries. At unit level both are denied (R194, R371, R372). -/
def Obligations.TakingAndLeavingTraps : Prop :=
  TakingATrapHold ∧ TrapReturnsHold

/-- The lane words that configure, wait, mark or end: at their tick they complete, with their registers set and nothing
else of the lane changed; a repeated word that runs keeps its own SCP after a SETSC, and its own KPOS after a MASKK. A
reserved format is a stream fault (R207, R222 to R225, R237, R238). The words on accumulators: ACCZ clears an element,
ACCMV copies a bank to another or to lane scratch, POPA pops 64 elements from an activation buffer, STATS applies the
online update of R229, QST quantises a run into lane scratch and RSEND sends a contribution to its sum. A repeated word
does its first execution at its tick and leaves the others to theirs; what goes to lane scratch arrives at the tick at
which the word is done (R207, R216, R229 to R236). -/
def Obligations.LaneSettingsAndAccumulators : Prop :=
  LaneSettingsHold ∧ LaneAccumulatorsHold

/-- The collective records without a slot, where their descriptors and operands pass their checks: QPW and QPWR to the
own member store the source, or ROP of the old value and the source, at the destination; RAFTX sets up its reduction,
which starts at once; RAFTA stores the 256 bytes that each reduced chunk of 272 gives under its exponent byte (R96,
R249, R269 to R271). A slot with an entry and a due trigger fires: the slot is free at once, whatever becomes of the
entry; where fewer than 16 records run and the entry starts, it is in flight; an entry that must wait stands popped
among those in flight, and is tried again (R244, R267, R268). -/
def Obligations.CollectiveRecords : Prop :=
  CollectiveRecordsHold ∧ SlotsFireHold

/-- The words on banks and rows: ACT opens a row of a closed bank and adds it to a port, PRE and PREA close banks and
take them out of their ports, REF refreshes a closed bank and moves its deadline, WRROW writes a row from lane scratch.
ACT and REF of an open bank are stream faults, before any hold of theirs (R217 to R221). What an issued word does at a
later tick: unit h of a WRROW arrives in the write buffer with the bytes read a tick before, and the next unit is read
then, as lane scratch was at the beginning of the tick; bytes that a word writes to lane scratch stand there from their
tick on (R209, R216, R221). -/
def Obligations.LaneBanks : Prop :=
  LaneBanksHold ∧ LaneArrivalsHold

/-- The vector stores complete where every active element passes its checks in memory, no page gains the checked
attribute by them, and the side log is empty: the elements are stored in ascending index, so that of two at one byte
the higher stays; no register changes (R142 to R144). VQST completes where its registers and descriptor are legal,
strict mode meets no break, every byte that it writes passes its checks in memory, no page gains the checked attribute
by them, and the side log is empty: the codes, scale codes or flags of the run are stored, the eddy register takes the
run's residue, tag and next index, FPST the run's flags, none without an active element, and nothing else changes
(R133, R153 to R157). -/
def Obligations.VectorAndQuantisingStores : Prop :=
  VectorStoresHold ∧ QuantisingStoresHold

/-- Frames: one that arrives twice has no second effect; DATA stores its bytes, or ROP of the old and its own, once,
and subtracts them from the barrier named at its destination, whose failing check goes back to the sender (logs 26,
49); RAFT adds a contribution to its chunk in the group's reduction area; AREQ performs and answers with the old value,
and answers a copy from the reply cache; AREP completes or defers a remote atomic; ACK frees what it covers but an AREQ
without its reply; a NOTE of member 0 sets MODE or HOLD (R255, R269, R320, R422 to R424, R433, R434). Trust in
switches: verified firmware has an exchange start with each switch of a pending path, step by step, each request with
an id of its own; the SM3 digest of the measurement record must be one that the job's descriptor lists; a switch that
finishes is accepted and sent its key; with every switch keyed the path is attested; a failure or a timeout refuses it,
and the end of a session makes it pending again (R14, R412, R426 to R429). -/
def Obligations.FrameAndTrustEvents : Prop :=
  FrameEventsHold ∧ TrustEventsHold

end Statements
end

