-- ==== Sys2Proof/Laws/Dispatch.lean ====
section
/-! SUPPORT. `exec` of each instruction is its meaning. -/

namespace Sys2Proof.Machine

@[simp] theorem exec_add (d) (a) (b) (s : State) : exec (.add d a b) s = execAdd d a b s := rfl
@[simp] theorem exec_sub (d) (a) (b) (s : State) : exec (.sub d a b) s = execSub d a b s := rfl
@[simp] theorem exec_and (d) (a) (b) (s : State) : exec (.and d a b) s = execAnd d a b s := rfl
@[simp] theorem exec_or (d) (a) (b) (s : State) : exec (.or d a b) s = execOr d a b s := rfl
@[simp] theorem exec_xor (d) (a) (b) (s : State) : exec (.xor d a b) s = execXor d a b s := rfl
@[simp] theorem exec_andn (d) (a) (b) (s : State) : exec (.andn d a b) s = execAndn d a b s := rfl
@[simp] theorem exec_shl (d) (a) (b) (s : State) : exec (.shl d a b) s = execShl d a b s := rfl
@[simp] theorem exec_shr (d) (a) (b) (s : State) : exec (.shr d a b) s = execShr d a b s := rfl
@[simp] theorem exec_sra (d) (a) (b) (s : State) : exec (.sra d a b) s = execSra d a b s := rfl
@[simp] theorem exec_rotr (d) (a) (b) (s : State) : exec (.rotr d a b) s = execRotr d a b s := rfl
@[simp] theorem exec_mul (d) (a) (b) (s : State) : exec (.mul d a b) s = execMul d a b s := rfl
@[simp] theorem exec_mulhi (d) (a) (b) (s : State) : exec (.mulhi d a b) s = execMulhi d a b s := rfl
@[simp] theorem exec_mulhn (d) (a) (b) (s : State) : exec (.mulhn d a b) s = execMulhn d a b s := rfl
@[simp] theorem exec_div (d) (a) (b) (s : State) : exec (.div d a b) s = execDiv d a b s := rfl
@[simp] theorem exec_divn (d) (a) (b) (s : State) : exec (.divn d a b) s = execDivn d a b s := rfl
@[simp] theorem exec_rem (d) (a) (b) (s : State) : exec (.rem d a b) s = execRem d a b s := rfl
@[simp] theorem exec_remn (d) (a) (b) (s : State) : exec (.remn d a b) s = execRemn d a b s := rfl
@[simp] theorem exec_min (d) (a) (b) (s : State) : exec (.min d a b) s = execMin d a b s := rfl
@[simp] theorem exec_max (d) (a) (b) (s : State) : exec (.max d a b) s = execMax d a b s := rfl
@[simp] theorem exec_minn (d) (a) (b) (s : State) : exec (.minn d a b) s = execMinn d a b s := rfl
@[simp] theorem exec_maxn (d) (a) (b) (s : State) : exec (.maxn d a b) s = execMaxn d a b s := rfl
@[simp] theorem exec_slt (d) (a) (b) (s : State) : exec (.slt d a b) s = execSlt d a b s := rfl
@[simp] theorem exec_sltn (d) (a) (b) (s : State) : exec (.sltn d a b) s = execSltn d a b s := rfl
@[simp] theorem exec_clz (d) (a) (s : State) : exec (.clz d a) s = execClz d a s := rfl
@[simp] theorem exec_ctz (d) (a) (s : State) : exec (.ctz d a) s = execCtz d a s := rfl
@[simp] theorem exec_popc (d) (a) (s : State) : exec (.popc d a) s = execPopc d a s := rfl
@[simp] theorem exec_addi (d) (a) (imm) (s : State) : exec (.addi d a imm) s = execAddi d a imm s := rfl
@[simp] theorem exec_andi (d) (a) (imm) (s : State) : exec (.andi d a imm) s = execAndi d a imm s := rfl
@[simp] theorem exec_ori (d) (a) (imm) (s : State) : exec (.ori d a imm) s = execOri d a imm s := rfl
@[simp] theorem exec_xori (d) (a) (imm) (s : State) : exec (.xori d a imm) s = execXori d a imm s := rfl
@[simp] theorem exec_slti (d) (a) (imm) (s : State) : exec (.slti d a imm) s = execSlti d a imm s := rfl
@[simp] theorem exec_sltni (d) (a) (imm) (s : State) : exec (.sltni d a imm) s = execSltni d a imm s := rfl
@[simp] theorem exec_shli (d) (a) (n) (s : State) : exec (.shli d a n) s = execShli d a n s := rfl
@[simp] theorem exec_shri (d) (a) (n) (s : State) : exec (.shri d a n) s = execShri d a n s := rfl
@[simp] theorem exec_srai (d) (a) (n) (s : State) : exec (.srai d a n) s = execSrai d a n s := rfl
@[simp] theorem exec_lui (d) (imm) (s : State) : exec (.lui d imm) s = execLui d imm s := rfl
@[simp] theorem exec_addpc (d) (imm) (s : State) : exec (.addpc d imm) s = execAddpc d imm s := rfl
@[simp] theorem exec_bEq (a) (b) (off) (s : State) : exec (.bEq a b off) s = execBEq a b off s := rfl
@[simp] theorem exec_bNe (a) (b) (off) (s : State) : exec (.bNe a b off) s = execBNe a b off s := rfl
@[simp] theorem exec_bLt (a) (b) (off) (s : State) : exec (.bLt a b off) s = execBLt a b off s := rfl
@[simp] theorem exec_bGe (a) (b) (off) (s : State) : exec (.bGe a b off) s = execBGe a b off s := rfl
@[simp] theorem exec_bLtn (a) (b) (off) (s : State) : exec (.bLtn a b off) s = execBLtn a b off s := rfl
@[simp] theorem exec_bGen (a) (b) (off) (s : State) : exec (.bGen a b off) s = execBGen a b off s := rfl
@[simp] theorem exec_j (off) (s : State) : exec (.j off) s = execJ off s := rfl
@[simp] theorem exec_jal (off) (s : State) : exec (.jal off) s = execJal off s := rfl
@[simp] theorem exec_jalr (d) (a) (imm) (s : State) : exec (.jalr d a imm) s = execJalr d a imm s := rfl
@[simp] theorem exec_loop (a) (imm) (s : State) : exec (.loop a imm) s = execLoop a imm s := rfl
@[simp] theorem exec_ld (d) (a) (sz) (off) (s : State) : exec (.ld d a sz off) s = execLd d a sz off s := rfl
@[simp] theorem exec_st (r) (a) (sz) (off) (s : State) : exec (.st r a sz off) s = execSt r a sz off s := rfl
@[simp] theorem exec_prefLd (a) (sz) (off) (s : State) : exec (.prefLd a sz off) s = execPrefLd a sz off s := rfl
@[simp] theorem exec_prefSt (a) (sz) (off) (s : State) : exec (.prefSt a sz off) s = execPrefSt a sz off s := rfl
@[simp] theorem exec_amoAdd (d) (a) (b) (ord) (sc) (wd) (s : State) : exec (.amoAdd d a b ord sc wd) s = execAmoAdd d a b ord sc wd s := rfl
@[simp] theorem exec_amoMin (d) (a) (b) (ord) (sc) (wd) (s : State) : exec (.amoMin d a b ord sc wd) s = execAmoMin d a b ord sc wd s := rfl
@[simp] theorem exec_amoMax (d) (a) (b) (ord) (sc) (wd) (s : State) : exec (.amoMax d a b ord sc wd) s = execAmoMax d a b ord sc wd s := rfl
@[simp] theorem exec_amoMinn (d) (a) (b) (ord) (sc) (wd) (s : State) : exec (.amoMinn d a b ord sc wd) s = execAmoMinn d a b ord sc wd s := rfl
@[simp] theorem exec_amoMaxn (d) (a) (b) (ord) (sc) (wd) (s : State) : exec (.amoMaxn d a b ord sc wd) s = execAmoMaxn d a b ord sc wd s := rfl
@[simp] theorem exec_amoAnd (d) (a) (b) (ord) (sc) (wd) (s : State) : exec (.amoAnd d a b ord sc wd) s = execAmoAnd d a b ord sc wd s := rfl
@[simp] theorem exec_amoOr (d) (a) (b) (ord) (sc) (wd) (s : State) : exec (.amoOr d a b ord sc wd) s = execAmoOr d a b ord sc wd s := rfl
@[simp] theorem exec_amoXor (d) (a) (b) (ord) (sc) (wd) (s : State) : exec (.amoXor d a b ord sc wd) s = execAmoXor d a b ord sc wd s := rfl
@[simp] theorem exec_amoSwap (d) (a) (b) (ord) (sc) (wd) (s : State) : exec (.amoSwap d a b ord sc wd) s = execAmoSwap d a b ord sc wd s := rfl
@[simp] theorem exec_cas (d) (a) (b) (ord) (sc) (wd) (s : State) : exec (.cas d a b ord sc wd) s = execCas d a b ord sc wd s := rfl
@[simp] theorem exec_redAdd (a) (b) (ord) (sc) (wd) (s : State) : exec (.redAdd a b ord sc wd) s = execRedAdd a b ord sc wd s := rfl
@[simp] theorem exec_redMin (a) (b) (ord) (sc) (wd) (s : State) : exec (.redMin a b ord sc wd) s = execRedMin a b ord sc wd s := rfl
@[simp] theorem exec_redMax (a) (b) (ord) (sc) (wd) (s : State) : exec (.redMax a b ord sc wd) s = execRedMax a b ord sc wd s := rfl
@[simp] theorem exec_redMinn (a) (b) (ord) (sc) (wd) (s : State) : exec (.redMinn a b ord sc wd) s = execRedMinn a b ord sc wd s := rfl
@[simp] theorem exec_redMaxn (a) (b) (ord) (sc) (wd) (s : State) : exec (.redMaxn a b ord sc wd) s = execRedMaxn a b ord sc wd s := rfl
@[simp] theorem exec_redAnd (a) (b) (ord) (sc) (wd) (s : State) : exec (.redAnd a b ord sc wd) s = execRedAnd a b ord sc wd s := rfl
@[simp] theorem exec_redOr (a) (b) (ord) (sc) (wd) (s : State) : exec (.redOr a b ord sc wd) s = execRedOr a b ord sc wd s := rfl
@[simp] theorem exec_redXor (a) (b) (ord) (sc) (wd) (s : State) : exec (.redXor a b ord sc wd) s = execRedXor a b ord sc wd s := rfl
@[simp] theorem exec_vadd (d) (a) (b) (mk) (ty) (s : State) : exec (.vadd d a b mk ty) s = execVadd d a b mk ty s := rfl
@[simp] theorem exec_vsub (d) (a) (b) (mk) (ty) (s : State) : exec (.vsub d a b mk ty) s = execVsub d a b mk ty s := rfl
@[simp] theorem exec_vmul (d) (a) (b) (mk) (ty) (s : State) : exec (.vmul d a b mk ty) s = execVmul d a b mk ty s := rfl
@[simp] theorem exec_vfma (d) (a) (b) (mk) (ty) (s : State) : exec (.vfma d a b mk ty) s = execVfma d a b mk ty s := rfl
@[simp] theorem exec_vfms (d) (a) (b) (mk) (ty) (s : State) : exec (.vfms d a b mk ty) s = execVfms d a b mk ty s := rfl
@[simp] theorem exec_vmin (d) (a) (b) (mk) (ty) (s : State) : exec (.vmin d a b mk ty) s = execVmin d a b mk ty s := rfl
@[simp] theorem exec_vmax (d) (a) (b) (mk) (ty) (s : State) : exec (.vmax d a b mk ty) s = execVmax d a b mk ty s := rfl
@[simp] theorem exec_vabs (d) (a) (mk) (ty) (s : State) : exec (.vabs d a mk ty) s = execVabs d a mk ty s := rfl
@[simp] theorem exec_vneg (d) (a) (mk) (ty) (s : State) : exec (.vneg d a mk ty) s = execVneg d a mk ty s := rfl
@[simp] theorem exec_vcmpEq (d) (a) (b) (mk) (ty) (s : State) : exec (.vcmpEq d a b mk ty) s = execVcmpEq d a b mk ty s := rfl
@[simp] theorem exec_vcmpNe (d) (a) (b) (mk) (ty) (s : State) : exec (.vcmpNe d a b mk ty) s = execVcmpNe d a b mk ty s := rfl
@[simp] theorem exec_vcmpLt (d) (a) (b) (mk) (ty) (s : State) : exec (.vcmpLt d a b mk ty) s = execVcmpLt d a b mk ty s := rfl
@[simp] theorem exec_vcmpLe (d) (a) (b) (mk) (ty) (s : State) : exec (.vcmpLe d a b mk ty) s = execVcmpLe d a b mk ty s := rfl
@[simp] theorem exec_vsel (d) (a) (b) (mk) (ty) (s : State) : exec (.vsel d a b mk ty) s = execVsel d a b mk ty s := rfl
@[simp] theorem exec_vand (d) (a) (b) (mk) (ty) (s : State) : exec (.vand d a b mk ty) s = execVand d a b mk ty s := rfl
@[simp] theorem exec_vor (d) (a) (b) (mk) (ty) (s : State) : exec (.vor d a b mk ty) s = execVor d a b mk ty s := rfl
@[simp] theorem exec_vxor (d) (a) (b) (mk) (ty) (s : State) : exec (.vxor d a b mk ty) s = execVxor d a b mk ty s := rfl
@[simp] theorem exec_vshl (d) (a) (b) (mk) (ty) (s : State) : exec (.vshl d a b mk ty) s = execVshl d a b mk ty s := rfl
@[simp] theorem exec_vshr (d) (a) (b) (mk) (ty) (s : State) : exec (.vshr d a b mk ty) s = execVshr d a b mk ty s := rfl
@[simp] theorem exec_vsra (d) (a) (b) (mk) (ty) (s : State) : exec (.vsra d a b mk ty) s = execVsra d a b mk ty s := rfl
@[simp] theorem exec_vcvt (d) (a) (rz) (sty) (mk) (ty) (s : State) : exec (.vcvt d a rz sty mk ty) s = execVcvt d a rz sty mk ty s := rfl
@[simp] theorem exec_vexp2 (d) (a) (mk) (ty) (s : State) : exec (.vexp2 d a mk ty) s = execVexp2 d a mk ty s := rfl
@[simp] theorem exec_vlog2 (d) (a) (mk) (ty) (s : State) : exec (.vlog2 d a mk ty) s = execVlog2 d a mk ty s := rfl
@[simp] theorem exec_vrcp (d) (a) (mk) (ty) (s : State) : exec (.vrcp d a mk ty) s = execVrcp d a mk ty s := rfl
@[simp] theorem exec_vrsq (d) (a) (mk) (ty) (s : State) : exec (.vrsq d a mk ty) s = execVrsq d a mk ty s := rfl
@[simp] theorem exec_mopAnd (d) (a) (b) (s : State) : exec (.mopAnd d a b) s = execMopAnd d a b s := rfl
@[simp] theorem exec_mopOr (d) (a) (b) (s : State) : exec (.mopOr d a b) s = execMopOr d a b s := rfl
@[simp] theorem exec_mopXor (d) (a) (b) (s : State) : exec (.mopXor d a b) s = execMopXor d a b s := rfl
@[simp] theorem exec_mopAndn (d) (a) (b) (s : State) : exec (.mopAndn d a b) s = execMopAndn d a b s := rfl
@[simp] theorem exec_mopNot (d) (a) (s : State) : exec (.mopNot d a) s = execMopNot d a s := rfl
@[simp] theorem exec_vld (d) (a) (mk) (ty) (s : State) : exec (.vld d a mk ty) s = execVld d a mk ty s := rfl
@[simp] theorem exec_vst (d) (a) (mk) (ty) (s : State) : exec (.vst d a mk ty) s = execVst d a mk ty s := rfl
@[simp] theorem exec_vlds (d) (a) (b) (mk) (ty) (s : State) : exec (.vlds d a b mk ty) s = execVlds d a b mk ty s := rfl
@[simp] theorem exec_vsts (d) (a) (b) (mk) (ty) (s : State) : exec (.vsts d a b mk ty) s = execVsts d a b mk ty s := rfl
@[simp] theorem exec_vgath (d) (a) (b) (mk) (ty) (s : State) : exec (.vgath d a b mk ty) s = execVgath d a b mk ty s := rfl
@[simp] theorem exec_vscat (d) (a) (b) (mk) (ty) (s : State) : exec (.vscat d a b mk ty) s = execVscat d a b mk ty s := rfl
@[simp] theorem exec_vbcast (d) (a) (mk) (ty) (s : State) : exec (.vbcast d a mk ty) s = execVbcast d a mk ty s := rfl
@[simp] theorem exec_vext (d) (a) (b) (ty) (s : State) : exec (.vext d a b ty) s = execVext d a b ty s := rfl
@[simp] theorem exec_vins (d) (a) (b) (ty) (s : State) : exec (.vins d a b ty) s = execVins d a b ty s := rfl
@[simp] theorem exec_vredAdd (d) (a) (mk) (ty) (s : State) : exec (.vredAdd d a mk ty) s = execVredAdd d a mk ty s := rfl
@[simp] theorem exec_vredMax (d) (a) (mk) (ty) (s : State) : exec (.vredMax d a mk ty) s = execVredMax d a mk ty s := rfl
@[simp] theorem exec_vredMin (d) (a) (mk) (ty) (s : State) : exec (.vredMin d a mk ty) s = execVredMin d a mk ty s := rfl
@[simp] theorem exec_vscan (d) (a) (mk) (ty) (s : State) : exec (.vscan d a mk ty) s = execVscan d a mk ty s := rfl
@[simp] theorem exec_vperm (d) (a) (b) (mk) (ty) (s : State) : exec (.vperm d a b mk ty) s = execVperm d a b mk ty s := rfl
@[simp] theorem exec_viota (d) (mk) (ty) (s : State) : exec (.viota d mk ty) s = execViota d mk ty s := rfl
@[simp] theorem exec_vqstI8 (d) (a) (b) (mk) (ty) (s : State) : exec (.vqstI8 d a b mk ty) s = execVqstI8 d a b mk ty s := rfl
@[simp] theorem exec_vqstN8 (d) (a) (b) (mk) (ty) (s : State) : exec (.vqstN8 d a b mk ty) s = execVqstN8 d a b mk ty s := rfl
@[simp] theorem exec_vqstI16 (d) (a) (b) (mk) (ty) (s : State) : exec (.vqstI16 d a b mk ty) s = execVqstI16 d a b mk ty s := rfl
@[simp] theorem exec_vqstBf (d) (a) (b) (mk) (ty) (s : State) : exec (.vqstBf d a b mk ty) s = execVqstBf d a b mk ty s := rfl
@[simp] theorem exec_vqstMxi8 (d) (a) (b) (mk) (ty) (s : State) : exec (.vqstMxi8 d a b mk ty) s = execVqstMxi8 d a b mk ty s := rfl
@[simp] theorem exec_vqstMxf4 (d) (a) (b) (mk) (ty) (s : State) : exec (.vqstMxf4 d a b mk ty) s = execVqstMxf4 d a b mk ty s := rfl
@[simp] theorem exec_vqstMxf8 (d) (a) (b) (mk) (ty) (s : State) : exec (.vqstMxf8 d a b mk ty) s = execVqstMxf8 d a b mk ty s := rfl
@[simp] theorem exec_vqstRi32 (d) (a) (b) (mk) (ty) (s : State) : exec (.vqstRi32 d a b mk ty) s = execVqstRi32 d a b mk ty s := rfl
@[simp] theorem exec_fenceAcq (sc) (s : State) : exec (.fenceAcq sc) s = execFenceAcq sc s := rfl
@[simp] theorem exec_fenceRel (sc) (s : State) : exec (.fenceRel sc) s = execFenceRel sc s := rfl
@[simp] theorem exec_fenceSc (sc) (s : State) : exec (.fenceSc sc) s = execFenceSc sc s := rfl
@[simp] theorem exec_lfence (a) (all) (layer) (s : State) : exec (.lfence a all layer) s = execLfence a all layer s := rfl
@[simp] theorem exec_seal (d) (a) (s : State) : exec (.seal d a) s = execSeal d a s := rfl
@[simp] theorem exec_unseal (d) (a) (s : State) : exec (.unseal d a) s = execUnseal d a s := rfl
@[simp] theorem exec_barinit (d) (a) (sc) (s : State) : exec (.barinit d a sc) s = execBarinit d a sc s := rfl
@[simp] theorem exec_bararrive (d) (a) (trapf) (sc) (s : State) : exec (.bararrive d a trapf sc) s = execBararrive d a trapf sc s := rfl
@[simp] theorem exec_barwait (d) (a) (trapf) (sc) (s : State) : exec (.barwait d a trapf sc) s = execBarwait d a trapf sc s := rfl
@[simp] theorem exec_barpend (d) (a) (s : State) : exec (.barpend d a) s = execBarpend d a s := rfl
@[simp] theorem exec_cwait (d) (a) (s : State) : exec (.cwait d a) s = execCwait d a s := rfl
@[simp] theorem exec_cwb (d) (a) (s : State) : exec (.cwb d a) s = execCwb d a s := rfl
@[simp] theorem exec_cwbInv (d) (a) (s : State) : exec (.cwbInv d a) s = execCwbInv d a s := rfl
@[simp] theorem exec_ralign (a) (s : State) : exec (.ralign a) s = execRalign a s := rfl
@[simp] theorem exec_waitt (a) (s : State) : exec (.waitt a) s = execWaitt a s := rfl
@[simp] theorem exec_push (d) (q) (s : State) : exec (.push d q) s = execPush d q s := rfl
@[simp] theorem exec_pushf (d) (s : State) : exec (.pushf d) s = execPushf d s := rfl
@[simp] theorem exec_lpush (d) (a) (s : State) : exec (.lpush d a) s = execLpush d a s := rfl
@[simp] theorem exec_lpushImg (d) (a) (s : State) : exec (.lpushImg d a) s = execLpushImg d a s := rfl
@[simp] theorem exec_vsend (d) (a) (slot) (buf) (s : State) : exec (.vsend d a slot buf) s = execVsend d a slot buf s := rfl
@[simp] theorem exec_qstat (d) (q) (s : State) : exec (.qstat d q) s = execQstat d q s := rfl
@[simp] theorem exec_launch (d) (a) (q) (s : State) : exec (.launch d a q) s = execLaunch d a q s := rfl
@[simp] theorem exec_cancelLaunch (d) (a) (s : State) : exec (.cancelLaunch d a) s = execCancelLaunch d a s := rfl
@[simp] theorem exec_cancelGraph (d) (a) (s : State) : exec (.cancelGraph d a) s = execCancelGraph d a s := rfl
@[simp] theorem exec_cancelPhase (d) (a) (s : State) : exec (.cancelPhase d a) s = execCancelPhase d a s := rfl
@[simp] theorem exec_cancelJob (d) (a) (s : State) : exec (.cancelJob d a) s = execCancelJob d a s := rfl
@[simp] theorem exec_rdsr (d) (num) (s : State) : exec (.rdsr d num) s = execRdsr d num s := rfl
@[simp] theorem exec_wrsr (a) (num) (s : State) : exec (.wrsr a num) s = execWrsr a num s := rfl
@[simp] theorem exec_trap (code) (s : State) : exec (.trap code) s = execTrap code s := rfl
@[simp] theorem exec_rtrap (s : State) : exec (.rtrap) s = execRtrap s := rfl
@[simp] theorem exec_reinj (s : State) : exec (.reinj) s = execReinj s := rfl
@[simp] theorem exec_yield (s : State) : exec (.yield) s = execYield s := rfl
@[simp] theorem exec_halt (s : State) : exec (.halt) s = execHalt s := rfl
@[simp] theorem exec_xPrefix (xhi) (next) (s : State) : exec (.xPrefix xhi next) s = execXPrefix xhi next s := rfl
@[simp] theorem exec_idle (h) (s : State) : exec (.idle h) s = execIdle h s := rfl
@[simp] theorem exec_act (h) (port) (s : State) : exec (.act h port) s = execAct h port s := rfl
@[simp] theorem exec_pre (h) (s : State) : exec (.pre h) s = execPre h s := rfl
@[simp] theorem exec_prea (h) (ports) (s : State) : exec (.prea h ports) s = execPrea h ports s := rfl
@[simp] theorem exec_ref (h) (s : State) : exec (.ref h) s = execRef h s := rfl
@[simp] theorem exec_wrrow (h) (src) (s : State) : exec (.wrrow h src) s = execWrrow h src s := rfl
@[simp] theorem exec_setfmt (h) (xb) (code) (kcn) (s : State) : exec (.setfmt h xb code kcn) s = execSetfmt h xb code kcn s := rfl
@[simp] theorem exec_setsc (h) (par) (port) (src) (s : State) : exec (.setsc h par port src) s = execSetsc h par port src s := rfl
@[simp] theorem exec_maskk (h) (lim) (s : State) : exec (.maskk h lim) s = execMaskk h lim s := rfl
@[simp] theorem exec_gemv (h) (port) (buf) (a) (y8) (s : State) : exec (.gemv h port buf a y8) s = execGemv h port buf a y8 s := rfl
@[simp] theorem exec_gemvb (h) (port) (buf) (a) (nv) (y64) (s : State) : exec (.gemvb h port buf a nv y64) s = execGemvb h port buf a nv y64 s := rfl
@[simp] theorem exec_dotk (h) (port) (buf) (a) (y8) (s : State) : exec (.dotk h port buf a y8) s = execDotk h port buf a y8 s := rfl
@[simp] theorem exec_axpv (h) (port) (score) (out) (y16) (s : State) : exec (.axpv h port score out y16) s = execAxpv h port score out y16 s := rfl
@[simp] theorem exec_stats (h) (score) (out) (stat) (slot) (s : State) : exec (.stats h score out stat slot) s = execStats h score out stat slot s := rfl
@[simp] theorem exec_accz (h) (bank) (ninf) (first) (s : State) : exec (.accz h bank ninf first) s = execAccz h bank ninf first s := rfl
@[simp] theorem exec_accmvBank (h) (src) (dst) (s : State) : exec (.accmvBank h src dst) s = execAccmvBank h src dst s := rfl
@[simp] theorem exec_accmvScratch (h) (src) (off) (s : State) : exec (.accmvScratch h src off) s = execAccmvScratch h src off s := rfl
@[simp] theorem exec_popa (h) (buf) (first) (bank) (s : State) : exec (.popa h buf first bank) s = execPopa h buf first bank s := rfl
@[simp] theorem exec_qst (h) (strict) (desc) (s : State) : exec (.qst h strict desc) s = execQst h strict desc s := rfl
@[simp] theorem exec_rsendSum (h) (bank) (s : State) : exec (.rsendSum h bank) s = execRsendSum h bank s := rfl
@[simp] theorem exec_rsendMerge (h) (bank) (stat) (slot) (s : State) : exec (.rsendMerge h bank stat slot) s = execRsendMerge h bank stat slot s := rfl
@[simp] theorem exec_syncpt (h) (align) (id) (s : State) : exec (.syncpt h align id) s = execSyncpt h align id s := rfl
@[simp] theorem exec_laneLfence (h) (all) (layer) (s : State) : exec (.laneLfence h all layer) s = execLaneLfence h all layer s := rfl
@[simp] theorem exec_haltl (h) (s : State) : exec (.haltl h) s = execHaltl h s := rfl
@[simp] theorem exec_laneStreamStart (lane) (s : State) : exec (.laneStreamStart lane) s = execLaneStreamStart lane s := rfl
@[simp] theorem exec_laneWordRetire (lane) (s : State) : exec (.laneWordRetire lane) s = execLaneWordRetire lane s := rfl
@[simp] theorem exec_streamDiscardEnd (lane) (s : State) : exec (.streamDiscardEnd lane) s = execStreamDiscardEnd lane s := rfl
@[simp] theorem exec_vfifoLand (quad) (s : State) : exec (.vfifoLand quad) s = execVfifoLand quad s := rfl
@[simp] theorem exec_treeResultWrite (sum) (s : State) : exec (.treeResultWrite sum) s = execTreeResultWrite sum s := rfl
@[simp] theorem exec_ringSumArrive (sum) (s : State) : exec (.ringSumArrive sum) s = execRingSumArrive sum s := rfl
@[simp] theorem exec_quadrantAbsent (sum) (quad) (s : State) : exec (.quadrantAbsent sum quad) s = execQuadrantAbsent sum quad s := rfl
@[simp] theorem exec_refreshDeadlineReached (lane) (bank) (s : State) : exec (.refreshDeadlineReached lane bank) s = execRefreshDeadlineReached lane bank s := rfl
@[simp] theorem exec_guardRefresh (lane) (bank) (s : State) : exec (.guardRefresh lane bank) s = execGuardRefresh lane bank s := rfl
@[simp] theorem exec_laneReset (lane) (job) (s : State) : exec (.laneReset lane job) s = execLaneReset lane job s := rfl
@[simp] theorem exec_columnScrub (lane) (s : State) : exec (.columnScrub lane) s = execColumnScrub lane s := rfl
@[simp] theorem exec_tempHotEnter (stack) (celsius) (s : State) : exec (.tempHotEnter stack celsius) s = execTempHotEnter stack celsius s := rfl
@[simp] theorem exec_tempCoolEnter (stack) (celsius) (s : State) : exec (.tempCoolEnter stack celsius) s = execTempCoolEnter stack celsius s := rfl
@[simp] theorem exec_overtemp (stack) (celsius) (s : State) : exec (.overtemp stack celsius) s = execOvertemp stack celsius s := rfl
@[simp] theorem exec_stackReset (stack) (s : State) : exec (.stackReset stack) s = execStackReset stack s := rfl
@[simp] theorem exec_ucieModuleFail (stack) (link) (unit) (s : State) : exec (.ucieModuleFail stack link unit) s = execUcieModuleFail stack link unit s := rfl
@[simp] theorem exec_copy (h) (chain) (pin) (desc) (s : State) : exec (.copy h chain pin desc) s = execCopy h chain pin desc s := rfl
@[simp] theorem exec_copyFadd (h) (chain) (pin) (desc) (s : State) : exec (.copyFadd h chain pin desc) s = execCopyFadd h chain pin desc s := rfl
@[simp] theorem exec_copyIadd (h) (chain) (pin) (desc) (s : State) : exec (.copyIadd h chain pin desc) s = execCopyIadd h chain pin desc s := rfl
@[simp] theorem exec_copyRi32 (h) (chain) (pin) (desc) (s : State) : exec (.copyRi32 h chain pin desc) s = execCopyRi32 h chain pin desc s := rfl
@[simp] theorem exec_copyImax (h) (chain) (pin) (desc) (s : State) : exec (.copyImax h chain pin desc) s = execCopyImax h chain pin desc s := rfl
@[simp] theorem exec_copyOr (h) (chain) (pin) (desc) (s : State) : exec (.copyOr h chain pin desc) s = execCopyOr h chain pin desc s := rfl
@[simp] theorem exec_fmt (h) (word) (s : State) : exec (.fmt h word) s = execFmt h word s := rfl
@[simp] theorem exec_mtile (h) (acc) (zero) (tri) (rows) (cols) (part) (desc) (s : State) : exec (.mtile h acc zero tri rows cols part desc) s = execMtile h acc zero tri rows cols part desc s := rfl
@[simp] theorem exec_epi (h) (acc) (axis) (tgt) (strict) (eio) (tri) (rows) (cols) (desc) (s : State) : exec (.epi h acc axis tgt strict eio tri rows cols desc) s = execEpi h acc axis tgt strict eio tri rows cols desc s := rfl
@[simp] theorem exec_node (h) (target) (pcnt) (blk) (s : State) : exec (.node h target pcnt blk) s = execNode h target pcnt blk s := rfl
@[simp] theorem exec_nodeFire (owner) (nid) (s : State) : exec (.nodeFire owner nid) s = execNodeFire owner nid s := rfl
@[simp] theorem exec_qpw (h) (slot) (desc) (s : State) : exec (.qpw h slot desc) s = execQpw h slot desc s := rfl
@[simp] theorem exec_qpwr (h) (slot) (rop) (desc) (s : State) : exec (.qpwr h slot rop desc) s = execQpwr h slot rop desc s := rfl
@[simp] theorem exec_arm (h) (slot) (ctr) (threshold) (s : State) : exec (.arm h slot ctr threshold) s = execArm h slot ctr threshold s := rfl
@[simp] theorem exec_tsend (h) (slot) (width) (time) (s : State) : exec (.tsend h slot width time) s = execTsend h slot width time s := rfl
@[simp] theorem exec_slotCounterTrigger (core) (slot) (s : State) : exec (.slotCounterTrigger core slot) s = execSlotCounterTrigger core slot s := rfl
@[simp] theorem exec_slotTimeTrigger (core) (slot) (s : State) : exec (.slotTimeTrigger core slot) s = execSlotTimeTrigger core slot s := rfl
@[simp] theorem exec_raftxRi32 (h) (slot) (desc) (s : State) : exec (.raftxRi32 h slot desc) s = execRaftxRi32 h slot desc s := rfl
@[simp] theorem exec_raftxMax (h) (slot) (desc) (s : State) : exec (.raftxMax h slot desc) s = execRaftxMax h slot desc s := rfl
@[simp] theorem exec_raftxOr (h) (slot) (desc) (s : State) : exec (.raftxOr h slot desc) s = execRaftxOr h slot desc s := rfl
@[simp] theorem exec_rafta (h) (slot) (desc) (s : State) : exec (.rafta h slot desc) s = execRafta h slot desc s := rfl
@[simp] theorem exec_recordComplete (queue) (pos) (s : State) : exec (.recordComplete queue pos) s = execRecordComplete queue pos s := rfl
@[simp] theorem exec_barrierSubtract (queue) (pos) (bytes) (s : State) : exec (.barrierSubtract queue pos bytes) s = execBarrierSubtract queue pos bytes s := rfl
@[simp] theorem exec_epiSaveMarker (core) (s : State) : exec (.epiSaveMarker core) s = execEpiSaveMarker core s := rfl
@[simp] theorem exec_epiLoadMarker (core) (s : State) : exec (.epiLoadMarker core) s = execEpiLoadMarker core s := rfl
@[simp] theorem exec_sideLogReplay (slot) (s : State) : exec (.sideLogReplay slot) s = execSideLogReplay slot s := rfl
@[simp] theorem exec_unitContribution (unit) (s : State) : exec (.unitContribution unit) s = execUnitContribution unit s := rfl
@[simp] theorem exec_asyncTrap (slot) (s : State) : exec (.asyncTrap slot) s = execAsyncTrap slot s := rfl
@[simp] theorem exec_scratchpadFreeze (core) (s : State) : exec (.scratchpadFreeze core) s = execScratchpadFreeze core s := rfl
@[simp] theorem exec_pdlExpire (slot) (s : State) : exec (.pdlExpire slot) s = execPdlExpire slot s := rfl
@[simp] theorem exec_nextWithdraw (slot) (s : State) : exec (.nextWithdraw slot) s = execNextWithdraw slot s := rfl
@[simp] theorem exec_nextBind (slot) (r) (s : State) : exec (.nextBind slot r) s = execNextBind slot r s := rfl
@[simp] theorem exec_nextResume (slot) (r) (s : State) : exec (.nextResume slot r) s = execNextResume slot r s := rfl
@[simp] theorem exec_nextReject (slot) (op) (r) (s : State) : exec (.nextReject slot op r) s = execNextReject slot op r s := rfl
@[simp] theorem exec_dispatchDecision (cls) (s : State) : exec (.dispatchDecision cls) s = execDispatchDecision cls s := rfl
@[simp] theorem exec_launchOverdue (ctr) (s : State) : exec (.launchOverdue ctr) s = execLaunchOverdue ctr s := rfl
@[simp] theorem exec_phaseEntry (ctr) (s : State) : exec (.phaseEntry ctr) s = execPhaseEntry ctr s := rfl
@[simp] theorem exec_graphStart (ctr) (s : State) : exec (.graphStart ctr) s = execGraphStart ctr s := rfl
@[simp] theorem exec_cancelComplete (ctr) (s : State) : exec (.cancelComplete ctr) s = execCancelComplete ctr s := rfl
@[simp] theorem exec_submissionCommit (fn) (q) (off) (data) (s : State) : exec (.submissionCommit fn q off data) s = execSubmissionCommit fn q off data s := rfl
@[simp] theorem exec_jobActivate (job) (ctl) (s : State) : exec (.jobActivate job ctl) s = execJobActivate job ctl s := rfl
@[simp] theorem exec_jobCancelWrite (job) (s : State) : exec (.jobCancelWrite job) s = execJobCancelWrite job s := rfl
@[simp] theorem exec_jobInvalidate (job) (s : State) : exec (.jobInvalidate job) s = execJobInvalidate job s := rfl
@[simp] theorem exec_svcreq (value) (s : State) : exec (.svcreq value) s = execSvcreq value s := rfl
@[simp] theorem exec_serviceTaskStart (s : State) : exec (.serviceTaskStart) s = execServiceTaskStart s := rfl
@[simp] theorem exec_serviceTaskTrap (s : State) : exec (.serviceTaskTrap) s = execServiceTaskTrap s := rfl
@[simp] theorem exec_xlcmdInval (job) (va) (npage) (s : State) : exec (.xlcmdInval job va npage) s = execXlcmdInval job va npage s := rfl
@[simp] theorem exec_xlcmdMapped (job) (va) (npage) (s : State) : exec (.xlcmdMapped job va npage) s = execXlcmdMapped job va npage s := rfl
@[simp] theorem exec_xlcmdBad (value) (s : State) : exec (.xlcmdBad value) s = execXlcmdBad value s := rfl
@[simp] theorem exec_xlcmdComplete (s : State) : exec (.xlcmdComplete) s = execXlcmdComplete s := rfl
@[simp] theorem exec_pageRequestPost (s : State) : exec (.pageRequestPost) s = execPageRequestPost s := rfl
@[simp] theorem exec_heldAccessRetry (slot) (s : State) : exec (.heldAccessRetry slot) s = execHeldAccessRetry slot s := rfl
@[simp] theorem exec_freezeSet (s : State) : exec (.freezeSet) s = execFreezeSet s := rfl
@[simp] theorem exec_freezeClear (s : State) : exec (.freezeClear) s = execFreezeClear s := rfl
@[simp] theorem exec_sliceRequestAccept (slice) (req) (s : State) : exec (.sliceRequestAccept slice req) s = execSliceRequestAccept slice req s := rfl
@[simp] theorem exec_islandGate (island) (tgt) (s : State) : exec (.islandGate island tgt) s = execIslandGate island tgt s := rfl
@[simp] theorem exec_islandDrainComplete (island) (s : State) : exec (.islandDrainComplete island) s = execIslandDrainComplete island s := rfl
@[simp] theorem exec_islandStepComplete (island) (s : State) : exec (.islandStepComplete island) s = execIslandStepComplete island s := rfl
@[simp] theorem exec_islandWake (island) (s : State) : exec (.islandWake island) s = execIslandWake island s := rfl
@[simp] theorem exec_islandRetarget (island) (tgt) (s : State) : exec (.islandRetarget island tgt) s = execIslandRetarget island tgt s := rfl
@[simp] theorem exec_pwrsUpdate (watts) (inletOk) (s : State) : exec (.pwrsUpdate watts inletOk) s = execPwrsUpdate watts inletOk s := rfl
@[simp] theorem exec_governorStep (traffic) (s : State) : exec (.governorStep traffic) s = execGovernorStep traffic s := rfl
@[simp] theorem exec_spillwayEngage (island) (milliamps) (s : State) : exec (.spillwayEngage island milliamps) s = execSpillwayEngage island milliamps s := rfl
@[simp] theorem exec_bootVerifyRun (len) (s : State) : exec (.bootVerifyRun len) s = execBootVerifyRun len s := rfl
@[simp] theorem exec_bootVerifyComplete (s : State) : exec (.bootVerifyComplete) s = execBootVerifyComplete s := rfl
@[simp] theorem exec_deviceResetCmd (s : State) : exec (.deviceResetCmd) s = execDeviceResetCmd s := rfl
@[simp] theorem exec_firmwareFault (s : State) : exec (.firmwareFault) s = execFirmwareFault s := rfl
@[simp] theorem exec_functionReady (bit) (s : State) : exec (.functionReady bit) s = execFunctionReady bit s := rfl
@[simp] theorem exec_functionFail (bit) (s : State) : exec (.functionFail bit) s = execFunctionFail bit s := rfl
@[simp] theorem exec_hostBar4Read (fn) (off) (n) (s : State) : exec (.hostBar4Read fn off n) s = execHostBar4Read fn off n s := rfl
@[simp] theorem exec_hostBar4Write (fn) (off) (data) (s : State) : exec (.hostBar4Write fn off data) s = execHostBar4Write fn off data s := rfl
@[simp] theorem exec_bankFillApertureWrite (off) (data) (s : State) : exec (.bankFillApertureWrite off data) s = execBankFillApertureWrite off data s := rfl
@[simp] theorem exec_bankFillApertureRead (off) (n) (s : State) : exec (.bankFillApertureRead off n) s = execBankFillApertureRead off n s := rfl
@[simp] theorem exec_hostSpdmRequest (code) (s : State) : exec (.hostSpdmRequest code) s = execHostSpdmRequest code s := rfl
@[simp] theorem exec_fpcfgWrite (port) (value) (s : State) : exec (.fpcfgWrite port value) s = execFpcfgWrite port value s := rfl
@[simp] theorem exec_portShed (port) (cause) (s : State) : exec (.portShed port cause) s = execPortShed port cause s := rfl
@[simp] theorem exec_portRetrainComplete (port) (trained) (s : State) : exec (.portRetrainComplete port trained) s = execPortRetrainComplete port trained s := rfl
@[simp] theorem exec_dataFrame (f) (s : State) : exec (.dataFrame f) s = execDataFrame f s := rfl
@[simp] theorem exec_raftFrame (f) (s : State) : exec (.raftFrame f) s = execRaftFrame f s := rfl
@[simp] theorem exec_areq (f) (s : State) : exec (.areq f) s = execAreq f s := rfl
@[simp] theorem exec_arep (f) (s : State) : exec (.arep f) s = execArep f s := rfl
@[simp] theorem exec_ack (f) (s : State) : exec (.ack f) s = execAck f s := rfl
@[simp] theorem exec_noteMode1 (f) (s : State) : exec (.noteMode1 f) s = execNoteMode1 f s := rfl
@[simp] theorem exec_noteMode0 (f) (s : State) : exec (.noteMode0 f) s = execNoteMode0 f s := rfl
@[simp] theorem exec_noteHold (f) (s : State) : exec (.noteHold f) s = execNoteHold f s := rfl
@[simp] theorem exec_retransmitTimeout (stream) (s : State) : exec (.retransmitTimeout stream) s = execRetransmitTimeout stream s := rfl
@[simp] theorem exec_areqBusyRetry (stream) (seq) (s : State) : exec (.areqBusyRetry stream seq) s = execAreqBusyRetry stream seq s := rfl
@[simp] theorem exec_ackTimer (stream) (s : State) : exec (.ackTimer stream) s = execAckTimer stream s := rfl
@[simp] theorem exec_pathFail (stream) (cause) (s : State) : exec (.pathFail stream cause) s = execPathFail stream cause s := rfl
@[simp] theorem exec_switchAttest (group) (sw) (s : State) : exec (.switchAttest group sw) s = execSwitchAttest group sw s := rfl
@[simp] theorem exec_spdmResponse (group) (sw) (verified) (digest) (s : State) : exec (.spdmResponse group sw verified digest) s = execSpdmResponse group sw verified digest s := rfl
@[simp] theorem exec_spdmTimeout (group) (sw) (s : State) : exec (.spdmTimeout group sw) s = execSpdmTimeout group sw s := rfl
@[simp] theorem exec_keyDeliveryResponse (group) (sw) (accepted) (s : State) : exec (.keyDeliveryResponse group sw accepted) s = execKeyDeliveryResponse group sw accepted s := rfl
@[simp] theorem exec_registerReadClear (who) (span) (s : State) : exec (.registerReadClear who span) s = execRegisterReadClear who span s := rfl
@[simp] theorem exec_registerWrite (who) (off) (data) (s : State) : exec (.registerWrite who off data) s = execRegisterWrite who off data s := rfl
@[simp] theorem exec_growthRecordWrite (s : State) : exec (.growthRecordWrite) s = execGrowthRecordWrite s := rfl
@[simp] theorem exec_deviceReset (s : State) : exec (.deviceReset) s = execDeviceReset s := rfl
@[simp] theorem exec_waittTimeReached (slot) (s : State) : exec (.waittTimeReached slot) s = execWaittTimeReached slot s := rfl
@[simp] theorem exec_contextSaveComplete (slot) (s : State) : exec (.contextSaveComplete slot) s = execContextSaveComplete slot s := rfl
@[simp] theorem exec_contextLoadComplete (slot) (s : State) : exec (.contextLoadComplete slot) s = execContextLoadComplete slot s := rfl
@[simp] theorem exec_scratchpadSpillComplete (core) (frame) (s : State) : exec (.scratchpadSpillComplete core frame) s = execScratchpadSpillComplete core frame s := rfl
@[simp] theorem exec_sessionEnded (group) (sw) (s : State) : exec (.sessionEnded group sw) s = execSessionEnded group sw s := rfl
@[simp] theorem exec_submissionWindowWrite (fn) (q) (off) (data) (s : State) : exec (.submissionWindowWrite fn q off data) s = execSubmissionWindowWrite fn q off data s := rfl

end Sys2Proof.Machine
end

