-- ==== Sys2Proof/Laws/Encoding.lean ====
section
/-! SUPPORT. Laws of the encoder: what packed fields hold, a field read back, and the size of each core instruction. -/

namespace Sys2Proof

/-- Fields that fit stay within their widths. -/
theorem pack_lt (fs : List (Nat × Nat)) (h : ∀ f ∈ fs, f.2 < 2 ^ f.1) : pack fs < 2 ^ (fs.map (·.1)).sum := by
  induction fs with
  | nil => simp [pack]
  | cons f fs ih =>
    obtain ⟨w, v⟩ := f
    have h1 := ih (fun f hf => h f (by simp [hf]))
    have h2 : v + 1 ≤ 2 ^ w := h (w, v) (by simp)
    have h3 := Nat.mul_le_mul_left (2 ^ (fs.map (·.1)).sum) h2
    simp only [pack, List.map_cons, List.sum_cons, Nat.pow_add]
    rw [Nat.mul_add, Nat.mul_one, Nat.mul_comm _ (2 ^ w)] at h3
    omega

/-- A field of a word is the value that its bits hold. -/
theorem extract_ofNat (W n s k : Nat) (v : BitVec n) (h : k % 2 ^ W / 2 ^ s % 2 ^ n = v.toNat) :
    (BitVec.ofNat W k).extractLsb' s n = v := by
  apply BitVec.eq_of_toNat_eq
  simp only [BitVec.extractLsb'_toNat, Nat.shiftRight_eq_div_pow, BitVec.toNat_ofNat, h]

/-- The bytes of a value in memory order hold the value (R4). -/
theorem ofBytes_bytesOf (n v : Nat) : ofBytes (bytesOf n v) = v % 256 ^ n := by
  induction n generalizing v with
  | zero => simp [bytesOf, ofBytes, Nat.mod_one]
  | succ n ih =>
    have h : (256 : Nat) ^ (n + 1) = 256 * 256 ^ n := by rw [Nat.pow_succ, Nat.mul_comm]
    simp only [bytesOf, ofBytes, ih, byteOf, BitVec.toNat_ofNat]
    rw [h, Nat.mod_mul]
    simp

@[simp] theorem length_bytesOf (n v : Nat) : (bytesOf n v).length = n := by
  induction n generalizing v with
  | zero => rfl
  | succ n ih => simp [bytesOf, ih]

end Sys2Proof

namespace Sys2Proof.Machine

/-! ### The size of a core instruction (R35, R99) -/

@[simp] theorem ins_size_add (d) (a) (b) : (ins (.add d a b)).size = 4 := rfl
@[simp] theorem ins_size_sub (d) (a) (b) : (ins (.sub d a b)).size = 4 := rfl
@[simp] theorem ins_size_and (d) (a) (b) : (ins (.and d a b)).size = 4 := rfl
@[simp] theorem ins_size_or (d) (a) (b) : (ins (.or d a b)).size = 4 := rfl
@[simp] theorem ins_size_xor (d) (a) (b) : (ins (.xor d a b)).size = 4 := rfl
@[simp] theorem ins_size_andn (d) (a) (b) : (ins (.andn d a b)).size = 4 := rfl
@[simp] theorem ins_size_shl (d) (a) (b) : (ins (.shl d a b)).size = 4 := rfl
@[simp] theorem ins_size_shr (d) (a) (b) : (ins (.shr d a b)).size = 4 := rfl
@[simp] theorem ins_size_sra (d) (a) (b) : (ins (.sra d a b)).size = 4 := rfl
@[simp] theorem ins_size_rotr (d) (a) (b) : (ins (.rotr d a b)).size = 4 := rfl
@[simp] theorem ins_size_mul (d) (a) (b) : (ins (.mul d a b)).size = 4 := rfl
@[simp] theorem ins_size_mulhi (d) (a) (b) : (ins (.mulhi d a b)).size = 4 := rfl
@[simp] theorem ins_size_mulhn (d) (a) (b) : (ins (.mulhn d a b)).size = 4 := rfl
@[simp] theorem ins_size_div (d) (a) (b) : (ins (.div d a b)).size = 4 := rfl
@[simp] theorem ins_size_divn (d) (a) (b) : (ins (.divn d a b)).size = 4 := rfl
@[simp] theorem ins_size_rem (d) (a) (b) : (ins (.rem d a b)).size = 4 := rfl
@[simp] theorem ins_size_remn (d) (a) (b) : (ins (.remn d a b)).size = 4 := rfl
@[simp] theorem ins_size_min (d) (a) (b) : (ins (.min d a b)).size = 4 := rfl
@[simp] theorem ins_size_max (d) (a) (b) : (ins (.max d a b)).size = 4 := rfl
@[simp] theorem ins_size_minn (d) (a) (b) : (ins (.minn d a b)).size = 4 := rfl
@[simp] theorem ins_size_maxn (d) (a) (b) : (ins (.maxn d a b)).size = 4 := rfl
@[simp] theorem ins_size_slt (d) (a) (b) : (ins (.slt d a b)).size = 4 := rfl
@[simp] theorem ins_size_sltn (d) (a) (b) : (ins (.sltn d a b)).size = 4 := rfl
@[simp] theorem ins_size_clz (d) (a) : (ins (.clz d a)).size = 4 := rfl
@[simp] theorem ins_size_ctz (d) (a) : (ins (.ctz d a)).size = 4 := rfl
@[simp] theorem ins_size_popc (d) (a) : (ins (.popc d a)).size = 4 := rfl
@[simp] theorem ins_size_addi (d) (a) (imm) : (ins (.addi d a imm)).size = 4 := rfl
@[simp] theorem ins_size_andi (d) (a) (imm) : (ins (.andi d a imm)).size = 4 := rfl
@[simp] theorem ins_size_ori (d) (a) (imm) : (ins (.ori d a imm)).size = 4 := rfl
@[simp] theorem ins_size_xori (d) (a) (imm) : (ins (.xori d a imm)).size = 4 := rfl
@[simp] theorem ins_size_slti (d) (a) (imm) : (ins (.slti d a imm)).size = 4 := rfl
@[simp] theorem ins_size_sltni (d) (a) (imm) : (ins (.sltni d a imm)).size = 4 := rfl
@[simp] theorem ins_size_shli (d) (a) (n) : (ins (.shli d a n)).size = 4 := rfl
@[simp] theorem ins_size_shri (d) (a) (n) : (ins (.shri d a n)).size = 4 := rfl
@[simp] theorem ins_size_srai (d) (a) (n) : (ins (.srai d a n)).size = 4 := rfl
@[simp] theorem ins_size_lui (d) (imm) : (ins (.lui d imm)).size = 4 := rfl
@[simp] theorem ins_size_addpc (d) (imm) : (ins (.addpc d imm)).size = 4 := rfl
@[simp] theorem ins_size_bEq (a) (b) (off) : (ins (.bEq a b off)).size = 4 := rfl
@[simp] theorem ins_size_bNe (a) (b) (off) : (ins (.bNe a b off)).size = 4 := rfl
@[simp] theorem ins_size_bLt (a) (b) (off) : (ins (.bLt a b off)).size = 4 := rfl
@[simp] theorem ins_size_bGe (a) (b) (off) : (ins (.bGe a b off)).size = 4 := rfl
@[simp] theorem ins_size_bLtn (a) (b) (off) : (ins (.bLtn a b off)).size = 4 := rfl
@[simp] theorem ins_size_bGen (a) (b) (off) : (ins (.bGen a b off)).size = 4 := rfl
@[simp] theorem ins_size_j (off) : (ins (.j off)).size = 4 := rfl
@[simp] theorem ins_size_jal (off) : (ins (.jal off)).size = 4 := rfl
@[simp] theorem ins_size_jalr (d) (a) (imm) : (ins (.jalr d a imm)).size = 4 := rfl
@[simp] theorem ins_size_loop (a) (imm) : (ins (.loop a imm)).size = 4 := rfl
@[simp] theorem ins_size_ld (d) (a) (sz) (off) : (ins (.ld d a sz off)).size = 4 := rfl
@[simp] theorem ins_size_st (s) (a) (sz) (off) : (ins (.st s a sz off)).size = 4 := rfl
@[simp] theorem ins_size_prefLd (a) (sz) (off) : (ins (.prefLd a sz off)).size = 4 := rfl
@[simp] theorem ins_size_prefSt (a) (sz) (off) : (ins (.prefSt a sz off)).size = 4 := rfl
@[simp] theorem ins_size_amoAdd (d) (a) (b) (ord) (sc) (wd) : (ins (.amoAdd d a b ord sc wd)).size = 4 := rfl
@[simp] theorem ins_size_amoMin (d) (a) (b) (ord) (sc) (wd) : (ins (.amoMin d a b ord sc wd)).size = 4 := rfl
@[simp] theorem ins_size_amoMax (d) (a) (b) (ord) (sc) (wd) : (ins (.amoMax d a b ord sc wd)).size = 4 := rfl
@[simp] theorem ins_size_amoMinn (d) (a) (b) (ord) (sc) (wd) : (ins (.amoMinn d a b ord sc wd)).size = 4 := rfl
@[simp] theorem ins_size_amoMaxn (d) (a) (b) (ord) (sc) (wd) : (ins (.amoMaxn d a b ord sc wd)).size = 4 := rfl
@[simp] theorem ins_size_amoAnd (d) (a) (b) (ord) (sc) (wd) : (ins (.amoAnd d a b ord sc wd)).size = 4 := rfl
@[simp] theorem ins_size_amoOr (d) (a) (b) (ord) (sc) (wd) : (ins (.amoOr d a b ord sc wd)).size = 4 := rfl
@[simp] theorem ins_size_amoXor (d) (a) (b) (ord) (sc) (wd) : (ins (.amoXor d a b ord sc wd)).size = 4 := rfl
@[simp] theorem ins_size_amoSwap (d) (a) (b) (ord) (sc) (wd) : (ins (.amoSwap d a b ord sc wd)).size = 4 := rfl
@[simp] theorem ins_size_cas (d) (a) (b) (ord) (sc) (wd) : (ins (.cas d a b ord sc wd)).size = 4 := rfl
@[simp] theorem ins_size_redAdd (a) (b) (ord) (sc) (wd) : (ins (.redAdd a b ord sc wd)).size = 4 := rfl
@[simp] theorem ins_size_redMin (a) (b) (ord) (sc) (wd) : (ins (.redMin a b ord sc wd)).size = 4 := rfl
@[simp] theorem ins_size_redMax (a) (b) (ord) (sc) (wd) : (ins (.redMax a b ord sc wd)).size = 4 := rfl
@[simp] theorem ins_size_redMinn (a) (b) (ord) (sc) (wd) : (ins (.redMinn a b ord sc wd)).size = 4 := rfl
@[simp] theorem ins_size_redMaxn (a) (b) (ord) (sc) (wd) : (ins (.redMaxn a b ord sc wd)).size = 4 := rfl
@[simp] theorem ins_size_redAnd (a) (b) (ord) (sc) (wd) : (ins (.redAnd a b ord sc wd)).size = 4 := rfl
@[simp] theorem ins_size_redOr (a) (b) (ord) (sc) (wd) : (ins (.redOr a b ord sc wd)).size = 4 := rfl
@[simp] theorem ins_size_redXor (a) (b) (ord) (sc) (wd) : (ins (.redXor a b ord sc wd)).size = 4 := rfl
@[simp] theorem ins_size_vadd (d) (a) (b) (mk) (ty) : (ins (.vadd d a b mk ty)).size = 4 := rfl
@[simp] theorem ins_size_vsub (d) (a) (b) (mk) (ty) : (ins (.vsub d a b mk ty)).size = 4 := rfl
@[simp] theorem ins_size_vmul (d) (a) (b) (mk) (ty) : (ins (.vmul d a b mk ty)).size = 4 := rfl
@[simp] theorem ins_size_vfma (d) (a) (b) (mk) (ty) : (ins (.vfma d a b mk ty)).size = 4 := rfl
@[simp] theorem ins_size_vfms (d) (a) (b) (mk) (ty) : (ins (.vfms d a b mk ty)).size = 4 := rfl
@[simp] theorem ins_size_vmin (d) (a) (b) (mk) (ty) : (ins (.vmin d a b mk ty)).size = 4 := rfl
@[simp] theorem ins_size_vmax (d) (a) (b) (mk) (ty) : (ins (.vmax d a b mk ty)).size = 4 := rfl
@[simp] theorem ins_size_vabs (d) (a) (mk) (ty) : (ins (.vabs d a mk ty)).size = 4 := rfl
@[simp] theorem ins_size_vneg (d) (a) (mk) (ty) : (ins (.vneg d a mk ty)).size = 4 := rfl
@[simp] theorem ins_size_vcmpEq (d) (a) (b) (mk) (ty) : (ins (.vcmpEq d a b mk ty)).size = 4 := rfl
@[simp] theorem ins_size_vcmpNe (d) (a) (b) (mk) (ty) : (ins (.vcmpNe d a b mk ty)).size = 4 := rfl
@[simp] theorem ins_size_vcmpLt (d) (a) (b) (mk) (ty) : (ins (.vcmpLt d a b mk ty)).size = 4 := rfl
@[simp] theorem ins_size_vcmpLe (d) (a) (b) (mk) (ty) : (ins (.vcmpLe d a b mk ty)).size = 4 := rfl
@[simp] theorem ins_size_vsel (d) (a) (b) (mk) (ty) : (ins (.vsel d a b mk ty)).size = 4 := rfl
@[simp] theorem ins_size_vand (d) (a) (b) (mk) (ty) : (ins (.vand d a b mk ty)).size = 4 := rfl
@[simp] theorem ins_size_vor (d) (a) (b) (mk) (ty) : (ins (.vor d a b mk ty)).size = 4 := rfl
@[simp] theorem ins_size_vxor (d) (a) (b) (mk) (ty) : (ins (.vxor d a b mk ty)).size = 4 := rfl
@[simp] theorem ins_size_vshl (d) (a) (b) (mk) (ty) : (ins (.vshl d a b mk ty)).size = 4 := rfl
@[simp] theorem ins_size_vshr (d) (a) (b) (mk) (ty) : (ins (.vshr d a b mk ty)).size = 4 := rfl
@[simp] theorem ins_size_vsra (d) (a) (b) (mk) (ty) : (ins (.vsra d a b mk ty)).size = 4 := rfl
@[simp] theorem ins_size_vcvt (d) (a) (rz) (sty) (mk) (ty) : (ins (.vcvt d a rz sty mk ty)).size = 4 := rfl
@[simp] theorem ins_size_vexp2 (d) (a) (mk) (ty) : (ins (.vexp2 d a mk ty)).size = 4 := rfl
@[simp] theorem ins_size_vlog2 (d) (a) (mk) (ty) : (ins (.vlog2 d a mk ty)).size = 4 := rfl
@[simp] theorem ins_size_vrcp (d) (a) (mk) (ty) : (ins (.vrcp d a mk ty)).size = 4 := rfl
@[simp] theorem ins_size_vrsq (d) (a) (mk) (ty) : (ins (.vrsq d a mk ty)).size = 4 := rfl
@[simp] theorem ins_size_mopAnd (d) (a) (b) : (ins (.mopAnd d a b)).size = 4 := rfl
@[simp] theorem ins_size_mopOr (d) (a) (b) : (ins (.mopOr d a b)).size = 4 := rfl
@[simp] theorem ins_size_mopXor (d) (a) (b) : (ins (.mopXor d a b)).size = 4 := rfl
@[simp] theorem ins_size_mopAndn (d) (a) (b) : (ins (.mopAndn d a b)).size = 4 := rfl
@[simp] theorem ins_size_mopNot (d) (a) : (ins (.mopNot d a)).size = 4 := rfl
@[simp] theorem ins_size_vld (d) (a) (mk) (ty) : (ins (.vld d a mk ty)).size = 4 := rfl
@[simp] theorem ins_size_vst (d) (a) (mk) (ty) : (ins (.vst d a mk ty)).size = 4 := rfl
@[simp] theorem ins_size_vlds (d) (a) (b) (mk) (ty) : (ins (.vlds d a b mk ty)).size = 4 := rfl
@[simp] theorem ins_size_vsts (d) (a) (b) (mk) (ty) : (ins (.vsts d a b mk ty)).size = 4 := rfl
@[simp] theorem ins_size_vgath (d) (a) (b) (mk) (ty) : (ins (.vgath d a b mk ty)).size = 4 := rfl
@[simp] theorem ins_size_vscat (d) (a) (b) (mk) (ty) : (ins (.vscat d a b mk ty)).size = 4 := rfl
@[simp] theorem ins_size_vbcast (d) (a) (mk) (ty) : (ins (.vbcast d a mk ty)).size = 4 := rfl
@[simp] theorem ins_size_vext (d) (a) (b) (ty) : (ins (.vext d a b ty)).size = 4 := rfl
@[simp] theorem ins_size_vins (d) (a) (b) (ty) : (ins (.vins d a b ty)).size = 4 := rfl
@[simp] theorem ins_size_vredAdd (d) (a) (mk) (ty) : (ins (.vredAdd d a mk ty)).size = 4 := rfl
@[simp] theorem ins_size_vredMax (d) (a) (mk) (ty) : (ins (.vredMax d a mk ty)).size = 4 := rfl
@[simp] theorem ins_size_vredMin (d) (a) (mk) (ty) : (ins (.vredMin d a mk ty)).size = 4 := rfl
@[simp] theorem ins_size_vscan (d) (a) (mk) (ty) : (ins (.vscan d a mk ty)).size = 4 := rfl
@[simp] theorem ins_size_vperm (d) (a) (b) (mk) (ty) : (ins (.vperm d a b mk ty)).size = 4 := rfl
@[simp] theorem ins_size_viota (d) (mk) (ty) : (ins (.viota d mk ty)).size = 4 := rfl
@[simp] theorem ins_size_vqstI8 (d) (a) (b) (mk) (ty) : (ins (.vqstI8 d a b mk ty)).size = 4 := rfl
@[simp] theorem ins_size_vqstN8 (d) (a) (b) (mk) (ty) : (ins (.vqstN8 d a b mk ty)).size = 4 := rfl
@[simp] theorem ins_size_vqstI16 (d) (a) (b) (mk) (ty) : (ins (.vqstI16 d a b mk ty)).size = 4 := rfl
@[simp] theorem ins_size_vqstBf (d) (a) (b) (mk) (ty) : (ins (.vqstBf d a b mk ty)).size = 4 := rfl
@[simp] theorem ins_size_vqstMxi8 (d) (a) (b) (mk) (ty) : (ins (.vqstMxi8 d a b mk ty)).size = 4 := rfl
@[simp] theorem ins_size_vqstMxf4 (d) (a) (b) (mk) (ty) : (ins (.vqstMxf4 d a b mk ty)).size = 4 := rfl
@[simp] theorem ins_size_vqstMxf8 (d) (a) (b) (mk) (ty) : (ins (.vqstMxf8 d a b mk ty)).size = 4 := rfl
@[simp] theorem ins_size_vqstRi32 (d) (a) (b) (mk) (ty) : (ins (.vqstRi32 d a b mk ty)).size = 4 := rfl
@[simp] theorem ins_size_fenceAcq (sc) : (ins (.fenceAcq sc)).size = 4 := rfl
@[simp] theorem ins_size_fenceRel (sc) : (ins (.fenceRel sc)).size = 4 := rfl
@[simp] theorem ins_size_fenceSc (sc) : (ins (.fenceSc sc)).size = 4 := rfl
@[simp] theorem ins_size_lfence (a) (all) (layer) : (ins (.lfence a all layer)).size = 4 := rfl
@[simp] theorem ins_size_seal (d) (a) : (ins (.seal d a)).size = 4 := rfl
@[simp] theorem ins_size_unseal (d) (a) : (ins (.unseal d a)).size = 4 := rfl
@[simp] theorem ins_size_barinit (d) (a) (sc) : (ins (.barinit d a sc)).size = 4 := rfl
@[simp] theorem ins_size_bararrive (d) (a) (trapf) (sc) : (ins (.bararrive d a trapf sc)).size = 4 := rfl
@[simp] theorem ins_size_barwait (d) (a) (trapf) (sc) : (ins (.barwait d a trapf sc)).size = 4 := rfl
@[simp] theorem ins_size_barpend (d) (a) : (ins (.barpend d a)).size = 4 := rfl
@[simp] theorem ins_size_cwait (d) (a) : (ins (.cwait d a)).size = 4 := rfl
@[simp] theorem ins_size_cwb (d) (a) : (ins (.cwb d a)).size = 4 := rfl
@[simp] theorem ins_size_cwbInv (d) (a) : (ins (.cwbInv d a)).size = 4 := rfl
@[simp] theorem ins_size_ralign (a) : (ins (.ralign a)).size = 4 := rfl
@[simp] theorem ins_size_waitt (a) : (ins (.waitt a)).size = 4 := rfl
@[simp] theorem ins_size_push (d) (q) : (ins (.push d q)).size = 4 := rfl
@[simp] theorem ins_size_pushf (d) : (ins (.pushf d)).size = 4 := rfl
@[simp] theorem ins_size_lpush (d) (a) : (ins (.lpush d a)).size = 4 := rfl
@[simp] theorem ins_size_lpushImg (d) (a) : (ins (.lpushImg d a)).size = 4 := rfl
@[simp] theorem ins_size_vsend (d) (a) (slot) (buf) : (ins (.vsend d a slot buf)).size = 4 := rfl
@[simp] theorem ins_size_qstat (d) (q) : (ins (.qstat d q)).size = 4 := rfl
@[simp] theorem ins_size_launch (d) (a) (q) : (ins (.launch d a q)).size = 4 := rfl
@[simp] theorem ins_size_cancelLaunch (d) (a) : (ins (.cancelLaunch d a)).size = 4 := rfl
@[simp] theorem ins_size_cancelGraph (d) (a) : (ins (.cancelGraph d a)).size = 4 := rfl
@[simp] theorem ins_size_cancelPhase (d) (a) : (ins (.cancelPhase d a)).size = 4 := rfl
@[simp] theorem ins_size_cancelJob (d) (a) : (ins (.cancelJob d a)).size = 4 := rfl
@[simp] theorem ins_size_rdsr (d) (num) : (ins (.rdsr d num)).size = 4 := rfl
@[simp] theorem ins_size_wrsr (a) (num) : (ins (.wrsr a num)).size = 4 := rfl
@[simp] theorem ins_size_trap (code) : (ins (.trap code)).size = 4 := rfl
@[simp] theorem ins_size_rtrap : (ins (.rtrap)).size = 4 := rfl
@[simp] theorem ins_size_reinj : (ins (.reinj)).size = 4 := rfl
@[simp] theorem ins_size_yield : (ins (.yield)).size = 4 := rfl
@[simp] theorem ins_size_halt : (ins (.halt)).size = 4 := rfl

end Sys2Proof.Machine
end

