-- ==== Sys2Proof/Laws/Map.lean ====
section
/-! SUPPORT. Laws of keyed storage and byte memory: reads after writes, and the canonical form that every operation
keeps. -/

namespace Sys2Proof.Machine

variable {α : Type}

theorem SMap.get_erase_self (m : SMap α) (d : α) (k : Nat) : SMap.get (SMap.erase m k) d k = d := by
  induction m with
  | nil => rfl
  | cons p r ih =>
    obtain ⟨k', v⟩ := p
    by_cases h : k' = k
    · subst h; simpa [SMap.erase] using ih
    · simpa [SMap.erase, h, SMap.get] using ih

theorem SMap.get_erase_ne (m : SMap α) (d : α) {k j : Nat} (h : j ≠ k) :
    SMap.get (SMap.erase m k) d j = SMap.get m d j := by
  induction m with
  | nil => rfl
  | cons p r ih =>
    obtain ⟨k', v⟩ := p
    by_cases hk : k' = k
    · subst hk
      have hj : ¬ k' = j := fun e => h e.symm
      simpa [SMap.erase, SMap.get, hj] using ih
    · by_cases hj : k' = j
      · subst hj; simp [SMap.erase, hk, SMap.get]
      · simpa [SMap.erase, hk, SMap.get, hj] using ih

theorem SMap.get_insert_self (m : SMap α) (d v : α) (k : Nat) (h : ∀ p ∈ m, p.1 ≠ k) :
    SMap.get (SMap.insert m k v) d k = v := by
  induction m with
  | nil => simp [SMap.insert, SMap.get]
  | cons p r ih =>
    obtain ⟨k', v'⟩ := p
    have hk : ¬ k' = k := h (k', v') (by simp)
    have hr : ∀ p ∈ r, p.1 ≠ k := fun p hp => h p (by simp [hp])
    by_cases hl : k < k'
    · simp [SMap.insert, hl, SMap.get]
    · simpa [SMap.insert, hl, SMap.get, hk] using ih hr

theorem SMap.get_insert_ne (m : SMap α) (d v : α) {k j : Nat} (h : j ≠ k) :
    SMap.get (SMap.insert m k v) d j = SMap.get m d j := by
  have hk : ¬ k = j := fun e => h e.symm
  induction m with
  | nil => simp [SMap.insert, SMap.get, hk]
  | cons p r ih =>
    obtain ⟨k', v'⟩ := p
    by_cases hl : k < k'
    · simp [SMap.insert, hl, SMap.get, hk]
    · by_cases hj : k' = j
      · subst hj; simp [SMap.insert, hl, SMap.get]
      · simpa [SMap.insert, hl, SMap.get, hj] using ih

theorem SMap.erase_key_ne (m : SMap α) (k : Nat) : ∀ p ∈ SMap.erase m k, p.1 ≠ k := by
  intro p hp
  simpa [SMap.erase] using (List.mem_filter.mp hp).2

/-- Reading a key after it is set gives the value set. -/
@[simp] theorem SMap.get_set_self [DecidableEq α] (m : SMap α) (d v : α) (k : Nat) :
    SMap.get (SMap.set m d k v) d k = v := by
  unfold SMap.set
  split
  · next h => rw [SMap.get_erase_self, h]
  · exact SMap.get_insert_self _ _ _ _ (SMap.erase_key_ne m k)

/-- Setting a key leaves every other key alone. -/
theorem SMap.get_set_ne [DecidableEq α] (m : SMap α) (d v : α) {k j : Nat} (h : j ≠ k) :
    SMap.get (SMap.set m d k v) d j = SMap.get m d j := by
  unfold SMap.set
  split
  · exact SMap.get_erase_ne m d h
  · rw [SMap.get_insert_ne _ _ _ h, SMap.get_erase_ne m d h]

theorem SMap.get_set [DecidableEq α] (m : SMap α) (d v : α) (k j : Nat) :
    SMap.get (SMap.set m d k v) d j = if j = k then v else SMap.get m d j := by
  split
  · next h => rw [h, SMap.get_set_self]
  · next h => exact SMap.get_set_ne m d v h

theorem SMap.find_eq_get (m : SMap α) (k : Nat) : SMap.find m k = SMap.get (m.map (fun p => (p.1, some p.2))) none k := by
  induction m with
  | nil => rfl
  | cons p r ih =>
    obtain ⟨k', v⟩ := p
    by_cases h : k' = k
    · simp [SMap.find, SMap.get, h]
    · simpa [SMap.find, SMap.get, h] using ih

theorem SMap.find_erase_self (m : SMap α) (k : Nat) : SMap.find (SMap.erase m k) k = none := by
  induction m with
  | nil => rfl
  | cons p r ih =>
    obtain ⟨k', v⟩ := p
    by_cases h : k' = k
    · subst h; simpa [SMap.erase] using ih
    · simpa [SMap.erase, h, SMap.find] using ih

theorem SMap.find_erase_ne (m : SMap α) {k j : Nat} (h : j ≠ k) : SMap.find (SMap.erase m k) j = SMap.find m j := by
  induction m with
  | nil => rfl
  | cons p r ih =>
    obtain ⟨k', v⟩ := p
    by_cases hk : k' = k
    · subst hk
      have hj : ¬ k' = j := fun e => h e.symm
      simpa [SMap.erase, SMap.find, hj] using ih
    · by_cases hj : k' = j
      · subst hj; simp [SMap.erase, hk, SMap.find]
      · simpa [SMap.erase, hk, SMap.find, hj] using ih

theorem SMap.find_insert_self (m : SMap α) (v : α) (k : Nat) (h : ∀ p ∈ m, p.1 ≠ k) :
    SMap.find (SMap.insert m k v) k = some v := by
  induction m with
  | nil => simp [SMap.insert, SMap.find]
  | cons p r ih =>
    obtain ⟨k', v'⟩ := p
    have hk : ¬ k' = k := h (k', v') (by simp)
    have hr : ∀ p ∈ r, p.1 ≠ k := fun p hp => h p (by simp [hp])
    by_cases hl : k < k'
    · simp [SMap.insert, hl, SMap.find]
    · simpa [SMap.insert, hl, SMap.find, hk] using ih hr

theorem SMap.find_insert_ne (m : SMap α) (v : α) {k j : Nat} (h : j ≠ k) :
    SMap.find (SMap.insert m k v) j = SMap.find m j := by
  have hk : ¬ k = j := fun e => h e.symm
  induction m with
  | nil => simp [SMap.insert, SMap.find, hk]
  | cons p r ih =>
    obtain ⟨k', v'⟩ := p
    by_cases hl : k < k'
    · simp [SMap.insert, hl, SMap.find, hk]
    · by_cases hj : k' = j
      · subst hj; simp [SMap.insert, hl, SMap.find]
      · simpa [SMap.insert, hl, SMap.find, hj] using ih

/-- Looking a key up after it is put gives the value put. -/
@[simp] theorem SMap.find_put_self (m : SMap α) (k : Nat) (v : α) : SMap.find (SMap.put m k v) k = some v :=
  SMap.find_insert_self _ _ _ (SMap.erase_key_ne m k)

/-- Putting a key leaves every other key alone. -/
theorem SMap.find_put_ne (m : SMap α) (v : α) {k j : Nat} (h : j ≠ k) :
    SMap.find (SMap.put m k v) j = SMap.find m j := by
  rw [SMap.put, SMap.find_insert_ne _ _ h, SMap.find_erase_ne m h]

theorem SMap.find_put (m : SMap α) (v : α) (k j : Nat) :
    SMap.find (SMap.put m k v) j = if j = k then some v else SMap.find m j := by
  split
  · next h => rw [h, SMap.find_put_self]
  · next h => exact SMap.find_put_ne m v h

/-! ### The canonical form -/

theorem SMap.sorted_cons (k : Nat) (v : α) (r : SMap α) :
    SMap.sorted ((k, v) :: r) = true ↔ (∀ p ∈ r, k < p.1) ∧ SMap.sorted r = true := by
  simp [SMap.sorted, List.all_eq_true]

/-- Taking entries away keeps the keys rising. -/
theorem SMap.sorted_filter (m : SMap α) (f : Nat × α → Bool) (h : SMap.sorted m = true) :
    SMap.sorted (m.filter f) = true := by
  induction m with
  | nil => rfl
  | cons p r ih =>
    obtain ⟨k, v⟩ := p
    obtain ⟨h1, h2⟩ := (SMap.sorted_cons k v r).mp h
    cases hf : f (k, v)
    · simpa [List.filter, hf] using ih h2
    · simp only [List.filter, hf]
      exact (SMap.sorted_cons k v _).mpr ⟨fun p hp => h1 p (List.mem_filter.mp hp).1, ih h2⟩

theorem SMap.mem_insert (m : SMap α) (k : Nat) (v : α) (p : Nat × α) :
    p ∈ SMap.insert m k v ↔ p = (k, v) ∨ p ∈ m := by
  induction m with
  | nil => simp [SMap.insert]
  | cons q r ih =>
    obtain ⟨k', v'⟩ := q
    by_cases hl : k < k'
    · simp [SMap.insert, hl]
    · simp only [SMap.insert, hl, if_false, List.mem_cons, ih]
      exact or_left_comm

/-- Inserting a key that is not there keeps the keys rising. -/
theorem SMap.sorted_insert (m : SMap α) (k : Nat) (v : α) (h : SMap.sorted m = true) (hk : ∀ p ∈ m, p.1 ≠ k) :
    SMap.sorted (SMap.insert m k v) = true := by
  induction m with
  | nil => simp [SMap.insert, SMap.sorted]
  | cons q r ih =>
    obtain ⟨k', v'⟩ := q
    obtain ⟨h1, h2⟩ := (SMap.sorted_cons k' v' r).mp h
    have hne : k' ≠ k := hk (k', v') (by simp)
    by_cases hl : k < k'
    · simp only [SMap.insert, hl, if_true]
      refine (SMap.sorted_cons _ _ _).mpr ⟨?_, h⟩
      intro p hp
      rcases List.mem_cons.mp hp with rfl | hp
      · exact hl
      · exact Nat.lt_trans hl (h1 p hp)
    · simp only [SMap.insert, hl, if_false]
      refine (SMap.sorted_cons _ _ _).mpr ⟨?_, ih h2 (fun p hp => hk p (by simp [hp]))⟩
      intro p hp
      rcases (SMap.mem_insert r k v p).mp hp with rfl | hp
      · show k' < k
        omega
      · exact h1 p hp

/-- Setting a key keeps the canonical form. -/
theorem SMap.wf_set [DecidableEq α] (m : SMap α) (d v : α) (k : Nat) (h : SMap.wf m d = true) :
    SMap.wf (SMap.set m d k v) d = true := by
  simp only [SMap.wf, Bool.and_eq_true, List.all_eq_true] at h ⊢
  obtain ⟨hs, hd⟩ := h
  have he : SMap.sorted (SMap.erase m k) = true := SMap.sorted_filter m _ hs
  have hm : ∀ p ∈ SMap.erase m k, decide (p.2 ≠ d) = true := fun p hp => hd p (List.mem_filter.mp hp).1
  unfold SMap.set
  split
  · exact ⟨he, hm⟩
  · next hv =>
    refine ⟨SMap.sorted_insert _ _ _ he (SMap.erase_key_ne m k), ?_⟩
    intro p hp
    rcases (SMap.mem_insert _ k v p).mp hp with rfl | hp
    · simpa using hv
    · exact hm p hp

/-- Putting a key keeps the keys rising. -/
theorem SMap.sorted_put (m : SMap α) (k : Nat) (v : α) (h : SMap.sorted m = true) :
    SMap.sorted (SMap.put m k v) = true :=
  SMap.sorted_insert _ _ _ (SMap.sorted_filter m _ h) (SMap.erase_key_ne m k)

/-! ### Bytes -/

/-- A byte read after it is written is the byte written. -/
@[simp] theorem Memory.read_write_self (m : Memory) (a : Nat) (b : Byte) : Memory.read (Memory.write m a b) a = b :=
  SMap.get_set_self m 0 b a

/-- A write leaves every other byte alone. -/
theorem Memory.read_write_ne (m : Memory) (b : Byte) {a j : Nat} (h : j ≠ a) :
    Memory.read (Memory.write m a b) j = Memory.read m j :=
  SMap.get_set_ne m 0 b h

/-- A byte put is the byte read. -/
@[simp] theorem Memory.read?_put_self (m : Memory) (a : Nat) (b : Byte) : Memory.read? (Memory.put m a b) a = some b :=
  SMap.find_put_self m a b

/-- A put leaves every other byte alone. -/
theorem Memory.read?_put_ne (m : Memory) (b : Byte) {a j : Nat} (h : j ≠ a) :
    Memory.read? (Memory.put m a b) j = Memory.read? m j :=
  SMap.find_put_ne m b h

/-- A write keeps the canonical form. -/
theorem Memory.wf_write (m : Memory) (a : Nat) (b : Byte) (h : Memory.wf m = true) : Memory.wf (Memory.write m a b) = true :=
  SMap.wf_set m 0 b a h

/-- A put keeps the canonical form. -/
theorem Memory.wfWritten_put (m : Memory) (a : Nat) (b : Byte) (h : Memory.wfWritten m = true) :
    Memory.wfWritten (Memory.put m a b) = true :=
  SMap.sorted_put m a b h

/-- Writing bytes upward keeps the canonical form. -/
theorem Memory.wf_writeN (m : Memory) (a : Nat) (bs : List Byte) (h : Memory.wf m = true) :
    Memory.wf (Memory.writeN m a bs) = true := by
  induction bs generalizing m a with
  | nil => exact h
  | cons b bs ih => exact ih _ _ (Memory.wf_write m a b h)

/-- Putting bytes upward keeps the canonical form. -/
theorem wfWritten_putBytes (m : Memory) (a : Nat) (bs : List Byte) (h : Memory.wfWritten m = true) :
    Memory.wfWritten (putBytes m a bs) = true := by
  induction bs generalizing m a with
  | nil => exact h
  | cons b bs ih => exact ih _ _ (Memory.wfWritten_put m a b h)

/-- Clearing a range keeps the canonical form. -/
theorem Memory.wf_clear (m : Memory) (a n : Nat) (h : Memory.wf m = true) : Memory.wf (Memory.clear m a n) = true := by
  simp only [Memory.wf, SMap.wf, Bool.and_eq_true, List.all_eq_true] at h ⊢
  exact ⟨SMap.sorted_filter m _ h.1, fun p hp => h.2 p (List.mem_filter.mp hp).1⟩

/-- A write of bytes upward leaves what lies below and what lies above alone. -/
theorem Memory.read_writeN_out (m : Memory) (a : Nat) (bs : List Byte) (j : Nat) (h : j < a ∨ a + bs.length ≤ j) :
    Memory.read (Memory.writeN m a bs) j = Memory.read m j := by
  induction bs generalizing m a with
  | nil => rfl
  | cons b bs ih =>
    simp only [List.length_cons] at h
    rw [Memory.writeN, ih _ _ (by omega), Memory.read_write_ne m b (by omega)]

/-- A write of bytes upward puts each in its place. -/
theorem Memory.read_writeN_in (m : Memory) (a : Nat) (bs : List Byte) (i : Nat) (h : i < bs.length) :
    Memory.read (Memory.writeN m a bs) (a + i) = bs[i] := by
  induction bs generalizing m a i with
  | nil => simp at h
  | cons b bs ih =>
    cases i with
    | zero =>
      rw [Memory.writeN, Memory.read_writeN_out _ _ _ _ (by omega)]
      simp
    | succ i =>
      have hi : i < bs.length := by simpa using h
      have := ih (Memory.write m a b) (a + 1) i hi
      rw [Memory.writeN, show a + (i + 1) = a + 1 + i by omega, this]
      simp

end Sys2Proof.Machine
end

