-- ==== Sys2Proof/Laws/State.lean ====
section
/-! SUPPORT. What each update of the state and of a context leaves alone: one lemma for a field and an update. -/

namespace Sys2Proof.Machine


/-! ### setCtx -/

@[simp] theorem State.setCtx_slot (s : State) (i : Nat) (c : Ctx) : (s.setCtx i c).slot = s.slot := rfl
@[simp] theorem State.setCtx_lane (s : State) (i : Nat) (c : Ctx) : (s.setCtx i c).lane = s.lane := rfl
@[simp] theorem State.setCtx_queue (s : State) (i : Nat) (c : Ctx) : (s.setCtx i c).queue = s.queue := rfl
@[simp] theorem State.setCtx_tick (s : State) (i : Nat) (c : Ctx) : (s.setCtx i c).tick = s.tick := rfl
@[simp] theorem State.setCtx_time (s : State) (i : Nat) (c : Ctx) : (s.setCtx i c).time = s.time := rfl
@[simp] theorem State.setCtx_pwrs (s : State) (i : Nat) (c : Ctx) : (s.setCtx i c).pwrs = s.pwrs := rfl
@[simp] theorem State.setCtx_regs (s : State) (i : Nat) (c : Ctx) : (s.setCtx i c).regs = s.regs := rfl
@[simp] theorem State.setCtx_cores (s : State) (i : Nat) (c : Ctx) : (s.setCtx i c).cores = s.cores := rfl
@[simp] theorem State.setCtx_units (s : State) (i : Nat) (c : Ctx) : (s.setCtx i c).units = s.units := rfl
@[simp] theorem State.setCtx_launches (s : State) (i : Nat) (c : Ctx) : (s.setCtx i c).launches = s.launches := rfl
@[simp] theorem State.setCtx_counters (s : State) (i : Nat) (c : Ctx) : (s.setCtx i c).counters = s.counters := rfl
@[simp] theorem State.setCtx_jobs (s : State) (i : Nat) (c : Ctx) : (s.setCtx i c).jobs = s.jobs := rfl
@[simp] theorem State.setCtx_subs (s : State) (i : Nat) (c : Ctx) : (s.setCtx i c).subs = s.subs := rfl
@[simp] theorem State.setCtx_mem (s : State) (i : Nat) (c : Ctx) : (s.setCtx i c).mem = s.mem := rfl
@[simp] theorem State.setCtx_memKey (s : State) (i : Nat) (c : Ctx) : (s.setCtx i c).memKey = s.memKey := rfl
@[simp] theorem State.setCtx_spad (s : State) (i : Nat) (c : Ctx) : (s.setCtx i c).spad = s.spad := rfl
@[simp] theorem State.setCtx_scratch (s : State) (i : Nat) (c : Ctx) : (s.setCtx i c).scratch = s.scratch := rfl
@[simp] theorem State.setCtx_bufs (s : State) (i : Nat) (c : Ctx) : (s.setCtx i c).bufs = s.bufs := rfl
@[simp] theorem State.setCtx_bank (s : State) (i : Nat) (c : Ctx) : (s.setCtx i c).bank = s.bank := rfl
@[simp] theorem State.setCtx_fwMem (s : State) (i : Nat) (c : Ctx) : (s.setCtx i c).fwMem = s.fwMem := rfl
@[simp] theorem State.setCtx_tags (s : State) (i : Nat) (c : Ctx) : (s.setCtx i c).tags = s.tags := rfl
@[simp] theorem State.setCtx_lines (s : State) (i : Nat) (c : Ctx) : (s.setCtx i c).lines = s.lines := rfl
@[simp] theorem State.setCtx_poison (s : State) (i : Nat) (c : Ctx) : (s.setCtx i c).poison = s.poison := rfl
@[simp] theorem State.setCtx_runs (s : State) (i : Nat) (c : Ctx) : (s.setCtx i c).runs = s.runs := rfl
@[simp] theorem State.setCtx_checked (s : State) (i : Nat) (c : Ctx) : (s.setCtx i c).checked = s.checked := rfl
@[simp] theorem State.setCtx_failing (s : State) (i : Nat) (c : Ctx) : (s.setCtx i c).failing = s.failing := rfl
@[simp] theorem State.setCtx_next (s : State) (i : Nat) (c : Ctx) : (s.setCtx i c).next = s.next := rfl
@[simp] theorem State.setCtx_nextLater (s : State) (i : Nat) (c : Ctx) : (s.setCtx i c).nextLater = s.nextLater := rfl
@[simp] theorem State.setCtx_sections (s : State) (i : Nat) (c : Ctx) : (s.setCtx i c).sections = s.sections := rfl
@[simp] theorem State.setCtx_engqs (s : State) (i : Nat) (c : Ctx) : (s.setCtx i c).engqs = s.engqs := rfl
@[simp] theorem State.setCtx_lanes (s : State) (i : Nat) (c : Ctx) : (s.setCtx i c).lanes = s.lanes := rfl
@[simp] theorem State.setCtx_stackTab (s : State) (i : Nat) (c : Ctx) : (s.setCtx i c).stackTab = s.stackTab := rfl
@[simp] theorem State.setCtx_quads (s : State) (i : Nat) (c : Ctx) : (s.setCtx i c).quads = s.quads := rfl
@[simp] theorem State.setCtx_sums (s : State) (i : Nat) (c : Ctx) : (s.setCtx i c).sums = s.sums := rfl
@[simp] theorem State.setCtx_islands (s : State) (i : Nat) (c : Ctx) : (s.setCtx i c).islands = s.islands := rfl
@[simp] theorem State.setCtx_power (s : State) (i : Nat) (c : Ctx) : (s.setCtx i c).power = s.power := rfl
@[simp] theorem State.setCtx_ports (s : State) (i : Nat) (c : Ctx) : (s.setCtx i c).ports = s.ports := rfl
@[simp] theorem State.setCtx_rgs (s : State) (i : Nat) (c : Ctx) : (s.setCtx i c).rgs = s.rgs := rfl
@[simp] theorem State.setCtx_streams (s : State) (i : Nat) (c : Ctx) : (s.setCtx i c).streams = s.streams := rfl
@[simp] theorem State.setCtx_remotes (s : State) (i : Nat) (c : Ctx) : (s.setCtx i c).remotes = s.remotes := rfl
@[simp] theorem State.setCtx_out (s : State) (i : Nat) (c : Ctx) : (s.setCtx i c).out = s.out := rfl
@[simp] theorem State.setCtx_irqs (s : State) (i : Nat) (c : Ctx) : (s.setCtx i c).irqs = s.irqs := rfl
@[simp] theorem State.setCtx_ready (s : State) (i : Nat) (c : Ctx) : (s.setCtx i c).ready = s.ready := rfl
@[simp] theorem State.setCtx_growth (s : State) (i : Nat) (c : Ctx) : (s.setCtx i c).growth = s.growth := rfl
@[simp] theorem State.setCtx_fz (s : State) (i : Nat) (c : Ctx) : (s.setCtx i c).fz = s.fz := rfl
@[simp] theorem State.setCtx_scratchWas (s : State) (i : Nat) (c : Ctx) : (s.setCtx i c).scratchWas = s.scratchWas := rfl
@[simp] theorem State.setCtx_runUse (s : State) (i : Nat) (c : Ctx) : (s.setCtx i c).runUse = s.runUse := rfl
@[simp] theorem State.setCtx_keyGen (s : State) (i : Nat) (c : Ctx) : (s.setCtx i c).keyGen = s.keyGen := rfl
@[simp] theorem State.setCtx_mkeys (s : State) (i : Nat) (c : Ctx) : (s.setCtx i c).mkeys = s.mkeys := rfl
@[simp] theorem State.setCtx_skeys (s : State) (i : Nat) (c : Ctx) : (s.setCtx i c).skeys = s.skeys := rfl
@[simp] theorem State.setCtx_condemned (s : State) (i : Nat) (c : Ctx) : (s.setCtx i c).condemned = s.condemned := rfl
@[simp] theorem State.setCtx_heldFrames (s : State) (i : Nat) (c : Ctx) : (s.setCtx i c).heldFrames = s.heldFrames := rfl
@[simp] theorem State.setCtx_core (s : State) (i : Nat) (c : Ctx) (j : Nat) : (s.setCtx i c).core j = s.core j := rfl
@[simp] theorem State.setCtx_laneOf (s : State) (i : Nat) (c : Ctx) (j : Nat) : (s.setCtx i c).laneOf j = s.laneOf j := rfl
@[simp] theorem State.setCtx_stackOf (s : State) (i : Nat) (c : Ctx) (j : Nat) : (s.setCtx i c).stackOf j = s.stackOf j := rfl
@[simp] theorem State.setCtx_quadOf (s : State) (i : Nat) (c : Ctx) (j : Nat) : (s.setCtx i c).quadOf j = s.quadOf j := rfl
@[simp] theorem State.setCtx_engq (s : State) (i : Nat) (c : Ctx) (j : Nat) : (s.setCtx i c).engq j = s.engq j := rfl
@[simp] theorem State.setCtx_counter (s : State) (i : Nat) (c : Ctx) (j : Nat) : (s.setCtx i c).counter j = s.counter j := rfl
@[simp] theorem State.setCtx_job (s : State) (i : Nat) (c : Ctx) (j : Nat) : (s.setCtx i c).job j = s.job j := rfl
@[simp] theorem State.setCtx_sub (s : State) (i : Nat) (c : Ctx) (j : Nat) : (s.setCtx i c).sub j = s.sub j := rfl
@[simp] theorem State.setCtx_island (s : State) (i : Nat) (c : Ctx) (j : Nat) : (s.setCtx i c).island j = s.island j := rfl
@[simp] theorem State.setCtx_port (s : State) (i : Nat) (c : Ctx) (j : Nat) : (s.setCtx i c).port j = s.port j := rfl
@[simp] theorem State.setCtx_rg (s : State) (i : Nat) (c : Ctx) (j : Nat) : (s.setCtx i c).rg j = s.rg j := rfl
@[simp] theorem State.setCtx_stream (s : State) (i : Nat) (c : Ctx) (j : Nat) : (s.setCtx i c).stream j = s.stream j := rfl
@[simp] theorem State.setCtx_raw (s : State) (i : Nat) (c : Ctx) (j : Nat) : (s.setCtx i c).raw j = s.raw j := rfl
@[simp] theorem State.setCtx_unit (s : State) (i : Nat) (c : Ctx) (j : Nat) : (s.setCtx i c).unit? j = s.unit? j := rfl
/-- What `setCtx` wrote is what `ctx` reads. -/
@[simp] theorem State.setCtx_self (s : State) (i : Nat) (c : Ctx) : (s.setCtx i c).ctx i = c :=
  SMap.get_set_self _ _ _ _
/-- Every other one is as it was. -/
theorem State.setCtx_ne (s : State) (i : Nat) (c : Ctx) {j : Nat} (h : j ≠ i) : (s.setCtx i c).ctx j = s.ctx j :=
  SMap.get_set_ne _ _ _ h

/-! ### setCore -/

@[simp] theorem State.setCore_slot (s : State) (i : Nat) (c : Core) : (s.setCore i c).slot = s.slot := rfl
@[simp] theorem State.setCore_lane (s : State) (i : Nat) (c : Core) : (s.setCore i c).lane = s.lane := rfl
@[simp] theorem State.setCore_queue (s : State) (i : Nat) (c : Core) : (s.setCore i c).queue = s.queue := rfl
@[simp] theorem State.setCore_tick (s : State) (i : Nat) (c : Core) : (s.setCore i c).tick = s.tick := rfl
@[simp] theorem State.setCore_time (s : State) (i : Nat) (c : Core) : (s.setCore i c).time = s.time := rfl
@[simp] theorem State.setCore_pwrs (s : State) (i : Nat) (c : Core) : (s.setCore i c).pwrs = s.pwrs := rfl
@[simp] theorem State.setCore_regs (s : State) (i : Nat) (c : Core) : (s.setCore i c).regs = s.regs := rfl
@[simp] theorem State.setCore_ctxs (s : State) (i : Nat) (c : Core) : (s.setCore i c).ctxs = s.ctxs := rfl
@[simp] theorem State.setCore_units (s : State) (i : Nat) (c : Core) : (s.setCore i c).units = s.units := rfl
@[simp] theorem State.setCore_launches (s : State) (i : Nat) (c : Core) : (s.setCore i c).launches = s.launches := rfl
@[simp] theorem State.setCore_counters (s : State) (i : Nat) (c : Core) : (s.setCore i c).counters = s.counters := rfl
@[simp] theorem State.setCore_jobs (s : State) (i : Nat) (c : Core) : (s.setCore i c).jobs = s.jobs := rfl
@[simp] theorem State.setCore_subs (s : State) (i : Nat) (c : Core) : (s.setCore i c).subs = s.subs := rfl
@[simp] theorem State.setCore_mem (s : State) (i : Nat) (c : Core) : (s.setCore i c).mem = s.mem := rfl
@[simp] theorem State.setCore_memKey (s : State) (i : Nat) (c : Core) : (s.setCore i c).memKey = s.memKey := rfl
@[simp] theorem State.setCore_spad (s : State) (i : Nat) (c : Core) : (s.setCore i c).spad = s.spad := rfl
@[simp] theorem State.setCore_scratch (s : State) (i : Nat) (c : Core) : (s.setCore i c).scratch = s.scratch := rfl
@[simp] theorem State.setCore_bufs (s : State) (i : Nat) (c : Core) : (s.setCore i c).bufs = s.bufs := rfl
@[simp] theorem State.setCore_bank (s : State) (i : Nat) (c : Core) : (s.setCore i c).bank = s.bank := rfl
@[simp] theorem State.setCore_fwMem (s : State) (i : Nat) (c : Core) : (s.setCore i c).fwMem = s.fwMem := rfl
@[simp] theorem State.setCore_tags (s : State) (i : Nat) (c : Core) : (s.setCore i c).tags = s.tags := rfl
@[simp] theorem State.setCore_lines (s : State) (i : Nat) (c : Core) : (s.setCore i c).lines = s.lines := rfl
@[simp] theorem State.setCore_poison (s : State) (i : Nat) (c : Core) : (s.setCore i c).poison = s.poison := rfl
@[simp] theorem State.setCore_runs (s : State) (i : Nat) (c : Core) : (s.setCore i c).runs = s.runs := rfl
@[simp] theorem State.setCore_checked (s : State) (i : Nat) (c : Core) : (s.setCore i c).checked = s.checked := rfl
@[simp] theorem State.setCore_failing (s : State) (i : Nat) (c : Core) : (s.setCore i c).failing = s.failing := rfl
@[simp] theorem State.setCore_next (s : State) (i : Nat) (c : Core) : (s.setCore i c).next = s.next := rfl
@[simp] theorem State.setCore_nextLater (s : State) (i : Nat) (c : Core) : (s.setCore i c).nextLater = s.nextLater := rfl
@[simp] theorem State.setCore_sections (s : State) (i : Nat) (c : Core) : (s.setCore i c).sections = s.sections := rfl
@[simp] theorem State.setCore_engqs (s : State) (i : Nat) (c : Core) : (s.setCore i c).engqs = s.engqs := rfl
@[simp] theorem State.setCore_lanes (s : State) (i : Nat) (c : Core) : (s.setCore i c).lanes = s.lanes := rfl
@[simp] theorem State.setCore_stackTab (s : State) (i : Nat) (c : Core) : (s.setCore i c).stackTab = s.stackTab := rfl
@[simp] theorem State.setCore_quads (s : State) (i : Nat) (c : Core) : (s.setCore i c).quads = s.quads := rfl
@[simp] theorem State.setCore_sums (s : State) (i : Nat) (c : Core) : (s.setCore i c).sums = s.sums := rfl
@[simp] theorem State.setCore_islands (s : State) (i : Nat) (c : Core) : (s.setCore i c).islands = s.islands := rfl
@[simp] theorem State.setCore_power (s : State) (i : Nat) (c : Core) : (s.setCore i c).power = s.power := rfl
@[simp] theorem State.setCore_ports (s : State) (i : Nat) (c : Core) : (s.setCore i c).ports = s.ports := rfl
@[simp] theorem State.setCore_rgs (s : State) (i : Nat) (c : Core) : (s.setCore i c).rgs = s.rgs := rfl
@[simp] theorem State.setCore_streams (s : State) (i : Nat) (c : Core) : (s.setCore i c).streams = s.streams := rfl
@[simp] theorem State.setCore_remotes (s : State) (i : Nat) (c : Core) : (s.setCore i c).remotes = s.remotes := rfl
@[simp] theorem State.setCore_out (s : State) (i : Nat) (c : Core) : (s.setCore i c).out = s.out := rfl
@[simp] theorem State.setCore_irqs (s : State) (i : Nat) (c : Core) : (s.setCore i c).irqs = s.irqs := rfl
@[simp] theorem State.setCore_ready (s : State) (i : Nat) (c : Core) : (s.setCore i c).ready = s.ready := rfl
@[simp] theorem State.setCore_growth (s : State) (i : Nat) (c : Core) : (s.setCore i c).growth = s.growth := rfl
@[simp] theorem State.setCore_fz (s : State) (i : Nat) (c : Core) : (s.setCore i c).fz = s.fz := rfl
@[simp] theorem State.setCore_scratchWas (s : State) (i : Nat) (c : Core) : (s.setCore i c).scratchWas = s.scratchWas := rfl
@[simp] theorem State.setCore_runUse (s : State) (i : Nat) (c : Core) : (s.setCore i c).runUse = s.runUse := rfl
@[simp] theorem State.setCore_keyGen (s : State) (i : Nat) (c : Core) : (s.setCore i c).keyGen = s.keyGen := rfl
@[simp] theorem State.setCore_mkeys (s : State) (i : Nat) (c : Core) : (s.setCore i c).mkeys = s.mkeys := rfl
@[simp] theorem State.setCore_skeys (s : State) (i : Nat) (c : Core) : (s.setCore i c).skeys = s.skeys := rfl
@[simp] theorem State.setCore_condemned (s : State) (i : Nat) (c : Core) : (s.setCore i c).condemned = s.condemned := rfl
@[simp] theorem State.setCore_heldFrames (s : State) (i : Nat) (c : Core) : (s.setCore i c).heldFrames = s.heldFrames := rfl
@[simp] theorem State.setCore_ctx (s : State) (i : Nat) (c : Core) (j : Nat) : (s.setCore i c).ctx j = s.ctx j := rfl
@[simp] theorem State.setCore_laneOf (s : State) (i : Nat) (c : Core) (j : Nat) : (s.setCore i c).laneOf j = s.laneOf j := rfl
@[simp] theorem State.setCore_stackOf (s : State) (i : Nat) (c : Core) (j : Nat) : (s.setCore i c).stackOf j = s.stackOf j := rfl
@[simp] theorem State.setCore_quadOf (s : State) (i : Nat) (c : Core) (j : Nat) : (s.setCore i c).quadOf j = s.quadOf j := rfl
@[simp] theorem State.setCore_engq (s : State) (i : Nat) (c : Core) (j : Nat) : (s.setCore i c).engq j = s.engq j := rfl
@[simp] theorem State.setCore_counter (s : State) (i : Nat) (c : Core) (j : Nat) : (s.setCore i c).counter j = s.counter j := rfl
@[simp] theorem State.setCore_job (s : State) (i : Nat) (c : Core) (j : Nat) : (s.setCore i c).job j = s.job j := rfl
@[simp] theorem State.setCore_sub (s : State) (i : Nat) (c : Core) (j : Nat) : (s.setCore i c).sub j = s.sub j := rfl
@[simp] theorem State.setCore_island (s : State) (i : Nat) (c : Core) (j : Nat) : (s.setCore i c).island j = s.island j := rfl
@[simp] theorem State.setCore_port (s : State) (i : Nat) (c : Core) (j : Nat) : (s.setCore i c).port j = s.port j := rfl
@[simp] theorem State.setCore_rg (s : State) (i : Nat) (c : Core) (j : Nat) : (s.setCore i c).rg j = s.rg j := rfl
@[simp] theorem State.setCore_stream (s : State) (i : Nat) (c : Core) (j : Nat) : (s.setCore i c).stream j = s.stream j := rfl
@[simp] theorem State.setCore_raw (s : State) (i : Nat) (c : Core) (j : Nat) : (s.setCore i c).raw j = s.raw j := rfl
@[simp] theorem State.setCore_unit (s : State) (i : Nat) (c : Core) (j : Nat) : (s.setCore i c).unit? j = s.unit? j := rfl
@[simp] theorem State.setCore_cur (s : State) (i : Nat) (c : Core) : (s.setCore i c).cur = s.cur := rfl
/-- What `setCore` wrote is what `core` reads. -/
@[simp] theorem State.setCore_self (s : State) (i : Nat) (c : Core) : (s.setCore i c).core i = c :=
  SMap.get_set_self _ _ _ _
/-- Every other one is as it was. -/
theorem State.setCore_ne (s : State) (i : Nat) (c : Core) {j : Nat} (h : j ≠ i) : (s.setCore i c).core j = s.core j :=
  SMap.get_set_ne _ _ _ h

/-! ### setLane -/

@[simp] theorem State.setLane_slot (s : State) (i : Nat) (l : Lane) : (s.setLane i l).slot = s.slot := rfl
@[simp] theorem State.setLane_lane (s : State) (i : Nat) (l : Lane) : (s.setLane i l).lane = s.lane := rfl
@[simp] theorem State.setLane_queue (s : State) (i : Nat) (l : Lane) : (s.setLane i l).queue = s.queue := rfl
@[simp] theorem State.setLane_tick (s : State) (i : Nat) (l : Lane) : (s.setLane i l).tick = s.tick := rfl
@[simp] theorem State.setLane_time (s : State) (i : Nat) (l : Lane) : (s.setLane i l).time = s.time := rfl
@[simp] theorem State.setLane_pwrs (s : State) (i : Nat) (l : Lane) : (s.setLane i l).pwrs = s.pwrs := rfl
@[simp] theorem State.setLane_regs (s : State) (i : Nat) (l : Lane) : (s.setLane i l).regs = s.regs := rfl
@[simp] theorem State.setLane_ctxs (s : State) (i : Nat) (l : Lane) : (s.setLane i l).ctxs = s.ctxs := rfl
@[simp] theorem State.setLane_cores (s : State) (i : Nat) (l : Lane) : (s.setLane i l).cores = s.cores := rfl
@[simp] theorem State.setLane_units (s : State) (i : Nat) (l : Lane) : (s.setLane i l).units = s.units := rfl
@[simp] theorem State.setLane_launches (s : State) (i : Nat) (l : Lane) : (s.setLane i l).launches = s.launches := rfl
@[simp] theorem State.setLane_counters (s : State) (i : Nat) (l : Lane) : (s.setLane i l).counters = s.counters := rfl
@[simp] theorem State.setLane_jobs (s : State) (i : Nat) (l : Lane) : (s.setLane i l).jobs = s.jobs := rfl
@[simp] theorem State.setLane_subs (s : State) (i : Nat) (l : Lane) : (s.setLane i l).subs = s.subs := rfl
@[simp] theorem State.setLane_mem (s : State) (i : Nat) (l : Lane) : (s.setLane i l).mem = s.mem := rfl
@[simp] theorem State.setLane_memKey (s : State) (i : Nat) (l : Lane) : (s.setLane i l).memKey = s.memKey := rfl
@[simp] theorem State.setLane_spad (s : State) (i : Nat) (l : Lane) : (s.setLane i l).spad = s.spad := rfl
@[simp] theorem State.setLane_scratch (s : State) (i : Nat) (l : Lane) : (s.setLane i l).scratch = s.scratch := rfl
@[simp] theorem State.setLane_bufs (s : State) (i : Nat) (l : Lane) : (s.setLane i l).bufs = s.bufs := rfl
@[simp] theorem State.setLane_bank (s : State) (i : Nat) (l : Lane) : (s.setLane i l).bank = s.bank := rfl
@[simp] theorem State.setLane_fwMem (s : State) (i : Nat) (l : Lane) : (s.setLane i l).fwMem = s.fwMem := rfl
@[simp] theorem State.setLane_tags (s : State) (i : Nat) (l : Lane) : (s.setLane i l).tags = s.tags := rfl
@[simp] theorem State.setLane_lines (s : State) (i : Nat) (l : Lane) : (s.setLane i l).lines = s.lines := rfl
@[simp] theorem State.setLane_poison (s : State) (i : Nat) (l : Lane) : (s.setLane i l).poison = s.poison := rfl
@[simp] theorem State.setLane_runs (s : State) (i : Nat) (l : Lane) : (s.setLane i l).runs = s.runs := rfl
@[simp] theorem State.setLane_checked (s : State) (i : Nat) (l : Lane) : (s.setLane i l).checked = s.checked := rfl
@[simp] theorem State.setLane_failing (s : State) (i : Nat) (l : Lane) : (s.setLane i l).failing = s.failing := rfl
@[simp] theorem State.setLane_next (s : State) (i : Nat) (l : Lane) : (s.setLane i l).next = s.next := rfl
@[simp] theorem State.setLane_nextLater (s : State) (i : Nat) (l : Lane) : (s.setLane i l).nextLater = s.nextLater := rfl
@[simp] theorem State.setLane_sections (s : State) (i : Nat) (l : Lane) : (s.setLane i l).sections = s.sections := rfl
@[simp] theorem State.setLane_engqs (s : State) (i : Nat) (l : Lane) : (s.setLane i l).engqs = s.engqs := rfl
@[simp] theorem State.setLane_stackTab (s : State) (i : Nat) (l : Lane) : (s.setLane i l).stackTab = s.stackTab := rfl
@[simp] theorem State.setLane_quads (s : State) (i : Nat) (l : Lane) : (s.setLane i l).quads = s.quads := rfl
@[simp] theorem State.setLane_sums (s : State) (i : Nat) (l : Lane) : (s.setLane i l).sums = s.sums := rfl
@[simp] theorem State.setLane_islands (s : State) (i : Nat) (l : Lane) : (s.setLane i l).islands = s.islands := rfl
@[simp] theorem State.setLane_power (s : State) (i : Nat) (l : Lane) : (s.setLane i l).power = s.power := rfl
@[simp] theorem State.setLane_ports (s : State) (i : Nat) (l : Lane) : (s.setLane i l).ports = s.ports := rfl
@[simp] theorem State.setLane_rgs (s : State) (i : Nat) (l : Lane) : (s.setLane i l).rgs = s.rgs := rfl
@[simp] theorem State.setLane_streams (s : State) (i : Nat) (l : Lane) : (s.setLane i l).streams = s.streams := rfl
@[simp] theorem State.setLane_remotes (s : State) (i : Nat) (l : Lane) : (s.setLane i l).remotes = s.remotes := rfl
@[simp] theorem State.setLane_out (s : State) (i : Nat) (l : Lane) : (s.setLane i l).out = s.out := rfl
@[simp] theorem State.setLane_irqs (s : State) (i : Nat) (l : Lane) : (s.setLane i l).irqs = s.irqs := rfl
@[simp] theorem State.setLane_ready (s : State) (i : Nat) (l : Lane) : (s.setLane i l).ready = s.ready := rfl
@[simp] theorem State.setLane_growth (s : State) (i : Nat) (l : Lane) : (s.setLane i l).growth = s.growth := rfl
@[simp] theorem State.setLane_fz (s : State) (i : Nat) (l : Lane) : (s.setLane i l).fz = s.fz := rfl
@[simp] theorem State.setLane_scratchWas (s : State) (i : Nat) (l : Lane) : (s.setLane i l).scratchWas = s.scratchWas := rfl
@[simp] theorem State.setLane_runUse (s : State) (i : Nat) (l : Lane) : (s.setLane i l).runUse = s.runUse := rfl
@[simp] theorem State.setLane_keyGen (s : State) (i : Nat) (l : Lane) : (s.setLane i l).keyGen = s.keyGen := rfl
@[simp] theorem State.setLane_mkeys (s : State) (i : Nat) (l : Lane) : (s.setLane i l).mkeys = s.mkeys := rfl
@[simp] theorem State.setLane_skeys (s : State) (i : Nat) (l : Lane) : (s.setLane i l).skeys = s.skeys := rfl
@[simp] theorem State.setLane_condemned (s : State) (i : Nat) (l : Lane) : (s.setLane i l).condemned = s.condemned := rfl
@[simp] theorem State.setLane_heldFrames (s : State) (i : Nat) (l : Lane) : (s.setLane i l).heldFrames = s.heldFrames := rfl
@[simp] theorem State.setLane_ctx (s : State) (i : Nat) (l : Lane) (j : Nat) : (s.setLane i l).ctx j = s.ctx j := rfl
@[simp] theorem State.setLane_core (s : State) (i : Nat) (l : Lane) (j : Nat) : (s.setLane i l).core j = s.core j := rfl
@[simp] theorem State.setLane_stackOf (s : State) (i : Nat) (l : Lane) (j : Nat) : (s.setLane i l).stackOf j = s.stackOf j := rfl
@[simp] theorem State.setLane_quadOf (s : State) (i : Nat) (l : Lane) (j : Nat) : (s.setLane i l).quadOf j = s.quadOf j := rfl
@[simp] theorem State.setLane_engq (s : State) (i : Nat) (l : Lane) (j : Nat) : (s.setLane i l).engq j = s.engq j := rfl
@[simp] theorem State.setLane_counter (s : State) (i : Nat) (l : Lane) (j : Nat) : (s.setLane i l).counter j = s.counter j := rfl
@[simp] theorem State.setLane_job (s : State) (i : Nat) (l : Lane) (j : Nat) : (s.setLane i l).job j = s.job j := rfl
@[simp] theorem State.setLane_sub (s : State) (i : Nat) (l : Lane) (j : Nat) : (s.setLane i l).sub j = s.sub j := rfl
@[simp] theorem State.setLane_island (s : State) (i : Nat) (l : Lane) (j : Nat) : (s.setLane i l).island j = s.island j := rfl
@[simp] theorem State.setLane_port (s : State) (i : Nat) (l : Lane) (j : Nat) : (s.setLane i l).port j = s.port j := rfl
@[simp] theorem State.setLane_rg (s : State) (i : Nat) (l : Lane) (j : Nat) : (s.setLane i l).rg j = s.rg j := rfl
@[simp] theorem State.setLane_stream (s : State) (i : Nat) (l : Lane) (j : Nat) : (s.setLane i l).stream j = s.stream j := rfl
@[simp] theorem State.setLane_raw (s : State) (i : Nat) (l : Lane) (j : Nat) : (s.setLane i l).raw j = s.raw j := rfl
@[simp] theorem State.setLane_unit (s : State) (i : Nat) (l : Lane) (j : Nat) : (s.setLane i l).unit? j = s.unit? j := rfl
@[simp] theorem State.setLane_cur (s : State) (i : Nat) (l : Lane) : (s.setLane i l).cur = s.cur := rfl
/-- What `setLane` wrote is what `laneOf` reads. -/
@[simp] theorem State.setLane_self (s : State) (i : Nat) (l : Lane) : (s.setLane i l).laneOf i = l :=
  SMap.get_set_self _ _ _ _
/-- Every other one is as it was. -/
theorem State.setLane_ne (s : State) (i : Nat) (l : Lane) {j : Nat} (h : j ≠ i) : (s.setLane i l).laneOf j = s.laneOf j :=
  SMap.get_set_ne _ _ _ h

/-! ### setStack -/

@[simp] theorem State.setStack_slot (s : State) (i : Nat) (x : Stack) : (s.setStack i x).slot = s.slot := rfl
@[simp] theorem State.setStack_lane (s : State) (i : Nat) (x : Stack) : (s.setStack i x).lane = s.lane := rfl
@[simp] theorem State.setStack_queue (s : State) (i : Nat) (x : Stack) : (s.setStack i x).queue = s.queue := rfl
@[simp] theorem State.setStack_tick (s : State) (i : Nat) (x : Stack) : (s.setStack i x).tick = s.tick := rfl
@[simp] theorem State.setStack_time (s : State) (i : Nat) (x : Stack) : (s.setStack i x).time = s.time := rfl
@[simp] theorem State.setStack_pwrs (s : State) (i : Nat) (x : Stack) : (s.setStack i x).pwrs = s.pwrs := rfl
@[simp] theorem State.setStack_regs (s : State) (i : Nat) (x : Stack) : (s.setStack i x).regs = s.regs := rfl
@[simp] theorem State.setStack_ctxs (s : State) (i : Nat) (x : Stack) : (s.setStack i x).ctxs = s.ctxs := rfl
@[simp] theorem State.setStack_cores (s : State) (i : Nat) (x : Stack) : (s.setStack i x).cores = s.cores := rfl
@[simp] theorem State.setStack_units (s : State) (i : Nat) (x : Stack) : (s.setStack i x).units = s.units := rfl
@[simp] theorem State.setStack_launches (s : State) (i : Nat) (x : Stack) : (s.setStack i x).launches = s.launches := rfl
@[simp] theorem State.setStack_counters (s : State) (i : Nat) (x : Stack) : (s.setStack i x).counters = s.counters := rfl
@[simp] theorem State.setStack_jobs (s : State) (i : Nat) (x : Stack) : (s.setStack i x).jobs = s.jobs := rfl
@[simp] theorem State.setStack_subs (s : State) (i : Nat) (x : Stack) : (s.setStack i x).subs = s.subs := rfl
@[simp] theorem State.setStack_mem (s : State) (i : Nat) (x : Stack) : (s.setStack i x).mem = s.mem := rfl
@[simp] theorem State.setStack_memKey (s : State) (i : Nat) (x : Stack) : (s.setStack i x).memKey = s.memKey := rfl
@[simp] theorem State.setStack_spad (s : State) (i : Nat) (x : Stack) : (s.setStack i x).spad = s.spad := rfl
@[simp] theorem State.setStack_scratch (s : State) (i : Nat) (x : Stack) : (s.setStack i x).scratch = s.scratch := rfl
@[simp] theorem State.setStack_bufs (s : State) (i : Nat) (x : Stack) : (s.setStack i x).bufs = s.bufs := rfl
@[simp] theorem State.setStack_bank (s : State) (i : Nat) (x : Stack) : (s.setStack i x).bank = s.bank := rfl
@[simp] theorem State.setStack_fwMem (s : State) (i : Nat) (x : Stack) : (s.setStack i x).fwMem = s.fwMem := rfl
@[simp] theorem State.setStack_tags (s : State) (i : Nat) (x : Stack) : (s.setStack i x).tags = s.tags := rfl
@[simp] theorem State.setStack_lines (s : State) (i : Nat) (x : Stack) : (s.setStack i x).lines = s.lines := rfl
@[simp] theorem State.setStack_poison (s : State) (i : Nat) (x : Stack) : (s.setStack i x).poison = s.poison := rfl
@[simp] theorem State.setStack_runs (s : State) (i : Nat) (x : Stack) : (s.setStack i x).runs = s.runs := rfl
@[simp] theorem State.setStack_checked (s : State) (i : Nat) (x : Stack) : (s.setStack i x).checked = s.checked := rfl
@[simp] theorem State.setStack_failing (s : State) (i : Nat) (x : Stack) : (s.setStack i x).failing = s.failing := rfl
@[simp] theorem State.setStack_next (s : State) (i : Nat) (x : Stack) : (s.setStack i x).next = s.next := rfl
@[simp] theorem State.setStack_nextLater (s : State) (i : Nat) (x : Stack) : (s.setStack i x).nextLater = s.nextLater := rfl
@[simp] theorem State.setStack_sections (s : State) (i : Nat) (x : Stack) : (s.setStack i x).sections = s.sections := rfl
@[simp] theorem State.setStack_engqs (s : State) (i : Nat) (x : Stack) : (s.setStack i x).engqs = s.engqs := rfl
@[simp] theorem State.setStack_lanes (s : State) (i : Nat) (x : Stack) : (s.setStack i x).lanes = s.lanes := rfl
@[simp] theorem State.setStack_quads (s : State) (i : Nat) (x : Stack) : (s.setStack i x).quads = s.quads := rfl
@[simp] theorem State.setStack_sums (s : State) (i : Nat) (x : Stack) : (s.setStack i x).sums = s.sums := rfl
@[simp] theorem State.setStack_islands (s : State) (i : Nat) (x : Stack) : (s.setStack i x).islands = s.islands := rfl
@[simp] theorem State.setStack_power (s : State) (i : Nat) (x : Stack) : (s.setStack i x).power = s.power := rfl
@[simp] theorem State.setStack_ports (s : State) (i : Nat) (x : Stack) : (s.setStack i x).ports = s.ports := rfl
@[simp] theorem State.setStack_rgs (s : State) (i : Nat) (x : Stack) : (s.setStack i x).rgs = s.rgs := rfl
@[simp] theorem State.setStack_streams (s : State) (i : Nat) (x : Stack) : (s.setStack i x).streams = s.streams := rfl
@[simp] theorem State.setStack_remotes (s : State) (i : Nat) (x : Stack) : (s.setStack i x).remotes = s.remotes := rfl
@[simp] theorem State.setStack_out (s : State) (i : Nat) (x : Stack) : (s.setStack i x).out = s.out := rfl
@[simp] theorem State.setStack_irqs (s : State) (i : Nat) (x : Stack) : (s.setStack i x).irqs = s.irqs := rfl
@[simp] theorem State.setStack_ready (s : State) (i : Nat) (x : Stack) : (s.setStack i x).ready = s.ready := rfl
@[simp] theorem State.setStack_growth (s : State) (i : Nat) (x : Stack) : (s.setStack i x).growth = s.growth := rfl
@[simp] theorem State.setStack_fz (s : State) (i : Nat) (x : Stack) : (s.setStack i x).fz = s.fz := rfl
@[simp] theorem State.setStack_scratchWas (s : State) (i : Nat) (x : Stack) : (s.setStack i x).scratchWas = s.scratchWas := rfl
@[simp] theorem State.setStack_runUse (s : State) (i : Nat) (x : Stack) : (s.setStack i x).runUse = s.runUse := rfl
@[simp] theorem State.setStack_keyGen (s : State) (i : Nat) (x : Stack) : (s.setStack i x).keyGen = s.keyGen := rfl
@[simp] theorem State.setStack_mkeys (s : State) (i : Nat) (x : Stack) : (s.setStack i x).mkeys = s.mkeys := rfl
@[simp] theorem State.setStack_skeys (s : State) (i : Nat) (x : Stack) : (s.setStack i x).skeys = s.skeys := rfl
@[simp] theorem State.setStack_condemned (s : State) (i : Nat) (x : Stack) : (s.setStack i x).condemned = s.condemned := rfl
@[simp] theorem State.setStack_heldFrames (s : State) (i : Nat) (x : Stack) : (s.setStack i x).heldFrames = s.heldFrames := rfl
@[simp] theorem State.setStack_ctx (s : State) (i : Nat) (x : Stack) (j : Nat) : (s.setStack i x).ctx j = s.ctx j := rfl
@[simp] theorem State.setStack_core (s : State) (i : Nat) (x : Stack) (j : Nat) : (s.setStack i x).core j = s.core j := rfl
@[simp] theorem State.setStack_laneOf (s : State) (i : Nat) (x : Stack) (j : Nat) : (s.setStack i x).laneOf j = s.laneOf j := rfl
@[simp] theorem State.setStack_quadOf (s : State) (i : Nat) (x : Stack) (j : Nat) : (s.setStack i x).quadOf j = s.quadOf j := rfl
@[simp] theorem State.setStack_engq (s : State) (i : Nat) (x : Stack) (j : Nat) : (s.setStack i x).engq j = s.engq j := rfl
@[simp] theorem State.setStack_counter (s : State) (i : Nat) (x : Stack) (j : Nat) : (s.setStack i x).counter j = s.counter j := rfl
@[simp] theorem State.setStack_job (s : State) (i : Nat) (x : Stack) (j : Nat) : (s.setStack i x).job j = s.job j := rfl
@[simp] theorem State.setStack_sub (s : State) (i : Nat) (x : Stack) (j : Nat) : (s.setStack i x).sub j = s.sub j := rfl
@[simp] theorem State.setStack_island (s : State) (i : Nat) (x : Stack) (j : Nat) : (s.setStack i x).island j = s.island j := rfl
@[simp] theorem State.setStack_port (s : State) (i : Nat) (x : Stack) (j : Nat) : (s.setStack i x).port j = s.port j := rfl
@[simp] theorem State.setStack_rg (s : State) (i : Nat) (x : Stack) (j : Nat) : (s.setStack i x).rg j = s.rg j := rfl
@[simp] theorem State.setStack_stream (s : State) (i : Nat) (x : Stack) (j : Nat) : (s.setStack i x).stream j = s.stream j := rfl
@[simp] theorem State.setStack_raw (s : State) (i : Nat) (x : Stack) (j : Nat) : (s.setStack i x).raw j = s.raw j := rfl
@[simp] theorem State.setStack_unit (s : State) (i : Nat) (x : Stack) (j : Nat) : (s.setStack i x).unit? j = s.unit? j := rfl
@[simp] theorem State.setStack_cur (s : State) (i : Nat) (x : Stack) : (s.setStack i x).cur = s.cur := rfl
/-- What `setStack` wrote is what `stackOf` reads. -/
@[simp] theorem State.setStack_self (s : State) (i : Nat) (x : Stack) : (s.setStack i x).stackOf i = x :=
  SMap.get_set_self _ _ _ _
/-- Every other one is as it was. -/
theorem State.setStack_ne (s : State) (i : Nat) (x : Stack) {j : Nat} (h : j ≠ i) : (s.setStack i x).stackOf j = s.stackOf j :=
  SMap.get_set_ne _ _ _ h

/-! ### setQuad -/

@[simp] theorem State.setQuad_slot (s : State) (i : Nat) (x : Quad) : (s.setQuad i x).slot = s.slot := rfl
@[simp] theorem State.setQuad_lane (s : State) (i : Nat) (x : Quad) : (s.setQuad i x).lane = s.lane := rfl
@[simp] theorem State.setQuad_queue (s : State) (i : Nat) (x : Quad) : (s.setQuad i x).queue = s.queue := rfl
@[simp] theorem State.setQuad_tick (s : State) (i : Nat) (x : Quad) : (s.setQuad i x).tick = s.tick := rfl
@[simp] theorem State.setQuad_time (s : State) (i : Nat) (x : Quad) : (s.setQuad i x).time = s.time := rfl
@[simp] theorem State.setQuad_pwrs (s : State) (i : Nat) (x : Quad) : (s.setQuad i x).pwrs = s.pwrs := rfl
@[simp] theorem State.setQuad_regs (s : State) (i : Nat) (x : Quad) : (s.setQuad i x).regs = s.regs := rfl
@[simp] theorem State.setQuad_ctxs (s : State) (i : Nat) (x : Quad) : (s.setQuad i x).ctxs = s.ctxs := rfl
@[simp] theorem State.setQuad_cores (s : State) (i : Nat) (x : Quad) : (s.setQuad i x).cores = s.cores := rfl
@[simp] theorem State.setQuad_units (s : State) (i : Nat) (x : Quad) : (s.setQuad i x).units = s.units := rfl
@[simp] theorem State.setQuad_launches (s : State) (i : Nat) (x : Quad) : (s.setQuad i x).launches = s.launches := rfl
@[simp] theorem State.setQuad_counters (s : State) (i : Nat) (x : Quad) : (s.setQuad i x).counters = s.counters := rfl
@[simp] theorem State.setQuad_jobs (s : State) (i : Nat) (x : Quad) : (s.setQuad i x).jobs = s.jobs := rfl
@[simp] theorem State.setQuad_subs (s : State) (i : Nat) (x : Quad) : (s.setQuad i x).subs = s.subs := rfl
@[simp] theorem State.setQuad_mem (s : State) (i : Nat) (x : Quad) : (s.setQuad i x).mem = s.mem := rfl
@[simp] theorem State.setQuad_memKey (s : State) (i : Nat) (x : Quad) : (s.setQuad i x).memKey = s.memKey := rfl
@[simp] theorem State.setQuad_spad (s : State) (i : Nat) (x : Quad) : (s.setQuad i x).spad = s.spad := rfl
@[simp] theorem State.setQuad_scratch (s : State) (i : Nat) (x : Quad) : (s.setQuad i x).scratch = s.scratch := rfl
@[simp] theorem State.setQuad_bufs (s : State) (i : Nat) (x : Quad) : (s.setQuad i x).bufs = s.bufs := rfl
@[simp] theorem State.setQuad_bank (s : State) (i : Nat) (x : Quad) : (s.setQuad i x).bank = s.bank := rfl
@[simp] theorem State.setQuad_fwMem (s : State) (i : Nat) (x : Quad) : (s.setQuad i x).fwMem = s.fwMem := rfl
@[simp] theorem State.setQuad_tags (s : State) (i : Nat) (x : Quad) : (s.setQuad i x).tags = s.tags := rfl
@[simp] theorem State.setQuad_lines (s : State) (i : Nat) (x : Quad) : (s.setQuad i x).lines = s.lines := rfl
@[simp] theorem State.setQuad_poison (s : State) (i : Nat) (x : Quad) : (s.setQuad i x).poison = s.poison := rfl
@[simp] theorem State.setQuad_runs (s : State) (i : Nat) (x : Quad) : (s.setQuad i x).runs = s.runs := rfl
@[simp] theorem State.setQuad_checked (s : State) (i : Nat) (x : Quad) : (s.setQuad i x).checked = s.checked := rfl
@[simp] theorem State.setQuad_failing (s : State) (i : Nat) (x : Quad) : (s.setQuad i x).failing = s.failing := rfl
@[simp] theorem State.setQuad_next (s : State) (i : Nat) (x : Quad) : (s.setQuad i x).next = s.next := rfl
@[simp] theorem State.setQuad_nextLater (s : State) (i : Nat) (x : Quad) : (s.setQuad i x).nextLater = s.nextLater := rfl
@[simp] theorem State.setQuad_sections (s : State) (i : Nat) (x : Quad) : (s.setQuad i x).sections = s.sections := rfl
@[simp] theorem State.setQuad_engqs (s : State) (i : Nat) (x : Quad) : (s.setQuad i x).engqs = s.engqs := rfl
@[simp] theorem State.setQuad_lanes (s : State) (i : Nat) (x : Quad) : (s.setQuad i x).lanes = s.lanes := rfl
@[simp] theorem State.setQuad_stackTab (s : State) (i : Nat) (x : Quad) : (s.setQuad i x).stackTab = s.stackTab := rfl
@[simp] theorem State.setQuad_sums (s : State) (i : Nat) (x : Quad) : (s.setQuad i x).sums = s.sums := rfl
@[simp] theorem State.setQuad_islands (s : State) (i : Nat) (x : Quad) : (s.setQuad i x).islands = s.islands := rfl
@[simp] theorem State.setQuad_power (s : State) (i : Nat) (x : Quad) : (s.setQuad i x).power = s.power := rfl
@[simp] theorem State.setQuad_ports (s : State) (i : Nat) (x : Quad) : (s.setQuad i x).ports = s.ports := rfl
@[simp] theorem State.setQuad_rgs (s : State) (i : Nat) (x : Quad) : (s.setQuad i x).rgs = s.rgs := rfl
@[simp] theorem State.setQuad_streams (s : State) (i : Nat) (x : Quad) : (s.setQuad i x).streams = s.streams := rfl
@[simp] theorem State.setQuad_remotes (s : State) (i : Nat) (x : Quad) : (s.setQuad i x).remotes = s.remotes := rfl
@[simp] theorem State.setQuad_out (s : State) (i : Nat) (x : Quad) : (s.setQuad i x).out = s.out := rfl
@[simp] theorem State.setQuad_irqs (s : State) (i : Nat) (x : Quad) : (s.setQuad i x).irqs = s.irqs := rfl
@[simp] theorem State.setQuad_ready (s : State) (i : Nat) (x : Quad) : (s.setQuad i x).ready = s.ready := rfl
@[simp] theorem State.setQuad_growth (s : State) (i : Nat) (x : Quad) : (s.setQuad i x).growth = s.growth := rfl
@[simp] theorem State.setQuad_fz (s : State) (i : Nat) (x : Quad) : (s.setQuad i x).fz = s.fz := rfl
@[simp] theorem State.setQuad_scratchWas (s : State) (i : Nat) (x : Quad) : (s.setQuad i x).scratchWas = s.scratchWas := rfl
@[simp] theorem State.setQuad_runUse (s : State) (i : Nat) (x : Quad) : (s.setQuad i x).runUse = s.runUse := rfl
@[simp] theorem State.setQuad_keyGen (s : State) (i : Nat) (x : Quad) : (s.setQuad i x).keyGen = s.keyGen := rfl
@[simp] theorem State.setQuad_mkeys (s : State) (i : Nat) (x : Quad) : (s.setQuad i x).mkeys = s.mkeys := rfl
@[simp] theorem State.setQuad_skeys (s : State) (i : Nat) (x : Quad) : (s.setQuad i x).skeys = s.skeys := rfl
@[simp] theorem State.setQuad_condemned (s : State) (i : Nat) (x : Quad) : (s.setQuad i x).condemned = s.condemned := rfl
@[simp] theorem State.setQuad_heldFrames (s : State) (i : Nat) (x : Quad) : (s.setQuad i x).heldFrames = s.heldFrames := rfl
@[simp] theorem State.setQuad_ctx (s : State) (i : Nat) (x : Quad) (j : Nat) : (s.setQuad i x).ctx j = s.ctx j := rfl
@[simp] theorem State.setQuad_core (s : State) (i : Nat) (x : Quad) (j : Nat) : (s.setQuad i x).core j = s.core j := rfl
@[simp] theorem State.setQuad_laneOf (s : State) (i : Nat) (x : Quad) (j : Nat) : (s.setQuad i x).laneOf j = s.laneOf j := rfl
@[simp] theorem State.setQuad_stackOf (s : State) (i : Nat) (x : Quad) (j : Nat) : (s.setQuad i x).stackOf j = s.stackOf j := rfl
@[simp] theorem State.setQuad_engq (s : State) (i : Nat) (x : Quad) (j : Nat) : (s.setQuad i x).engq j = s.engq j := rfl
@[simp] theorem State.setQuad_counter (s : State) (i : Nat) (x : Quad) (j : Nat) : (s.setQuad i x).counter j = s.counter j := rfl
@[simp] theorem State.setQuad_job (s : State) (i : Nat) (x : Quad) (j : Nat) : (s.setQuad i x).job j = s.job j := rfl
@[simp] theorem State.setQuad_sub (s : State) (i : Nat) (x : Quad) (j : Nat) : (s.setQuad i x).sub j = s.sub j := rfl
@[simp] theorem State.setQuad_island (s : State) (i : Nat) (x : Quad) (j : Nat) : (s.setQuad i x).island j = s.island j := rfl
@[simp] theorem State.setQuad_port (s : State) (i : Nat) (x : Quad) (j : Nat) : (s.setQuad i x).port j = s.port j := rfl
@[simp] theorem State.setQuad_rg (s : State) (i : Nat) (x : Quad) (j : Nat) : (s.setQuad i x).rg j = s.rg j := rfl
@[simp] theorem State.setQuad_stream (s : State) (i : Nat) (x : Quad) (j : Nat) : (s.setQuad i x).stream j = s.stream j := rfl
@[simp] theorem State.setQuad_raw (s : State) (i : Nat) (x : Quad) (j : Nat) : (s.setQuad i x).raw j = s.raw j := rfl
@[simp] theorem State.setQuad_unit (s : State) (i : Nat) (x : Quad) (j : Nat) : (s.setQuad i x).unit? j = s.unit? j := rfl
@[simp] theorem State.setQuad_cur (s : State) (i : Nat) (x : Quad) : (s.setQuad i x).cur = s.cur := rfl
/-- What `setQuad` wrote is what `quadOf` reads. -/
@[simp] theorem State.setQuad_self (s : State) (i : Nat) (x : Quad) : (s.setQuad i x).quadOf i = x :=
  SMap.get_set_self _ _ _ _
/-- Every other one is as it was. -/
theorem State.setQuad_ne (s : State) (i : Nat) (x : Quad) {j : Nat} (h : j ≠ i) : (s.setQuad i x).quadOf j = s.quadOf j :=
  SMap.get_set_ne _ _ _ h

/-! ### setEngq -/

@[simp] theorem State.setEngq_slot (s : State) (i : Nat) (x : EngQ) : (s.setEngq i x).slot = s.slot := rfl
@[simp] theorem State.setEngq_lane (s : State) (i : Nat) (x : EngQ) : (s.setEngq i x).lane = s.lane := rfl
@[simp] theorem State.setEngq_queue (s : State) (i : Nat) (x : EngQ) : (s.setEngq i x).queue = s.queue := rfl
@[simp] theorem State.setEngq_tick (s : State) (i : Nat) (x : EngQ) : (s.setEngq i x).tick = s.tick := rfl
@[simp] theorem State.setEngq_time (s : State) (i : Nat) (x : EngQ) : (s.setEngq i x).time = s.time := rfl
@[simp] theorem State.setEngq_pwrs (s : State) (i : Nat) (x : EngQ) : (s.setEngq i x).pwrs = s.pwrs := rfl
@[simp] theorem State.setEngq_regs (s : State) (i : Nat) (x : EngQ) : (s.setEngq i x).regs = s.regs := rfl
@[simp] theorem State.setEngq_ctxs (s : State) (i : Nat) (x : EngQ) : (s.setEngq i x).ctxs = s.ctxs := rfl
@[simp] theorem State.setEngq_cores (s : State) (i : Nat) (x : EngQ) : (s.setEngq i x).cores = s.cores := rfl
@[simp] theorem State.setEngq_units (s : State) (i : Nat) (x : EngQ) : (s.setEngq i x).units = s.units := rfl
@[simp] theorem State.setEngq_launches (s : State) (i : Nat) (x : EngQ) : (s.setEngq i x).launches = s.launches := rfl
@[simp] theorem State.setEngq_counters (s : State) (i : Nat) (x : EngQ) : (s.setEngq i x).counters = s.counters := rfl
@[simp] theorem State.setEngq_jobs (s : State) (i : Nat) (x : EngQ) : (s.setEngq i x).jobs = s.jobs := rfl
@[simp] theorem State.setEngq_subs (s : State) (i : Nat) (x : EngQ) : (s.setEngq i x).subs = s.subs := rfl
@[simp] theorem State.setEngq_mem (s : State) (i : Nat) (x : EngQ) : (s.setEngq i x).mem = s.mem := rfl
@[simp] theorem State.setEngq_memKey (s : State) (i : Nat) (x : EngQ) : (s.setEngq i x).memKey = s.memKey := rfl
@[simp] theorem State.setEngq_spad (s : State) (i : Nat) (x : EngQ) : (s.setEngq i x).spad = s.spad := rfl
@[simp] theorem State.setEngq_scratch (s : State) (i : Nat) (x : EngQ) : (s.setEngq i x).scratch = s.scratch := rfl
@[simp] theorem State.setEngq_bufs (s : State) (i : Nat) (x : EngQ) : (s.setEngq i x).bufs = s.bufs := rfl
@[simp] theorem State.setEngq_bank (s : State) (i : Nat) (x : EngQ) : (s.setEngq i x).bank = s.bank := rfl
@[simp] theorem State.setEngq_fwMem (s : State) (i : Nat) (x : EngQ) : (s.setEngq i x).fwMem = s.fwMem := rfl
@[simp] theorem State.setEngq_tags (s : State) (i : Nat) (x : EngQ) : (s.setEngq i x).tags = s.tags := rfl
@[simp] theorem State.setEngq_lines (s : State) (i : Nat) (x : EngQ) : (s.setEngq i x).lines = s.lines := rfl
@[simp] theorem State.setEngq_poison (s : State) (i : Nat) (x : EngQ) : (s.setEngq i x).poison = s.poison := rfl
@[simp] theorem State.setEngq_runs (s : State) (i : Nat) (x : EngQ) : (s.setEngq i x).runs = s.runs := rfl
@[simp] theorem State.setEngq_checked (s : State) (i : Nat) (x : EngQ) : (s.setEngq i x).checked = s.checked := rfl
@[simp] theorem State.setEngq_failing (s : State) (i : Nat) (x : EngQ) : (s.setEngq i x).failing = s.failing := rfl
@[simp] theorem State.setEngq_next (s : State) (i : Nat) (x : EngQ) : (s.setEngq i x).next = s.next := rfl
@[simp] theorem State.setEngq_nextLater (s : State) (i : Nat) (x : EngQ) : (s.setEngq i x).nextLater = s.nextLater := rfl
@[simp] theorem State.setEngq_sections (s : State) (i : Nat) (x : EngQ) : (s.setEngq i x).sections = s.sections := rfl
@[simp] theorem State.setEngq_lanes (s : State) (i : Nat) (x : EngQ) : (s.setEngq i x).lanes = s.lanes := rfl
@[simp] theorem State.setEngq_stackTab (s : State) (i : Nat) (x : EngQ) : (s.setEngq i x).stackTab = s.stackTab := rfl
@[simp] theorem State.setEngq_quads (s : State) (i : Nat) (x : EngQ) : (s.setEngq i x).quads = s.quads := rfl
@[simp] theorem State.setEngq_sums (s : State) (i : Nat) (x : EngQ) : (s.setEngq i x).sums = s.sums := rfl
@[simp] theorem State.setEngq_islands (s : State) (i : Nat) (x : EngQ) : (s.setEngq i x).islands = s.islands := rfl
@[simp] theorem State.setEngq_power (s : State) (i : Nat) (x : EngQ) : (s.setEngq i x).power = s.power := rfl
@[simp] theorem State.setEngq_ports (s : State) (i : Nat) (x : EngQ) : (s.setEngq i x).ports = s.ports := rfl
@[simp] theorem State.setEngq_rgs (s : State) (i : Nat) (x : EngQ) : (s.setEngq i x).rgs = s.rgs := rfl
@[simp] theorem State.setEngq_streams (s : State) (i : Nat) (x : EngQ) : (s.setEngq i x).streams = s.streams := rfl
@[simp] theorem State.setEngq_remotes (s : State) (i : Nat) (x : EngQ) : (s.setEngq i x).remotes = s.remotes := rfl
@[simp] theorem State.setEngq_out (s : State) (i : Nat) (x : EngQ) : (s.setEngq i x).out = s.out := rfl
@[simp] theorem State.setEngq_irqs (s : State) (i : Nat) (x : EngQ) : (s.setEngq i x).irqs = s.irqs := rfl
@[simp] theorem State.setEngq_ready (s : State) (i : Nat) (x : EngQ) : (s.setEngq i x).ready = s.ready := rfl
@[simp] theorem State.setEngq_growth (s : State) (i : Nat) (x : EngQ) : (s.setEngq i x).growth = s.growth := rfl
@[simp] theorem State.setEngq_fz (s : State) (i : Nat) (x : EngQ) : (s.setEngq i x).fz = s.fz := rfl
@[simp] theorem State.setEngq_scratchWas (s : State) (i : Nat) (x : EngQ) : (s.setEngq i x).scratchWas = s.scratchWas := rfl
@[simp] theorem State.setEngq_runUse (s : State) (i : Nat) (x : EngQ) : (s.setEngq i x).runUse = s.runUse := rfl
@[simp] theorem State.setEngq_keyGen (s : State) (i : Nat) (x : EngQ) : (s.setEngq i x).keyGen = s.keyGen := rfl
@[simp] theorem State.setEngq_mkeys (s : State) (i : Nat) (x : EngQ) : (s.setEngq i x).mkeys = s.mkeys := rfl
@[simp] theorem State.setEngq_skeys (s : State) (i : Nat) (x : EngQ) : (s.setEngq i x).skeys = s.skeys := rfl
@[simp] theorem State.setEngq_condemned (s : State) (i : Nat) (x : EngQ) : (s.setEngq i x).condemned = s.condemned := rfl
@[simp] theorem State.setEngq_heldFrames (s : State) (i : Nat) (x : EngQ) : (s.setEngq i x).heldFrames = s.heldFrames := rfl
@[simp] theorem State.setEngq_ctx (s : State) (i : Nat) (x : EngQ) (j : Nat) : (s.setEngq i x).ctx j = s.ctx j := rfl
@[simp] theorem State.setEngq_core (s : State) (i : Nat) (x : EngQ) (j : Nat) : (s.setEngq i x).core j = s.core j := rfl
@[simp] theorem State.setEngq_laneOf (s : State) (i : Nat) (x : EngQ) (j : Nat) : (s.setEngq i x).laneOf j = s.laneOf j := rfl
@[simp] theorem State.setEngq_stackOf (s : State) (i : Nat) (x : EngQ) (j : Nat) : (s.setEngq i x).stackOf j = s.stackOf j := rfl
@[simp] theorem State.setEngq_quadOf (s : State) (i : Nat) (x : EngQ) (j : Nat) : (s.setEngq i x).quadOf j = s.quadOf j := rfl
@[simp] theorem State.setEngq_counter (s : State) (i : Nat) (x : EngQ) (j : Nat) : (s.setEngq i x).counter j = s.counter j := rfl
@[simp] theorem State.setEngq_job (s : State) (i : Nat) (x : EngQ) (j : Nat) : (s.setEngq i x).job j = s.job j := rfl
@[simp] theorem State.setEngq_sub (s : State) (i : Nat) (x : EngQ) (j : Nat) : (s.setEngq i x).sub j = s.sub j := rfl
@[simp] theorem State.setEngq_island (s : State) (i : Nat) (x : EngQ) (j : Nat) : (s.setEngq i x).island j = s.island j := rfl
@[simp] theorem State.setEngq_port (s : State) (i : Nat) (x : EngQ) (j : Nat) : (s.setEngq i x).port j = s.port j := rfl
@[simp] theorem State.setEngq_rg (s : State) (i : Nat) (x : EngQ) (j : Nat) : (s.setEngq i x).rg j = s.rg j := rfl
@[simp] theorem State.setEngq_stream (s : State) (i : Nat) (x : EngQ) (j : Nat) : (s.setEngq i x).stream j = s.stream j := rfl
@[simp] theorem State.setEngq_raw (s : State) (i : Nat) (x : EngQ) (j : Nat) : (s.setEngq i x).raw j = s.raw j := rfl
@[simp] theorem State.setEngq_unit (s : State) (i : Nat) (x : EngQ) (j : Nat) : (s.setEngq i x).unit? j = s.unit? j := rfl
@[simp] theorem State.setEngq_cur (s : State) (i : Nat) (x : EngQ) : (s.setEngq i x).cur = s.cur := rfl
/-- What `setEngq` wrote is what `engq` reads. -/
@[simp] theorem State.setEngq_self (s : State) (i : Nat) (x : EngQ) : (s.setEngq i x).engq i = x :=
  SMap.get_set_self _ _ _ _
/-- Every other one is as it was. -/
theorem State.setEngq_ne (s : State) (i : Nat) (x : EngQ) {j : Nat} (h : j ≠ i) : (s.setEngq i x).engq j = s.engq j :=
  SMap.get_set_ne _ _ _ h

/-! ### setCounter -/

@[simp] theorem State.setCounter_slot (s : State) (i : Nat) (x : Counter) : (s.setCounter i x).slot = s.slot := rfl
@[simp] theorem State.setCounter_lane (s : State) (i : Nat) (x : Counter) : (s.setCounter i x).lane = s.lane := rfl
@[simp] theorem State.setCounter_queue (s : State) (i : Nat) (x : Counter) : (s.setCounter i x).queue = s.queue := rfl
@[simp] theorem State.setCounter_tick (s : State) (i : Nat) (x : Counter) : (s.setCounter i x).tick = s.tick := rfl
@[simp] theorem State.setCounter_time (s : State) (i : Nat) (x : Counter) : (s.setCounter i x).time = s.time := rfl
@[simp] theorem State.setCounter_pwrs (s : State) (i : Nat) (x : Counter) : (s.setCounter i x).pwrs = s.pwrs := rfl
@[simp] theorem State.setCounter_regs (s : State) (i : Nat) (x : Counter) : (s.setCounter i x).regs = s.regs := rfl
@[simp] theorem State.setCounter_ctxs (s : State) (i : Nat) (x : Counter) : (s.setCounter i x).ctxs = s.ctxs := rfl
@[simp] theorem State.setCounter_cores (s : State) (i : Nat) (x : Counter) : (s.setCounter i x).cores = s.cores := rfl
@[simp] theorem State.setCounter_units (s : State) (i : Nat) (x : Counter) : (s.setCounter i x).units = s.units := rfl
@[simp] theorem State.setCounter_launches (s : State) (i : Nat) (x : Counter) : (s.setCounter i x).launches = s.launches := rfl
@[simp] theorem State.setCounter_jobs (s : State) (i : Nat) (x : Counter) : (s.setCounter i x).jobs = s.jobs := rfl
@[simp] theorem State.setCounter_subs (s : State) (i : Nat) (x : Counter) : (s.setCounter i x).subs = s.subs := rfl
@[simp] theorem State.setCounter_mem (s : State) (i : Nat) (x : Counter) : (s.setCounter i x).mem = s.mem := rfl
@[simp] theorem State.setCounter_memKey (s : State) (i : Nat) (x : Counter) : (s.setCounter i x).memKey = s.memKey := rfl
@[simp] theorem State.setCounter_spad (s : State) (i : Nat) (x : Counter) : (s.setCounter i x).spad = s.spad := rfl
@[simp] theorem State.setCounter_scratch (s : State) (i : Nat) (x : Counter) : (s.setCounter i x).scratch = s.scratch := rfl
@[simp] theorem State.setCounter_bufs (s : State) (i : Nat) (x : Counter) : (s.setCounter i x).bufs = s.bufs := rfl
@[simp] theorem State.setCounter_bank (s : State) (i : Nat) (x : Counter) : (s.setCounter i x).bank = s.bank := rfl
@[simp] theorem State.setCounter_fwMem (s : State) (i : Nat) (x : Counter) : (s.setCounter i x).fwMem = s.fwMem := rfl
@[simp] theorem State.setCounter_tags (s : State) (i : Nat) (x : Counter) : (s.setCounter i x).tags = s.tags := rfl
@[simp] theorem State.setCounter_lines (s : State) (i : Nat) (x : Counter) : (s.setCounter i x).lines = s.lines := rfl
@[simp] theorem State.setCounter_poison (s : State) (i : Nat) (x : Counter) : (s.setCounter i x).poison = s.poison := rfl
@[simp] theorem State.setCounter_runs (s : State) (i : Nat) (x : Counter) : (s.setCounter i x).runs = s.runs := rfl
@[simp] theorem State.setCounter_checked (s : State) (i : Nat) (x : Counter) : (s.setCounter i x).checked = s.checked := rfl
@[simp] theorem State.setCounter_failing (s : State) (i : Nat) (x : Counter) : (s.setCounter i x).failing = s.failing := rfl
@[simp] theorem State.setCounter_next (s : State) (i : Nat) (x : Counter) : (s.setCounter i x).next = s.next := rfl
@[simp] theorem State.setCounter_nextLater (s : State) (i : Nat) (x : Counter) : (s.setCounter i x).nextLater = s.nextLater := rfl
@[simp] theorem State.setCounter_sections (s : State) (i : Nat) (x : Counter) : (s.setCounter i x).sections = s.sections := rfl
@[simp] theorem State.setCounter_engqs (s : State) (i : Nat) (x : Counter) : (s.setCounter i x).engqs = s.engqs := rfl
@[simp] theorem State.setCounter_lanes (s : State) (i : Nat) (x : Counter) : (s.setCounter i x).lanes = s.lanes := rfl
@[simp] theorem State.setCounter_stackTab (s : State) (i : Nat) (x : Counter) : (s.setCounter i x).stackTab = s.stackTab := rfl
@[simp] theorem State.setCounter_quads (s : State) (i : Nat) (x : Counter) : (s.setCounter i x).quads = s.quads := rfl
@[simp] theorem State.setCounter_sums (s : State) (i : Nat) (x : Counter) : (s.setCounter i x).sums = s.sums := rfl
@[simp] theorem State.setCounter_islands (s : State) (i : Nat) (x : Counter) : (s.setCounter i x).islands = s.islands := rfl
@[simp] theorem State.setCounter_power (s : State) (i : Nat) (x : Counter) : (s.setCounter i x).power = s.power := rfl
@[simp] theorem State.setCounter_ports (s : State) (i : Nat) (x : Counter) : (s.setCounter i x).ports = s.ports := rfl
@[simp] theorem State.setCounter_rgs (s : State) (i : Nat) (x : Counter) : (s.setCounter i x).rgs = s.rgs := rfl
@[simp] theorem State.setCounter_streams (s : State) (i : Nat) (x : Counter) : (s.setCounter i x).streams = s.streams := rfl
@[simp] theorem State.setCounter_remotes (s : State) (i : Nat) (x : Counter) : (s.setCounter i x).remotes = s.remotes := rfl
@[simp] theorem State.setCounter_out (s : State) (i : Nat) (x : Counter) : (s.setCounter i x).out = s.out := rfl
@[simp] theorem State.setCounter_irqs (s : State) (i : Nat) (x : Counter) : (s.setCounter i x).irqs = s.irqs := rfl
@[simp] theorem State.setCounter_ready (s : State) (i : Nat) (x : Counter) : (s.setCounter i x).ready = s.ready := rfl
@[simp] theorem State.setCounter_growth (s : State) (i : Nat) (x : Counter) : (s.setCounter i x).growth = s.growth := rfl
@[simp] theorem State.setCounter_fz (s : State) (i : Nat) (x : Counter) : (s.setCounter i x).fz = s.fz := rfl
@[simp] theorem State.setCounter_scratchWas (s : State) (i : Nat) (x : Counter) : (s.setCounter i x).scratchWas = s.scratchWas := rfl
@[simp] theorem State.setCounter_runUse (s : State) (i : Nat) (x : Counter) : (s.setCounter i x).runUse = s.runUse := rfl
@[simp] theorem State.setCounter_keyGen (s : State) (i : Nat) (x : Counter) : (s.setCounter i x).keyGen = s.keyGen := rfl
@[simp] theorem State.setCounter_mkeys (s : State) (i : Nat) (x : Counter) : (s.setCounter i x).mkeys = s.mkeys := rfl
@[simp] theorem State.setCounter_skeys (s : State) (i : Nat) (x : Counter) : (s.setCounter i x).skeys = s.skeys := rfl
@[simp] theorem State.setCounter_condemned (s : State) (i : Nat) (x : Counter) : (s.setCounter i x).condemned = s.condemned := rfl
@[simp] theorem State.setCounter_heldFrames (s : State) (i : Nat) (x : Counter) : (s.setCounter i x).heldFrames = s.heldFrames := rfl
@[simp] theorem State.setCounter_ctx (s : State) (i : Nat) (x : Counter) (j : Nat) : (s.setCounter i x).ctx j = s.ctx j := rfl
@[simp] theorem State.setCounter_core (s : State) (i : Nat) (x : Counter) (j : Nat) : (s.setCounter i x).core j = s.core j := rfl
@[simp] theorem State.setCounter_laneOf (s : State) (i : Nat) (x : Counter) (j : Nat) : (s.setCounter i x).laneOf j = s.laneOf j := rfl
@[simp] theorem State.setCounter_stackOf (s : State) (i : Nat) (x : Counter) (j : Nat) : (s.setCounter i x).stackOf j = s.stackOf j := rfl
@[simp] theorem State.setCounter_quadOf (s : State) (i : Nat) (x : Counter) (j : Nat) : (s.setCounter i x).quadOf j = s.quadOf j := rfl
@[simp] theorem State.setCounter_engq (s : State) (i : Nat) (x : Counter) (j : Nat) : (s.setCounter i x).engq j = s.engq j := rfl
@[simp] theorem State.setCounter_job (s : State) (i : Nat) (x : Counter) (j : Nat) : (s.setCounter i x).job j = s.job j := rfl
@[simp] theorem State.setCounter_sub (s : State) (i : Nat) (x : Counter) (j : Nat) : (s.setCounter i x).sub j = s.sub j := rfl
@[simp] theorem State.setCounter_island (s : State) (i : Nat) (x : Counter) (j : Nat) : (s.setCounter i x).island j = s.island j := rfl
@[simp] theorem State.setCounter_port (s : State) (i : Nat) (x : Counter) (j : Nat) : (s.setCounter i x).port j = s.port j := rfl
@[simp] theorem State.setCounter_rg (s : State) (i : Nat) (x : Counter) (j : Nat) : (s.setCounter i x).rg j = s.rg j := rfl
@[simp] theorem State.setCounter_stream (s : State) (i : Nat) (x : Counter) (j : Nat) : (s.setCounter i x).stream j = s.stream j := rfl
@[simp] theorem State.setCounter_raw (s : State) (i : Nat) (x : Counter) (j : Nat) : (s.setCounter i x).raw j = s.raw j := rfl
@[simp] theorem State.setCounter_unit (s : State) (i : Nat) (x : Counter) (j : Nat) : (s.setCounter i x).unit? j = s.unit? j := rfl
@[simp] theorem State.setCounter_cur (s : State) (i : Nat) (x : Counter) : (s.setCounter i x).cur = s.cur := rfl
/-- What `setCounter` wrote is what `counter` reads. -/
@[simp] theorem State.setCounter_self (s : State) (i : Nat) (x : Counter) : (s.setCounter i x).counter i = x :=
  SMap.get_set_self _ _ _ _
/-- Every other one is as it was. -/
theorem State.setCounter_ne (s : State) (i : Nat) (x : Counter) {j : Nat} (h : j ≠ i) : (s.setCounter i x).counter j = s.counter j :=
  SMap.get_set_ne _ _ _ h

/-! ### setJob -/

@[simp] theorem State.setJob_slot (s : State) (i : Nat) (x : JobSt) : (s.setJob i x).slot = s.slot := rfl
@[simp] theorem State.setJob_lane (s : State) (i : Nat) (x : JobSt) : (s.setJob i x).lane = s.lane := rfl
@[simp] theorem State.setJob_queue (s : State) (i : Nat) (x : JobSt) : (s.setJob i x).queue = s.queue := rfl
@[simp] theorem State.setJob_tick (s : State) (i : Nat) (x : JobSt) : (s.setJob i x).tick = s.tick := rfl
@[simp] theorem State.setJob_time (s : State) (i : Nat) (x : JobSt) : (s.setJob i x).time = s.time := rfl
@[simp] theorem State.setJob_pwrs (s : State) (i : Nat) (x : JobSt) : (s.setJob i x).pwrs = s.pwrs := rfl
@[simp] theorem State.setJob_regs (s : State) (i : Nat) (x : JobSt) : (s.setJob i x).regs = s.regs := rfl
@[simp] theorem State.setJob_ctxs (s : State) (i : Nat) (x : JobSt) : (s.setJob i x).ctxs = s.ctxs := rfl
@[simp] theorem State.setJob_cores (s : State) (i : Nat) (x : JobSt) : (s.setJob i x).cores = s.cores := rfl
@[simp] theorem State.setJob_units (s : State) (i : Nat) (x : JobSt) : (s.setJob i x).units = s.units := rfl
@[simp] theorem State.setJob_launches (s : State) (i : Nat) (x : JobSt) : (s.setJob i x).launches = s.launches := rfl
@[simp] theorem State.setJob_counters (s : State) (i : Nat) (x : JobSt) : (s.setJob i x).counters = s.counters := rfl
@[simp] theorem State.setJob_subs (s : State) (i : Nat) (x : JobSt) : (s.setJob i x).subs = s.subs := rfl
@[simp] theorem State.setJob_mem (s : State) (i : Nat) (x : JobSt) : (s.setJob i x).mem = s.mem := rfl
@[simp] theorem State.setJob_memKey (s : State) (i : Nat) (x : JobSt) : (s.setJob i x).memKey = s.memKey := rfl
@[simp] theorem State.setJob_spad (s : State) (i : Nat) (x : JobSt) : (s.setJob i x).spad = s.spad := rfl
@[simp] theorem State.setJob_scratch (s : State) (i : Nat) (x : JobSt) : (s.setJob i x).scratch = s.scratch := rfl
@[simp] theorem State.setJob_bufs (s : State) (i : Nat) (x : JobSt) : (s.setJob i x).bufs = s.bufs := rfl
@[simp] theorem State.setJob_bank (s : State) (i : Nat) (x : JobSt) : (s.setJob i x).bank = s.bank := rfl
@[simp] theorem State.setJob_fwMem (s : State) (i : Nat) (x : JobSt) : (s.setJob i x).fwMem = s.fwMem := rfl
@[simp] theorem State.setJob_tags (s : State) (i : Nat) (x : JobSt) : (s.setJob i x).tags = s.tags := rfl
@[simp] theorem State.setJob_lines (s : State) (i : Nat) (x : JobSt) : (s.setJob i x).lines = s.lines := rfl
@[simp] theorem State.setJob_poison (s : State) (i : Nat) (x : JobSt) : (s.setJob i x).poison = s.poison := rfl
@[simp] theorem State.setJob_runs (s : State) (i : Nat) (x : JobSt) : (s.setJob i x).runs = s.runs := rfl
@[simp] theorem State.setJob_checked (s : State) (i : Nat) (x : JobSt) : (s.setJob i x).checked = s.checked := rfl
@[simp] theorem State.setJob_failing (s : State) (i : Nat) (x : JobSt) : (s.setJob i x).failing = s.failing := rfl
@[simp] theorem State.setJob_next (s : State) (i : Nat) (x : JobSt) : (s.setJob i x).next = s.next := rfl
@[simp] theorem State.setJob_nextLater (s : State) (i : Nat) (x : JobSt) : (s.setJob i x).nextLater = s.nextLater := rfl
@[simp] theorem State.setJob_sections (s : State) (i : Nat) (x : JobSt) : (s.setJob i x).sections = s.sections := rfl
@[simp] theorem State.setJob_engqs (s : State) (i : Nat) (x : JobSt) : (s.setJob i x).engqs = s.engqs := rfl
@[simp] theorem State.setJob_lanes (s : State) (i : Nat) (x : JobSt) : (s.setJob i x).lanes = s.lanes := rfl
@[simp] theorem State.setJob_stackTab (s : State) (i : Nat) (x : JobSt) : (s.setJob i x).stackTab = s.stackTab := rfl
@[simp] theorem State.setJob_quads (s : State) (i : Nat) (x : JobSt) : (s.setJob i x).quads = s.quads := rfl
@[simp] theorem State.setJob_sums (s : State) (i : Nat) (x : JobSt) : (s.setJob i x).sums = s.sums := rfl
@[simp] theorem State.setJob_islands (s : State) (i : Nat) (x : JobSt) : (s.setJob i x).islands = s.islands := rfl
@[simp] theorem State.setJob_power (s : State) (i : Nat) (x : JobSt) : (s.setJob i x).power = s.power := rfl
@[simp] theorem State.setJob_ports (s : State) (i : Nat) (x : JobSt) : (s.setJob i x).ports = s.ports := rfl
@[simp] theorem State.setJob_rgs (s : State) (i : Nat) (x : JobSt) : (s.setJob i x).rgs = s.rgs := rfl
@[simp] theorem State.setJob_streams (s : State) (i : Nat) (x : JobSt) : (s.setJob i x).streams = s.streams := rfl
@[simp] theorem State.setJob_remotes (s : State) (i : Nat) (x : JobSt) : (s.setJob i x).remotes = s.remotes := rfl
@[simp] theorem State.setJob_out (s : State) (i : Nat) (x : JobSt) : (s.setJob i x).out = s.out := rfl
@[simp] theorem State.setJob_irqs (s : State) (i : Nat) (x : JobSt) : (s.setJob i x).irqs = s.irqs := rfl
@[simp] theorem State.setJob_ready (s : State) (i : Nat) (x : JobSt) : (s.setJob i x).ready = s.ready := rfl
@[simp] theorem State.setJob_growth (s : State) (i : Nat) (x : JobSt) : (s.setJob i x).growth = s.growth := rfl
@[simp] theorem State.setJob_fz (s : State) (i : Nat) (x : JobSt) : (s.setJob i x).fz = s.fz := rfl
@[simp] theorem State.setJob_scratchWas (s : State) (i : Nat) (x : JobSt) : (s.setJob i x).scratchWas = s.scratchWas := rfl
@[simp] theorem State.setJob_runUse (s : State) (i : Nat) (x : JobSt) : (s.setJob i x).runUse = s.runUse := rfl
@[simp] theorem State.setJob_keyGen (s : State) (i : Nat) (x : JobSt) : (s.setJob i x).keyGen = s.keyGen := rfl
@[simp] theorem State.setJob_mkeys (s : State) (i : Nat) (x : JobSt) : (s.setJob i x).mkeys = s.mkeys := rfl
@[simp] theorem State.setJob_skeys (s : State) (i : Nat) (x : JobSt) : (s.setJob i x).skeys = s.skeys := rfl
@[simp] theorem State.setJob_condemned (s : State) (i : Nat) (x : JobSt) : (s.setJob i x).condemned = s.condemned := rfl
@[simp] theorem State.setJob_heldFrames (s : State) (i : Nat) (x : JobSt) : (s.setJob i x).heldFrames = s.heldFrames := rfl
@[simp] theorem State.setJob_ctx (s : State) (i : Nat) (x : JobSt) (j : Nat) : (s.setJob i x).ctx j = s.ctx j := rfl
@[simp] theorem State.setJob_core (s : State) (i : Nat) (x : JobSt) (j : Nat) : (s.setJob i x).core j = s.core j := rfl
@[simp] theorem State.setJob_laneOf (s : State) (i : Nat) (x : JobSt) (j : Nat) : (s.setJob i x).laneOf j = s.laneOf j := rfl
@[simp] theorem State.setJob_stackOf (s : State) (i : Nat) (x : JobSt) (j : Nat) : (s.setJob i x).stackOf j = s.stackOf j := rfl
@[simp] theorem State.setJob_quadOf (s : State) (i : Nat) (x : JobSt) (j : Nat) : (s.setJob i x).quadOf j = s.quadOf j := rfl
@[simp] theorem State.setJob_engq (s : State) (i : Nat) (x : JobSt) (j : Nat) : (s.setJob i x).engq j = s.engq j := rfl
@[simp] theorem State.setJob_counter (s : State) (i : Nat) (x : JobSt) (j : Nat) : (s.setJob i x).counter j = s.counter j := rfl
@[simp] theorem State.setJob_sub (s : State) (i : Nat) (x : JobSt) (j : Nat) : (s.setJob i x).sub j = s.sub j := rfl
@[simp] theorem State.setJob_island (s : State) (i : Nat) (x : JobSt) (j : Nat) : (s.setJob i x).island j = s.island j := rfl
@[simp] theorem State.setJob_port (s : State) (i : Nat) (x : JobSt) (j : Nat) : (s.setJob i x).port j = s.port j := rfl
@[simp] theorem State.setJob_rg (s : State) (i : Nat) (x : JobSt) (j : Nat) : (s.setJob i x).rg j = s.rg j := rfl
@[simp] theorem State.setJob_stream (s : State) (i : Nat) (x : JobSt) (j : Nat) : (s.setJob i x).stream j = s.stream j := rfl
@[simp] theorem State.setJob_raw (s : State) (i : Nat) (x : JobSt) (j : Nat) : (s.setJob i x).raw j = s.raw j := rfl
@[simp] theorem State.setJob_unit (s : State) (i : Nat) (x : JobSt) (j : Nat) : (s.setJob i x).unit? j = s.unit? j := rfl
@[simp] theorem State.setJob_cur (s : State) (i : Nat) (x : JobSt) : (s.setJob i x).cur = s.cur := rfl
/-- What `setJob` wrote is what `job` reads. -/
@[simp] theorem State.setJob_self (s : State) (i : Nat) (x : JobSt) : (s.setJob i x).job i = x :=
  SMap.get_set_self _ _ _ _
/-- Every other one is as it was. -/
theorem State.setJob_ne (s : State) (i : Nat) (x : JobSt) {j : Nat} (h : j ≠ i) : (s.setJob i x).job j = s.job j :=
  SMap.get_set_ne _ _ _ h

/-! ### setSub -/

@[simp] theorem State.setSub_slot (s : State) (i : Nat) (x : SubQ) : (s.setSub i x).slot = s.slot := rfl
@[simp] theorem State.setSub_lane (s : State) (i : Nat) (x : SubQ) : (s.setSub i x).lane = s.lane := rfl
@[simp] theorem State.setSub_queue (s : State) (i : Nat) (x : SubQ) : (s.setSub i x).queue = s.queue := rfl
@[simp] theorem State.setSub_tick (s : State) (i : Nat) (x : SubQ) : (s.setSub i x).tick = s.tick := rfl
@[simp] theorem State.setSub_time (s : State) (i : Nat) (x : SubQ) : (s.setSub i x).time = s.time := rfl
@[simp] theorem State.setSub_pwrs (s : State) (i : Nat) (x : SubQ) : (s.setSub i x).pwrs = s.pwrs := rfl
@[simp] theorem State.setSub_regs (s : State) (i : Nat) (x : SubQ) : (s.setSub i x).regs = s.regs := rfl
@[simp] theorem State.setSub_ctxs (s : State) (i : Nat) (x : SubQ) : (s.setSub i x).ctxs = s.ctxs := rfl
@[simp] theorem State.setSub_cores (s : State) (i : Nat) (x : SubQ) : (s.setSub i x).cores = s.cores := rfl
@[simp] theorem State.setSub_units (s : State) (i : Nat) (x : SubQ) : (s.setSub i x).units = s.units := rfl
@[simp] theorem State.setSub_launches (s : State) (i : Nat) (x : SubQ) : (s.setSub i x).launches = s.launches := rfl
@[simp] theorem State.setSub_counters (s : State) (i : Nat) (x : SubQ) : (s.setSub i x).counters = s.counters := rfl
@[simp] theorem State.setSub_jobs (s : State) (i : Nat) (x : SubQ) : (s.setSub i x).jobs = s.jobs := rfl
@[simp] theorem State.setSub_mem (s : State) (i : Nat) (x : SubQ) : (s.setSub i x).mem = s.mem := rfl
@[simp] theorem State.setSub_memKey (s : State) (i : Nat) (x : SubQ) : (s.setSub i x).memKey = s.memKey := rfl
@[simp] theorem State.setSub_spad (s : State) (i : Nat) (x : SubQ) : (s.setSub i x).spad = s.spad := rfl
@[simp] theorem State.setSub_scratch (s : State) (i : Nat) (x : SubQ) : (s.setSub i x).scratch = s.scratch := rfl
@[simp] theorem State.setSub_bufs (s : State) (i : Nat) (x : SubQ) : (s.setSub i x).bufs = s.bufs := rfl
@[simp] theorem State.setSub_bank (s : State) (i : Nat) (x : SubQ) : (s.setSub i x).bank = s.bank := rfl
@[simp] theorem State.setSub_fwMem (s : State) (i : Nat) (x : SubQ) : (s.setSub i x).fwMem = s.fwMem := rfl
@[simp] theorem State.setSub_tags (s : State) (i : Nat) (x : SubQ) : (s.setSub i x).tags = s.tags := rfl
@[simp] theorem State.setSub_lines (s : State) (i : Nat) (x : SubQ) : (s.setSub i x).lines = s.lines := rfl
@[simp] theorem State.setSub_poison (s : State) (i : Nat) (x : SubQ) : (s.setSub i x).poison = s.poison := rfl
@[simp] theorem State.setSub_runs (s : State) (i : Nat) (x : SubQ) : (s.setSub i x).runs = s.runs := rfl
@[simp] theorem State.setSub_checked (s : State) (i : Nat) (x : SubQ) : (s.setSub i x).checked = s.checked := rfl
@[simp] theorem State.setSub_failing (s : State) (i : Nat) (x : SubQ) : (s.setSub i x).failing = s.failing := rfl
@[simp] theorem State.setSub_next (s : State) (i : Nat) (x : SubQ) : (s.setSub i x).next = s.next := rfl
@[simp] theorem State.setSub_nextLater (s : State) (i : Nat) (x : SubQ) : (s.setSub i x).nextLater = s.nextLater := rfl
@[simp] theorem State.setSub_sections (s : State) (i : Nat) (x : SubQ) : (s.setSub i x).sections = s.sections := rfl
@[simp] theorem State.setSub_engqs (s : State) (i : Nat) (x : SubQ) : (s.setSub i x).engqs = s.engqs := rfl
@[simp] theorem State.setSub_lanes (s : State) (i : Nat) (x : SubQ) : (s.setSub i x).lanes = s.lanes := rfl
@[simp] theorem State.setSub_stackTab (s : State) (i : Nat) (x : SubQ) : (s.setSub i x).stackTab = s.stackTab := rfl
@[simp] theorem State.setSub_quads (s : State) (i : Nat) (x : SubQ) : (s.setSub i x).quads = s.quads := rfl
@[simp] theorem State.setSub_sums (s : State) (i : Nat) (x : SubQ) : (s.setSub i x).sums = s.sums := rfl
@[simp] theorem State.setSub_islands (s : State) (i : Nat) (x : SubQ) : (s.setSub i x).islands = s.islands := rfl
@[simp] theorem State.setSub_power (s : State) (i : Nat) (x : SubQ) : (s.setSub i x).power = s.power := rfl
@[simp] theorem State.setSub_ports (s : State) (i : Nat) (x : SubQ) : (s.setSub i x).ports = s.ports := rfl
@[simp] theorem State.setSub_rgs (s : State) (i : Nat) (x : SubQ) : (s.setSub i x).rgs = s.rgs := rfl
@[simp] theorem State.setSub_streams (s : State) (i : Nat) (x : SubQ) : (s.setSub i x).streams = s.streams := rfl
@[simp] theorem State.setSub_remotes (s : State) (i : Nat) (x : SubQ) : (s.setSub i x).remotes = s.remotes := rfl
@[simp] theorem State.setSub_out (s : State) (i : Nat) (x : SubQ) : (s.setSub i x).out = s.out := rfl
@[simp] theorem State.setSub_irqs (s : State) (i : Nat) (x : SubQ) : (s.setSub i x).irqs = s.irqs := rfl
@[simp] theorem State.setSub_ready (s : State) (i : Nat) (x : SubQ) : (s.setSub i x).ready = s.ready := rfl
@[simp] theorem State.setSub_growth (s : State) (i : Nat) (x : SubQ) : (s.setSub i x).growth = s.growth := rfl
@[simp] theorem State.setSub_fz (s : State) (i : Nat) (x : SubQ) : (s.setSub i x).fz = s.fz := rfl
@[simp] theorem State.setSub_scratchWas (s : State) (i : Nat) (x : SubQ) : (s.setSub i x).scratchWas = s.scratchWas := rfl
@[simp] theorem State.setSub_runUse (s : State) (i : Nat) (x : SubQ) : (s.setSub i x).runUse = s.runUse := rfl
@[simp] theorem State.setSub_keyGen (s : State) (i : Nat) (x : SubQ) : (s.setSub i x).keyGen = s.keyGen := rfl
@[simp] theorem State.setSub_mkeys (s : State) (i : Nat) (x : SubQ) : (s.setSub i x).mkeys = s.mkeys := rfl
@[simp] theorem State.setSub_skeys (s : State) (i : Nat) (x : SubQ) : (s.setSub i x).skeys = s.skeys := rfl
@[simp] theorem State.setSub_condemned (s : State) (i : Nat) (x : SubQ) : (s.setSub i x).condemned = s.condemned := rfl
@[simp] theorem State.setSub_heldFrames (s : State) (i : Nat) (x : SubQ) : (s.setSub i x).heldFrames = s.heldFrames := rfl
@[simp] theorem State.setSub_ctx (s : State) (i : Nat) (x : SubQ) (j : Nat) : (s.setSub i x).ctx j = s.ctx j := rfl
@[simp] theorem State.setSub_core (s : State) (i : Nat) (x : SubQ) (j : Nat) : (s.setSub i x).core j = s.core j := rfl
@[simp] theorem State.setSub_laneOf (s : State) (i : Nat) (x : SubQ) (j : Nat) : (s.setSub i x).laneOf j = s.laneOf j := rfl
@[simp] theorem State.setSub_stackOf (s : State) (i : Nat) (x : SubQ) (j : Nat) : (s.setSub i x).stackOf j = s.stackOf j := rfl
@[simp] theorem State.setSub_quadOf (s : State) (i : Nat) (x : SubQ) (j : Nat) : (s.setSub i x).quadOf j = s.quadOf j := rfl
@[simp] theorem State.setSub_engq (s : State) (i : Nat) (x : SubQ) (j : Nat) : (s.setSub i x).engq j = s.engq j := rfl
@[simp] theorem State.setSub_counter (s : State) (i : Nat) (x : SubQ) (j : Nat) : (s.setSub i x).counter j = s.counter j := rfl
@[simp] theorem State.setSub_job (s : State) (i : Nat) (x : SubQ) (j : Nat) : (s.setSub i x).job j = s.job j := rfl
@[simp] theorem State.setSub_island (s : State) (i : Nat) (x : SubQ) (j : Nat) : (s.setSub i x).island j = s.island j := rfl
@[simp] theorem State.setSub_port (s : State) (i : Nat) (x : SubQ) (j : Nat) : (s.setSub i x).port j = s.port j := rfl
@[simp] theorem State.setSub_rg (s : State) (i : Nat) (x : SubQ) (j : Nat) : (s.setSub i x).rg j = s.rg j := rfl
@[simp] theorem State.setSub_stream (s : State) (i : Nat) (x : SubQ) (j : Nat) : (s.setSub i x).stream j = s.stream j := rfl
@[simp] theorem State.setSub_raw (s : State) (i : Nat) (x : SubQ) (j : Nat) : (s.setSub i x).raw j = s.raw j := rfl
@[simp] theorem State.setSub_unit (s : State) (i : Nat) (x : SubQ) (j : Nat) : (s.setSub i x).unit? j = s.unit? j := rfl
@[simp] theorem State.setSub_cur (s : State) (i : Nat) (x : SubQ) : (s.setSub i x).cur = s.cur := rfl
/-- What `setSub` wrote is what `sub` reads. -/
@[simp] theorem State.setSub_self (s : State) (i : Nat) (x : SubQ) : (s.setSub i x).sub i = x :=
  SMap.get_set_self _ _ _ _
/-- Every other one is as it was. -/
theorem State.setSub_ne (s : State) (i : Nat) (x : SubQ) {j : Nat} (h : j ≠ i) : (s.setSub i x).sub j = s.sub j :=
  SMap.get_set_ne _ _ _ h

/-! ### setIsland -/

@[simp] theorem State.setIsland_slot (s : State) (i : Nat) (x : Island) : (s.setIsland i x).slot = s.slot := rfl
@[simp] theorem State.setIsland_lane (s : State) (i : Nat) (x : Island) : (s.setIsland i x).lane = s.lane := rfl
@[simp] theorem State.setIsland_queue (s : State) (i : Nat) (x : Island) : (s.setIsland i x).queue = s.queue := rfl
@[simp] theorem State.setIsland_tick (s : State) (i : Nat) (x : Island) : (s.setIsland i x).tick = s.tick := rfl
@[simp] theorem State.setIsland_time (s : State) (i : Nat) (x : Island) : (s.setIsland i x).time = s.time := rfl
@[simp] theorem State.setIsland_pwrs (s : State) (i : Nat) (x : Island) : (s.setIsland i x).pwrs = s.pwrs := rfl
@[simp] theorem State.setIsland_regs (s : State) (i : Nat) (x : Island) : (s.setIsland i x).regs = s.regs := rfl
@[simp] theorem State.setIsland_ctxs (s : State) (i : Nat) (x : Island) : (s.setIsland i x).ctxs = s.ctxs := rfl
@[simp] theorem State.setIsland_cores (s : State) (i : Nat) (x : Island) : (s.setIsland i x).cores = s.cores := rfl
@[simp] theorem State.setIsland_units (s : State) (i : Nat) (x : Island) : (s.setIsland i x).units = s.units := rfl
@[simp] theorem State.setIsland_launches (s : State) (i : Nat) (x : Island) : (s.setIsland i x).launches = s.launches := rfl
@[simp] theorem State.setIsland_counters (s : State) (i : Nat) (x : Island) : (s.setIsland i x).counters = s.counters := rfl
@[simp] theorem State.setIsland_jobs (s : State) (i : Nat) (x : Island) : (s.setIsland i x).jobs = s.jobs := rfl
@[simp] theorem State.setIsland_subs (s : State) (i : Nat) (x : Island) : (s.setIsland i x).subs = s.subs := rfl
@[simp] theorem State.setIsland_mem (s : State) (i : Nat) (x : Island) : (s.setIsland i x).mem = s.mem := rfl
@[simp] theorem State.setIsland_memKey (s : State) (i : Nat) (x : Island) : (s.setIsland i x).memKey = s.memKey := rfl
@[simp] theorem State.setIsland_spad (s : State) (i : Nat) (x : Island) : (s.setIsland i x).spad = s.spad := rfl
@[simp] theorem State.setIsland_scratch (s : State) (i : Nat) (x : Island) : (s.setIsland i x).scratch = s.scratch := rfl
@[simp] theorem State.setIsland_bufs (s : State) (i : Nat) (x : Island) : (s.setIsland i x).bufs = s.bufs := rfl
@[simp] theorem State.setIsland_bank (s : State) (i : Nat) (x : Island) : (s.setIsland i x).bank = s.bank := rfl
@[simp] theorem State.setIsland_fwMem (s : State) (i : Nat) (x : Island) : (s.setIsland i x).fwMem = s.fwMem := rfl
@[simp] theorem State.setIsland_tags (s : State) (i : Nat) (x : Island) : (s.setIsland i x).tags = s.tags := rfl
@[simp] theorem State.setIsland_lines (s : State) (i : Nat) (x : Island) : (s.setIsland i x).lines = s.lines := rfl
@[simp] theorem State.setIsland_poison (s : State) (i : Nat) (x : Island) : (s.setIsland i x).poison = s.poison := rfl
@[simp] theorem State.setIsland_runs (s : State) (i : Nat) (x : Island) : (s.setIsland i x).runs = s.runs := rfl
@[simp] theorem State.setIsland_checked (s : State) (i : Nat) (x : Island) : (s.setIsland i x).checked = s.checked := rfl
@[simp] theorem State.setIsland_failing (s : State) (i : Nat) (x : Island) : (s.setIsland i x).failing = s.failing := rfl
@[simp] theorem State.setIsland_next (s : State) (i : Nat) (x : Island) : (s.setIsland i x).next = s.next := rfl
@[simp] theorem State.setIsland_nextLater (s : State) (i : Nat) (x : Island) : (s.setIsland i x).nextLater = s.nextLater := rfl
@[simp] theorem State.setIsland_sections (s : State) (i : Nat) (x : Island) : (s.setIsland i x).sections = s.sections := rfl
@[simp] theorem State.setIsland_engqs (s : State) (i : Nat) (x : Island) : (s.setIsland i x).engqs = s.engqs := rfl
@[simp] theorem State.setIsland_lanes (s : State) (i : Nat) (x : Island) : (s.setIsland i x).lanes = s.lanes := rfl
@[simp] theorem State.setIsland_stackTab (s : State) (i : Nat) (x : Island) : (s.setIsland i x).stackTab = s.stackTab := rfl
@[simp] theorem State.setIsland_quads (s : State) (i : Nat) (x : Island) : (s.setIsland i x).quads = s.quads := rfl
@[simp] theorem State.setIsland_sums (s : State) (i : Nat) (x : Island) : (s.setIsland i x).sums = s.sums := rfl
@[simp] theorem State.setIsland_power (s : State) (i : Nat) (x : Island) : (s.setIsland i x).power = s.power := rfl
@[simp] theorem State.setIsland_ports (s : State) (i : Nat) (x : Island) : (s.setIsland i x).ports = s.ports := rfl
@[simp] theorem State.setIsland_rgs (s : State) (i : Nat) (x : Island) : (s.setIsland i x).rgs = s.rgs := rfl
@[simp] theorem State.setIsland_streams (s : State) (i : Nat) (x : Island) : (s.setIsland i x).streams = s.streams := rfl
@[simp] theorem State.setIsland_remotes (s : State) (i : Nat) (x : Island) : (s.setIsland i x).remotes = s.remotes := rfl
@[simp] theorem State.setIsland_out (s : State) (i : Nat) (x : Island) : (s.setIsland i x).out = s.out := rfl
@[simp] theorem State.setIsland_irqs (s : State) (i : Nat) (x : Island) : (s.setIsland i x).irqs = s.irqs := rfl
@[simp] theorem State.setIsland_ready (s : State) (i : Nat) (x : Island) : (s.setIsland i x).ready = s.ready := rfl
@[simp] theorem State.setIsland_growth (s : State) (i : Nat) (x : Island) : (s.setIsland i x).growth = s.growth := rfl
@[simp] theorem State.setIsland_fz (s : State) (i : Nat) (x : Island) : (s.setIsland i x).fz = s.fz := rfl
@[simp] theorem State.setIsland_scratchWas (s : State) (i : Nat) (x : Island) : (s.setIsland i x).scratchWas = s.scratchWas := rfl
@[simp] theorem State.setIsland_runUse (s : State) (i : Nat) (x : Island) : (s.setIsland i x).runUse = s.runUse := rfl
@[simp] theorem State.setIsland_keyGen (s : State) (i : Nat) (x : Island) : (s.setIsland i x).keyGen = s.keyGen := rfl
@[simp] theorem State.setIsland_mkeys (s : State) (i : Nat) (x : Island) : (s.setIsland i x).mkeys = s.mkeys := rfl
@[simp] theorem State.setIsland_skeys (s : State) (i : Nat) (x : Island) : (s.setIsland i x).skeys = s.skeys := rfl
@[simp] theorem State.setIsland_condemned (s : State) (i : Nat) (x : Island) : (s.setIsland i x).condemned = s.condemned := rfl
@[simp] theorem State.setIsland_heldFrames (s : State) (i : Nat) (x : Island) : (s.setIsland i x).heldFrames = s.heldFrames := rfl
@[simp] theorem State.setIsland_ctx (s : State) (i : Nat) (x : Island) (j : Nat) : (s.setIsland i x).ctx j = s.ctx j := rfl
@[simp] theorem State.setIsland_core (s : State) (i : Nat) (x : Island) (j : Nat) : (s.setIsland i x).core j = s.core j := rfl
@[simp] theorem State.setIsland_laneOf (s : State) (i : Nat) (x : Island) (j : Nat) : (s.setIsland i x).laneOf j = s.laneOf j := rfl
@[simp] theorem State.setIsland_stackOf (s : State) (i : Nat) (x : Island) (j : Nat) : (s.setIsland i x).stackOf j = s.stackOf j := rfl
@[simp] theorem State.setIsland_quadOf (s : State) (i : Nat) (x : Island) (j : Nat) : (s.setIsland i x).quadOf j = s.quadOf j := rfl
@[simp] theorem State.setIsland_engq (s : State) (i : Nat) (x : Island) (j : Nat) : (s.setIsland i x).engq j = s.engq j := rfl
@[simp] theorem State.setIsland_counter (s : State) (i : Nat) (x : Island) (j : Nat) : (s.setIsland i x).counter j = s.counter j := rfl
@[simp] theorem State.setIsland_job (s : State) (i : Nat) (x : Island) (j : Nat) : (s.setIsland i x).job j = s.job j := rfl
@[simp] theorem State.setIsland_sub (s : State) (i : Nat) (x : Island) (j : Nat) : (s.setIsland i x).sub j = s.sub j := rfl
@[simp] theorem State.setIsland_port (s : State) (i : Nat) (x : Island) (j : Nat) : (s.setIsland i x).port j = s.port j := rfl
@[simp] theorem State.setIsland_rg (s : State) (i : Nat) (x : Island) (j : Nat) : (s.setIsland i x).rg j = s.rg j := rfl
@[simp] theorem State.setIsland_stream (s : State) (i : Nat) (x : Island) (j : Nat) : (s.setIsland i x).stream j = s.stream j := rfl
@[simp] theorem State.setIsland_raw (s : State) (i : Nat) (x : Island) (j : Nat) : (s.setIsland i x).raw j = s.raw j := rfl
@[simp] theorem State.setIsland_unit (s : State) (i : Nat) (x : Island) (j : Nat) : (s.setIsland i x).unit? j = s.unit? j := rfl
@[simp] theorem State.setIsland_cur (s : State) (i : Nat) (x : Island) : (s.setIsland i x).cur = s.cur := rfl
/-- What `setIsland` wrote is what `island` reads. -/
@[simp] theorem State.setIsland_self (s : State) (i : Nat) (x : Island) : (s.setIsland i x).island i = x :=
  SMap.get_set_self _ _ _ _
/-- Every other one is as it was. -/
theorem State.setIsland_ne (s : State) (i : Nat) (x : Island) {j : Nat} (h : j ≠ i) : (s.setIsland i x).island j = s.island j :=
  SMap.get_set_ne _ _ _ h

/-! ### setPort -/

@[simp] theorem State.setPort_slot (s : State) (i : Nat) (x : FPort) : (s.setPort i x).slot = s.slot := rfl
@[simp] theorem State.setPort_lane (s : State) (i : Nat) (x : FPort) : (s.setPort i x).lane = s.lane := rfl
@[simp] theorem State.setPort_queue (s : State) (i : Nat) (x : FPort) : (s.setPort i x).queue = s.queue := rfl
@[simp] theorem State.setPort_tick (s : State) (i : Nat) (x : FPort) : (s.setPort i x).tick = s.tick := rfl
@[simp] theorem State.setPort_time (s : State) (i : Nat) (x : FPort) : (s.setPort i x).time = s.time := rfl
@[simp] theorem State.setPort_pwrs (s : State) (i : Nat) (x : FPort) : (s.setPort i x).pwrs = s.pwrs := rfl
@[simp] theorem State.setPort_regs (s : State) (i : Nat) (x : FPort) : (s.setPort i x).regs = s.regs := rfl
@[simp] theorem State.setPort_ctxs (s : State) (i : Nat) (x : FPort) : (s.setPort i x).ctxs = s.ctxs := rfl
@[simp] theorem State.setPort_cores (s : State) (i : Nat) (x : FPort) : (s.setPort i x).cores = s.cores := rfl
@[simp] theorem State.setPort_units (s : State) (i : Nat) (x : FPort) : (s.setPort i x).units = s.units := rfl
@[simp] theorem State.setPort_launches (s : State) (i : Nat) (x : FPort) : (s.setPort i x).launches = s.launches := rfl
@[simp] theorem State.setPort_counters (s : State) (i : Nat) (x : FPort) : (s.setPort i x).counters = s.counters := rfl
@[simp] theorem State.setPort_jobs (s : State) (i : Nat) (x : FPort) : (s.setPort i x).jobs = s.jobs := rfl
@[simp] theorem State.setPort_subs (s : State) (i : Nat) (x : FPort) : (s.setPort i x).subs = s.subs := rfl
@[simp] theorem State.setPort_mem (s : State) (i : Nat) (x : FPort) : (s.setPort i x).mem = s.mem := rfl
@[simp] theorem State.setPort_memKey (s : State) (i : Nat) (x : FPort) : (s.setPort i x).memKey = s.memKey := rfl
@[simp] theorem State.setPort_spad (s : State) (i : Nat) (x : FPort) : (s.setPort i x).spad = s.spad := rfl
@[simp] theorem State.setPort_scratch (s : State) (i : Nat) (x : FPort) : (s.setPort i x).scratch = s.scratch := rfl
@[simp] theorem State.setPort_bufs (s : State) (i : Nat) (x : FPort) : (s.setPort i x).bufs = s.bufs := rfl
@[simp] theorem State.setPort_bank (s : State) (i : Nat) (x : FPort) : (s.setPort i x).bank = s.bank := rfl
@[simp] theorem State.setPort_fwMem (s : State) (i : Nat) (x : FPort) : (s.setPort i x).fwMem = s.fwMem := rfl
@[simp] theorem State.setPort_tags (s : State) (i : Nat) (x : FPort) : (s.setPort i x).tags = s.tags := rfl
@[simp] theorem State.setPort_lines (s : State) (i : Nat) (x : FPort) : (s.setPort i x).lines = s.lines := rfl
@[simp] theorem State.setPort_poison (s : State) (i : Nat) (x : FPort) : (s.setPort i x).poison = s.poison := rfl
@[simp] theorem State.setPort_runs (s : State) (i : Nat) (x : FPort) : (s.setPort i x).runs = s.runs := rfl
@[simp] theorem State.setPort_checked (s : State) (i : Nat) (x : FPort) : (s.setPort i x).checked = s.checked := rfl
@[simp] theorem State.setPort_failing (s : State) (i : Nat) (x : FPort) : (s.setPort i x).failing = s.failing := rfl
@[simp] theorem State.setPort_next (s : State) (i : Nat) (x : FPort) : (s.setPort i x).next = s.next := rfl
@[simp] theorem State.setPort_nextLater (s : State) (i : Nat) (x : FPort) : (s.setPort i x).nextLater = s.nextLater := rfl
@[simp] theorem State.setPort_sections (s : State) (i : Nat) (x : FPort) : (s.setPort i x).sections = s.sections := rfl
@[simp] theorem State.setPort_engqs (s : State) (i : Nat) (x : FPort) : (s.setPort i x).engqs = s.engqs := rfl
@[simp] theorem State.setPort_lanes (s : State) (i : Nat) (x : FPort) : (s.setPort i x).lanes = s.lanes := rfl
@[simp] theorem State.setPort_stackTab (s : State) (i : Nat) (x : FPort) : (s.setPort i x).stackTab = s.stackTab := rfl
@[simp] theorem State.setPort_quads (s : State) (i : Nat) (x : FPort) : (s.setPort i x).quads = s.quads := rfl
@[simp] theorem State.setPort_sums (s : State) (i : Nat) (x : FPort) : (s.setPort i x).sums = s.sums := rfl
@[simp] theorem State.setPort_islands (s : State) (i : Nat) (x : FPort) : (s.setPort i x).islands = s.islands := rfl
@[simp] theorem State.setPort_power (s : State) (i : Nat) (x : FPort) : (s.setPort i x).power = s.power := rfl
@[simp] theorem State.setPort_rgs (s : State) (i : Nat) (x : FPort) : (s.setPort i x).rgs = s.rgs := rfl
@[simp] theorem State.setPort_streams (s : State) (i : Nat) (x : FPort) : (s.setPort i x).streams = s.streams := rfl
@[simp] theorem State.setPort_remotes (s : State) (i : Nat) (x : FPort) : (s.setPort i x).remotes = s.remotes := rfl
@[simp] theorem State.setPort_out (s : State) (i : Nat) (x : FPort) : (s.setPort i x).out = s.out := rfl
@[simp] theorem State.setPort_irqs (s : State) (i : Nat) (x : FPort) : (s.setPort i x).irqs = s.irqs := rfl
@[simp] theorem State.setPort_ready (s : State) (i : Nat) (x : FPort) : (s.setPort i x).ready = s.ready := rfl
@[simp] theorem State.setPort_growth (s : State) (i : Nat) (x : FPort) : (s.setPort i x).growth = s.growth := rfl
@[simp] theorem State.setPort_fz (s : State) (i : Nat) (x : FPort) : (s.setPort i x).fz = s.fz := rfl
@[simp] theorem State.setPort_scratchWas (s : State) (i : Nat) (x : FPort) : (s.setPort i x).scratchWas = s.scratchWas := rfl
@[simp] theorem State.setPort_runUse (s : State) (i : Nat) (x : FPort) : (s.setPort i x).runUse = s.runUse := rfl
@[simp] theorem State.setPort_keyGen (s : State) (i : Nat) (x : FPort) : (s.setPort i x).keyGen = s.keyGen := rfl
@[simp] theorem State.setPort_mkeys (s : State) (i : Nat) (x : FPort) : (s.setPort i x).mkeys = s.mkeys := rfl
@[simp] theorem State.setPort_skeys (s : State) (i : Nat) (x : FPort) : (s.setPort i x).skeys = s.skeys := rfl
@[simp] theorem State.setPort_condemned (s : State) (i : Nat) (x : FPort) : (s.setPort i x).condemned = s.condemned := rfl
@[simp] theorem State.setPort_heldFrames (s : State) (i : Nat) (x : FPort) : (s.setPort i x).heldFrames = s.heldFrames := rfl
@[simp] theorem State.setPort_ctx (s : State) (i : Nat) (x : FPort) (j : Nat) : (s.setPort i x).ctx j = s.ctx j := rfl
@[simp] theorem State.setPort_core (s : State) (i : Nat) (x : FPort) (j : Nat) : (s.setPort i x).core j = s.core j := rfl
@[simp] theorem State.setPort_laneOf (s : State) (i : Nat) (x : FPort) (j : Nat) : (s.setPort i x).laneOf j = s.laneOf j := rfl
@[simp] theorem State.setPort_stackOf (s : State) (i : Nat) (x : FPort) (j : Nat) : (s.setPort i x).stackOf j = s.stackOf j := rfl
@[simp] theorem State.setPort_quadOf (s : State) (i : Nat) (x : FPort) (j : Nat) : (s.setPort i x).quadOf j = s.quadOf j := rfl
@[simp] theorem State.setPort_engq (s : State) (i : Nat) (x : FPort) (j : Nat) : (s.setPort i x).engq j = s.engq j := rfl
@[simp] theorem State.setPort_counter (s : State) (i : Nat) (x : FPort) (j : Nat) : (s.setPort i x).counter j = s.counter j := rfl
@[simp] theorem State.setPort_job (s : State) (i : Nat) (x : FPort) (j : Nat) : (s.setPort i x).job j = s.job j := rfl
@[simp] theorem State.setPort_sub (s : State) (i : Nat) (x : FPort) (j : Nat) : (s.setPort i x).sub j = s.sub j := rfl
@[simp] theorem State.setPort_island (s : State) (i : Nat) (x : FPort) (j : Nat) : (s.setPort i x).island j = s.island j := rfl
@[simp] theorem State.setPort_rg (s : State) (i : Nat) (x : FPort) (j : Nat) : (s.setPort i x).rg j = s.rg j := rfl
@[simp] theorem State.setPort_stream (s : State) (i : Nat) (x : FPort) (j : Nat) : (s.setPort i x).stream j = s.stream j := rfl
@[simp] theorem State.setPort_raw (s : State) (i : Nat) (x : FPort) (j : Nat) : (s.setPort i x).raw j = s.raw j := rfl
@[simp] theorem State.setPort_unit (s : State) (i : Nat) (x : FPort) (j : Nat) : (s.setPort i x).unit? j = s.unit? j := rfl
@[simp] theorem State.setPort_cur (s : State) (i : Nat) (x : FPort) : (s.setPort i x).cur = s.cur := rfl
/-- What `setPort` wrote is what `port` reads. -/
@[simp] theorem State.setPort_self (s : State) (i : Nat) (x : FPort) : (s.setPort i x).port i = x :=
  SMap.get_set_self _ _ _ _
/-- Every other one is as it was. -/
theorem State.setPort_ne (s : State) (i : Nat) (x : FPort) {j : Nat} (h : j ≠ i) : (s.setPort i x).port j = s.port j :=
  SMap.get_set_ne _ _ _ h

/-! ### setRg -/

@[simp] theorem State.setRg_slot (s : State) (i : Nat) (x : RGroup) : (s.setRg i x).slot = s.slot := rfl
@[simp] theorem State.setRg_lane (s : State) (i : Nat) (x : RGroup) : (s.setRg i x).lane = s.lane := rfl
@[simp] theorem State.setRg_queue (s : State) (i : Nat) (x : RGroup) : (s.setRg i x).queue = s.queue := rfl
@[simp] theorem State.setRg_tick (s : State) (i : Nat) (x : RGroup) : (s.setRg i x).tick = s.tick := rfl
@[simp] theorem State.setRg_time (s : State) (i : Nat) (x : RGroup) : (s.setRg i x).time = s.time := rfl
@[simp] theorem State.setRg_pwrs (s : State) (i : Nat) (x : RGroup) : (s.setRg i x).pwrs = s.pwrs := rfl
@[simp] theorem State.setRg_regs (s : State) (i : Nat) (x : RGroup) : (s.setRg i x).regs = s.regs := rfl
@[simp] theorem State.setRg_ctxs (s : State) (i : Nat) (x : RGroup) : (s.setRg i x).ctxs = s.ctxs := rfl
@[simp] theorem State.setRg_cores (s : State) (i : Nat) (x : RGroup) : (s.setRg i x).cores = s.cores := rfl
@[simp] theorem State.setRg_units (s : State) (i : Nat) (x : RGroup) : (s.setRg i x).units = s.units := rfl
@[simp] theorem State.setRg_launches (s : State) (i : Nat) (x : RGroup) : (s.setRg i x).launches = s.launches := rfl
@[simp] theorem State.setRg_counters (s : State) (i : Nat) (x : RGroup) : (s.setRg i x).counters = s.counters := rfl
@[simp] theorem State.setRg_jobs (s : State) (i : Nat) (x : RGroup) : (s.setRg i x).jobs = s.jobs := rfl
@[simp] theorem State.setRg_subs (s : State) (i : Nat) (x : RGroup) : (s.setRg i x).subs = s.subs := rfl
@[simp] theorem State.setRg_mem (s : State) (i : Nat) (x : RGroup) : (s.setRg i x).mem = s.mem := rfl
@[simp] theorem State.setRg_memKey (s : State) (i : Nat) (x : RGroup) : (s.setRg i x).memKey = s.memKey := rfl
@[simp] theorem State.setRg_spad (s : State) (i : Nat) (x : RGroup) : (s.setRg i x).spad = s.spad := rfl
@[simp] theorem State.setRg_scratch (s : State) (i : Nat) (x : RGroup) : (s.setRg i x).scratch = s.scratch := rfl
@[simp] theorem State.setRg_bufs (s : State) (i : Nat) (x : RGroup) : (s.setRg i x).bufs = s.bufs := rfl
@[simp] theorem State.setRg_bank (s : State) (i : Nat) (x : RGroup) : (s.setRg i x).bank = s.bank := rfl
@[simp] theorem State.setRg_fwMem (s : State) (i : Nat) (x : RGroup) : (s.setRg i x).fwMem = s.fwMem := rfl
@[simp] theorem State.setRg_tags (s : State) (i : Nat) (x : RGroup) : (s.setRg i x).tags = s.tags := rfl
@[simp] theorem State.setRg_lines (s : State) (i : Nat) (x : RGroup) : (s.setRg i x).lines = s.lines := rfl
@[simp] theorem State.setRg_poison (s : State) (i : Nat) (x : RGroup) : (s.setRg i x).poison = s.poison := rfl
@[simp] theorem State.setRg_runs (s : State) (i : Nat) (x : RGroup) : (s.setRg i x).runs = s.runs := rfl
@[simp] theorem State.setRg_checked (s : State) (i : Nat) (x : RGroup) : (s.setRg i x).checked = s.checked := rfl
@[simp] theorem State.setRg_failing (s : State) (i : Nat) (x : RGroup) : (s.setRg i x).failing = s.failing := rfl
@[simp] theorem State.setRg_next (s : State) (i : Nat) (x : RGroup) : (s.setRg i x).next = s.next := rfl
@[simp] theorem State.setRg_nextLater (s : State) (i : Nat) (x : RGroup) : (s.setRg i x).nextLater = s.nextLater := rfl
@[simp] theorem State.setRg_sections (s : State) (i : Nat) (x : RGroup) : (s.setRg i x).sections = s.sections := rfl
@[simp] theorem State.setRg_engqs (s : State) (i : Nat) (x : RGroup) : (s.setRg i x).engqs = s.engqs := rfl
@[simp] theorem State.setRg_lanes (s : State) (i : Nat) (x : RGroup) : (s.setRg i x).lanes = s.lanes := rfl
@[simp] theorem State.setRg_stackTab (s : State) (i : Nat) (x : RGroup) : (s.setRg i x).stackTab = s.stackTab := rfl
@[simp] theorem State.setRg_quads (s : State) (i : Nat) (x : RGroup) : (s.setRg i x).quads = s.quads := rfl
@[simp] theorem State.setRg_sums (s : State) (i : Nat) (x : RGroup) : (s.setRg i x).sums = s.sums := rfl
@[simp] theorem State.setRg_islands (s : State) (i : Nat) (x : RGroup) : (s.setRg i x).islands = s.islands := rfl
@[simp] theorem State.setRg_power (s : State) (i : Nat) (x : RGroup) : (s.setRg i x).power = s.power := rfl
@[simp] theorem State.setRg_ports (s : State) (i : Nat) (x : RGroup) : (s.setRg i x).ports = s.ports := rfl
@[simp] theorem State.setRg_streams (s : State) (i : Nat) (x : RGroup) : (s.setRg i x).streams = s.streams := rfl
@[simp] theorem State.setRg_remotes (s : State) (i : Nat) (x : RGroup) : (s.setRg i x).remotes = s.remotes := rfl
@[simp] theorem State.setRg_out (s : State) (i : Nat) (x : RGroup) : (s.setRg i x).out = s.out := rfl
@[simp] theorem State.setRg_irqs (s : State) (i : Nat) (x : RGroup) : (s.setRg i x).irqs = s.irqs := rfl
@[simp] theorem State.setRg_ready (s : State) (i : Nat) (x : RGroup) : (s.setRg i x).ready = s.ready := rfl
@[simp] theorem State.setRg_growth (s : State) (i : Nat) (x : RGroup) : (s.setRg i x).growth = s.growth := rfl
@[simp] theorem State.setRg_fz (s : State) (i : Nat) (x : RGroup) : (s.setRg i x).fz = s.fz := rfl
@[simp] theorem State.setRg_scratchWas (s : State) (i : Nat) (x : RGroup) : (s.setRg i x).scratchWas = s.scratchWas := rfl
@[simp] theorem State.setRg_runUse (s : State) (i : Nat) (x : RGroup) : (s.setRg i x).runUse = s.runUse := rfl
@[simp] theorem State.setRg_keyGen (s : State) (i : Nat) (x : RGroup) : (s.setRg i x).keyGen = s.keyGen := rfl
@[simp] theorem State.setRg_mkeys (s : State) (i : Nat) (x : RGroup) : (s.setRg i x).mkeys = s.mkeys := rfl
@[simp] theorem State.setRg_skeys (s : State) (i : Nat) (x : RGroup) : (s.setRg i x).skeys = s.skeys := rfl
@[simp] theorem State.setRg_condemned (s : State) (i : Nat) (x : RGroup) : (s.setRg i x).condemned = s.condemned := rfl
@[simp] theorem State.setRg_heldFrames (s : State) (i : Nat) (x : RGroup) : (s.setRg i x).heldFrames = s.heldFrames := rfl
@[simp] theorem State.setRg_ctx (s : State) (i : Nat) (x : RGroup) (j : Nat) : (s.setRg i x).ctx j = s.ctx j := rfl
@[simp] theorem State.setRg_core (s : State) (i : Nat) (x : RGroup) (j : Nat) : (s.setRg i x).core j = s.core j := rfl
@[simp] theorem State.setRg_laneOf (s : State) (i : Nat) (x : RGroup) (j : Nat) : (s.setRg i x).laneOf j = s.laneOf j := rfl
@[simp] theorem State.setRg_stackOf (s : State) (i : Nat) (x : RGroup) (j : Nat) : (s.setRg i x).stackOf j = s.stackOf j := rfl
@[simp] theorem State.setRg_quadOf (s : State) (i : Nat) (x : RGroup) (j : Nat) : (s.setRg i x).quadOf j = s.quadOf j := rfl
@[simp] theorem State.setRg_engq (s : State) (i : Nat) (x : RGroup) (j : Nat) : (s.setRg i x).engq j = s.engq j := rfl
@[simp] theorem State.setRg_counter (s : State) (i : Nat) (x : RGroup) (j : Nat) : (s.setRg i x).counter j = s.counter j := rfl
@[simp] theorem State.setRg_job (s : State) (i : Nat) (x : RGroup) (j : Nat) : (s.setRg i x).job j = s.job j := rfl
@[simp] theorem State.setRg_sub (s : State) (i : Nat) (x : RGroup) (j : Nat) : (s.setRg i x).sub j = s.sub j := rfl
@[simp] theorem State.setRg_island (s : State) (i : Nat) (x : RGroup) (j : Nat) : (s.setRg i x).island j = s.island j := rfl
@[simp] theorem State.setRg_port (s : State) (i : Nat) (x : RGroup) (j : Nat) : (s.setRg i x).port j = s.port j := rfl
@[simp] theorem State.setRg_stream (s : State) (i : Nat) (x : RGroup) (j : Nat) : (s.setRg i x).stream j = s.stream j := rfl
@[simp] theorem State.setRg_raw (s : State) (i : Nat) (x : RGroup) (j : Nat) : (s.setRg i x).raw j = s.raw j := rfl
@[simp] theorem State.setRg_unit (s : State) (i : Nat) (x : RGroup) (j : Nat) : (s.setRg i x).unit? j = s.unit? j := rfl
@[simp] theorem State.setRg_cur (s : State) (i : Nat) (x : RGroup) : (s.setRg i x).cur = s.cur := rfl
/-- What `setRg` wrote is what `rg` reads. -/
@[simp] theorem State.setRg_self (s : State) (i : Nat) (x : RGroup) : (s.setRg i x).rg i = x :=
  SMap.get_set_self _ _ _ _
/-- Every other one is as it was. -/
theorem State.setRg_ne (s : State) (i : Nat) (x : RGroup) {j : Nat} (h : j ≠ i) : (s.setRg i x).rg j = s.rg j :=
  SMap.get_set_ne _ _ _ h

/-! ### setStream -/

@[simp] theorem State.setStream_slot (s : State) (i : Nat) (x : Stream) : (s.setStream i x).slot = s.slot := rfl
@[simp] theorem State.setStream_lane (s : State) (i : Nat) (x : Stream) : (s.setStream i x).lane = s.lane := rfl
@[simp] theorem State.setStream_queue (s : State) (i : Nat) (x : Stream) : (s.setStream i x).queue = s.queue := rfl
@[simp] theorem State.setStream_tick (s : State) (i : Nat) (x : Stream) : (s.setStream i x).tick = s.tick := rfl
@[simp] theorem State.setStream_time (s : State) (i : Nat) (x : Stream) : (s.setStream i x).time = s.time := rfl
@[simp] theorem State.setStream_pwrs (s : State) (i : Nat) (x : Stream) : (s.setStream i x).pwrs = s.pwrs := rfl
@[simp] theorem State.setStream_regs (s : State) (i : Nat) (x : Stream) : (s.setStream i x).regs = s.regs := rfl
@[simp] theorem State.setStream_ctxs (s : State) (i : Nat) (x : Stream) : (s.setStream i x).ctxs = s.ctxs := rfl
@[simp] theorem State.setStream_cores (s : State) (i : Nat) (x : Stream) : (s.setStream i x).cores = s.cores := rfl
@[simp] theorem State.setStream_units (s : State) (i : Nat) (x : Stream) : (s.setStream i x).units = s.units := rfl
@[simp] theorem State.setStream_launches (s : State) (i : Nat) (x : Stream) : (s.setStream i x).launches = s.launches := rfl
@[simp] theorem State.setStream_counters (s : State) (i : Nat) (x : Stream) : (s.setStream i x).counters = s.counters := rfl
@[simp] theorem State.setStream_jobs (s : State) (i : Nat) (x : Stream) : (s.setStream i x).jobs = s.jobs := rfl
@[simp] theorem State.setStream_subs (s : State) (i : Nat) (x : Stream) : (s.setStream i x).subs = s.subs := rfl
@[simp] theorem State.setStream_mem (s : State) (i : Nat) (x : Stream) : (s.setStream i x).mem = s.mem := rfl
@[simp] theorem State.setStream_memKey (s : State) (i : Nat) (x : Stream) : (s.setStream i x).memKey = s.memKey := rfl
@[simp] theorem State.setStream_spad (s : State) (i : Nat) (x : Stream) : (s.setStream i x).spad = s.spad := rfl
@[simp] theorem State.setStream_scratch (s : State) (i : Nat) (x : Stream) : (s.setStream i x).scratch = s.scratch := rfl
@[simp] theorem State.setStream_bufs (s : State) (i : Nat) (x : Stream) : (s.setStream i x).bufs = s.bufs := rfl
@[simp] theorem State.setStream_bank (s : State) (i : Nat) (x : Stream) : (s.setStream i x).bank = s.bank := rfl
@[simp] theorem State.setStream_fwMem (s : State) (i : Nat) (x : Stream) : (s.setStream i x).fwMem = s.fwMem := rfl
@[simp] theorem State.setStream_tags (s : State) (i : Nat) (x : Stream) : (s.setStream i x).tags = s.tags := rfl
@[simp] theorem State.setStream_lines (s : State) (i : Nat) (x : Stream) : (s.setStream i x).lines = s.lines := rfl
@[simp] theorem State.setStream_poison (s : State) (i : Nat) (x : Stream) : (s.setStream i x).poison = s.poison := rfl
@[simp] theorem State.setStream_runs (s : State) (i : Nat) (x : Stream) : (s.setStream i x).runs = s.runs := rfl
@[simp] theorem State.setStream_checked (s : State) (i : Nat) (x : Stream) : (s.setStream i x).checked = s.checked := rfl
@[simp] theorem State.setStream_failing (s : State) (i : Nat) (x : Stream) : (s.setStream i x).failing = s.failing := rfl
@[simp] theorem State.setStream_next (s : State) (i : Nat) (x : Stream) : (s.setStream i x).next = s.next := rfl
@[simp] theorem State.setStream_nextLater (s : State) (i : Nat) (x : Stream) : (s.setStream i x).nextLater = s.nextLater := rfl
@[simp] theorem State.setStream_sections (s : State) (i : Nat) (x : Stream) : (s.setStream i x).sections = s.sections := rfl
@[simp] theorem State.setStream_engqs (s : State) (i : Nat) (x : Stream) : (s.setStream i x).engqs = s.engqs := rfl
@[simp] theorem State.setStream_lanes (s : State) (i : Nat) (x : Stream) : (s.setStream i x).lanes = s.lanes := rfl
@[simp] theorem State.setStream_stackTab (s : State) (i : Nat) (x : Stream) : (s.setStream i x).stackTab = s.stackTab := rfl
@[simp] theorem State.setStream_quads (s : State) (i : Nat) (x : Stream) : (s.setStream i x).quads = s.quads := rfl
@[simp] theorem State.setStream_sums (s : State) (i : Nat) (x : Stream) : (s.setStream i x).sums = s.sums := rfl
@[simp] theorem State.setStream_islands (s : State) (i : Nat) (x : Stream) : (s.setStream i x).islands = s.islands := rfl
@[simp] theorem State.setStream_power (s : State) (i : Nat) (x : Stream) : (s.setStream i x).power = s.power := rfl
@[simp] theorem State.setStream_ports (s : State) (i : Nat) (x : Stream) : (s.setStream i x).ports = s.ports := rfl
@[simp] theorem State.setStream_rgs (s : State) (i : Nat) (x : Stream) : (s.setStream i x).rgs = s.rgs := rfl
@[simp] theorem State.setStream_remotes (s : State) (i : Nat) (x : Stream) : (s.setStream i x).remotes = s.remotes := rfl
@[simp] theorem State.setStream_out (s : State) (i : Nat) (x : Stream) : (s.setStream i x).out = s.out := rfl
@[simp] theorem State.setStream_irqs (s : State) (i : Nat) (x : Stream) : (s.setStream i x).irqs = s.irqs := rfl
@[simp] theorem State.setStream_ready (s : State) (i : Nat) (x : Stream) : (s.setStream i x).ready = s.ready := rfl
@[simp] theorem State.setStream_growth (s : State) (i : Nat) (x : Stream) : (s.setStream i x).growth = s.growth := rfl
@[simp] theorem State.setStream_fz (s : State) (i : Nat) (x : Stream) : (s.setStream i x).fz = s.fz := rfl
@[simp] theorem State.setStream_scratchWas (s : State) (i : Nat) (x : Stream) : (s.setStream i x).scratchWas = s.scratchWas := rfl
@[simp] theorem State.setStream_runUse (s : State) (i : Nat) (x : Stream) : (s.setStream i x).runUse = s.runUse := rfl
@[simp] theorem State.setStream_keyGen (s : State) (i : Nat) (x : Stream) : (s.setStream i x).keyGen = s.keyGen := rfl
@[simp] theorem State.setStream_mkeys (s : State) (i : Nat) (x : Stream) : (s.setStream i x).mkeys = s.mkeys := rfl
@[simp] theorem State.setStream_skeys (s : State) (i : Nat) (x : Stream) : (s.setStream i x).skeys = s.skeys := rfl
@[simp] theorem State.setStream_condemned (s : State) (i : Nat) (x : Stream) : (s.setStream i x).condemned = s.condemned := rfl
@[simp] theorem State.setStream_heldFrames (s : State) (i : Nat) (x : Stream) : (s.setStream i x).heldFrames = s.heldFrames := rfl
@[simp] theorem State.setStream_ctx (s : State) (i : Nat) (x : Stream) (j : Nat) : (s.setStream i x).ctx j = s.ctx j := rfl
@[simp] theorem State.setStream_core (s : State) (i : Nat) (x : Stream) (j : Nat) : (s.setStream i x).core j = s.core j := rfl
@[simp] theorem State.setStream_laneOf (s : State) (i : Nat) (x : Stream) (j : Nat) : (s.setStream i x).laneOf j = s.laneOf j := rfl
@[simp] theorem State.setStream_stackOf (s : State) (i : Nat) (x : Stream) (j : Nat) : (s.setStream i x).stackOf j = s.stackOf j := rfl
@[simp] theorem State.setStream_quadOf (s : State) (i : Nat) (x : Stream) (j : Nat) : (s.setStream i x).quadOf j = s.quadOf j := rfl
@[simp] theorem State.setStream_engq (s : State) (i : Nat) (x : Stream) (j : Nat) : (s.setStream i x).engq j = s.engq j := rfl
@[simp] theorem State.setStream_counter (s : State) (i : Nat) (x : Stream) (j : Nat) : (s.setStream i x).counter j = s.counter j := rfl
@[simp] theorem State.setStream_job (s : State) (i : Nat) (x : Stream) (j : Nat) : (s.setStream i x).job j = s.job j := rfl
@[simp] theorem State.setStream_sub (s : State) (i : Nat) (x : Stream) (j : Nat) : (s.setStream i x).sub j = s.sub j := rfl
@[simp] theorem State.setStream_island (s : State) (i : Nat) (x : Stream) (j : Nat) : (s.setStream i x).island j = s.island j := rfl
@[simp] theorem State.setStream_port (s : State) (i : Nat) (x : Stream) (j : Nat) : (s.setStream i x).port j = s.port j := rfl
@[simp] theorem State.setStream_rg (s : State) (i : Nat) (x : Stream) (j : Nat) : (s.setStream i x).rg j = s.rg j := rfl
@[simp] theorem State.setStream_raw (s : State) (i : Nat) (x : Stream) (j : Nat) : (s.setStream i x).raw j = s.raw j := rfl
@[simp] theorem State.setStream_unit (s : State) (i : Nat) (x : Stream) (j : Nat) : (s.setStream i x).unit? j = s.unit? j := rfl
@[simp] theorem State.setStream_cur (s : State) (i : Nat) (x : Stream) : (s.setStream i x).cur = s.cur := rfl
/-- What `setStream` wrote is what `stream` reads. -/
@[simp] theorem State.setStream_self (s : State) (i : Nat) (x : Stream) : (s.setStream i x).stream i = x :=
  SMap.get_set_self _ _ _ _
/-- Every other one is as it was. -/
theorem State.setStream_ne (s : State) (i : Nat) (x : Stream) {j : Nat} (h : j ≠ i) : (s.setStream i x).stream j = s.stream j :=
  SMap.get_set_ne _ _ _ h

/-! ### setUnit -/

@[simp] theorem State.setUnit_slot (s : State) (u : Nat) (x : Unit) : (s.setUnit u x).slot = s.slot := rfl
@[simp] theorem State.setUnit_lane (s : State) (u : Nat) (x : Unit) : (s.setUnit u x).lane = s.lane := rfl
@[simp] theorem State.setUnit_queue (s : State) (u : Nat) (x : Unit) : (s.setUnit u x).queue = s.queue := rfl
@[simp] theorem State.setUnit_tick (s : State) (u : Nat) (x : Unit) : (s.setUnit u x).tick = s.tick := rfl
@[simp] theorem State.setUnit_time (s : State) (u : Nat) (x : Unit) : (s.setUnit u x).time = s.time := rfl
@[simp] theorem State.setUnit_pwrs (s : State) (u : Nat) (x : Unit) : (s.setUnit u x).pwrs = s.pwrs := rfl
@[simp] theorem State.setUnit_regs (s : State) (u : Nat) (x : Unit) : (s.setUnit u x).regs = s.regs := rfl
@[simp] theorem State.setUnit_ctxs (s : State) (u : Nat) (x : Unit) : (s.setUnit u x).ctxs = s.ctxs := rfl
@[simp] theorem State.setUnit_cores (s : State) (u : Nat) (x : Unit) : (s.setUnit u x).cores = s.cores := rfl
@[simp] theorem State.setUnit_launches (s : State) (u : Nat) (x : Unit) : (s.setUnit u x).launches = s.launches := rfl
@[simp] theorem State.setUnit_counters (s : State) (u : Nat) (x : Unit) : (s.setUnit u x).counters = s.counters := rfl
@[simp] theorem State.setUnit_jobs (s : State) (u : Nat) (x : Unit) : (s.setUnit u x).jobs = s.jobs := rfl
@[simp] theorem State.setUnit_subs (s : State) (u : Nat) (x : Unit) : (s.setUnit u x).subs = s.subs := rfl
@[simp] theorem State.setUnit_mem (s : State) (u : Nat) (x : Unit) : (s.setUnit u x).mem = s.mem := rfl
@[simp] theorem State.setUnit_memKey (s : State) (u : Nat) (x : Unit) : (s.setUnit u x).memKey = s.memKey := rfl
@[simp] theorem State.setUnit_spad (s : State) (u : Nat) (x : Unit) : (s.setUnit u x).spad = s.spad := rfl
@[simp] theorem State.setUnit_scratch (s : State) (u : Nat) (x : Unit) : (s.setUnit u x).scratch = s.scratch := rfl
@[simp] theorem State.setUnit_bufs (s : State) (u : Nat) (x : Unit) : (s.setUnit u x).bufs = s.bufs := rfl
@[simp] theorem State.setUnit_bank (s : State) (u : Nat) (x : Unit) : (s.setUnit u x).bank = s.bank := rfl
@[simp] theorem State.setUnit_fwMem (s : State) (u : Nat) (x : Unit) : (s.setUnit u x).fwMem = s.fwMem := rfl
@[simp] theorem State.setUnit_tags (s : State) (u : Nat) (x : Unit) : (s.setUnit u x).tags = s.tags := rfl
@[simp] theorem State.setUnit_lines (s : State) (u : Nat) (x : Unit) : (s.setUnit u x).lines = s.lines := rfl
@[simp] theorem State.setUnit_poison (s : State) (u : Nat) (x : Unit) : (s.setUnit u x).poison = s.poison := rfl
@[simp] theorem State.setUnit_runs (s : State) (u : Nat) (x : Unit) : (s.setUnit u x).runs = s.runs := rfl
@[simp] theorem State.setUnit_checked (s : State) (u : Nat) (x : Unit) : (s.setUnit u x).checked = s.checked := rfl
@[simp] theorem State.setUnit_failing (s : State) (u : Nat) (x : Unit) : (s.setUnit u x).failing = s.failing := rfl
@[simp] theorem State.setUnit_next (s : State) (u : Nat) (x : Unit) : (s.setUnit u x).next = s.next := rfl
@[simp] theorem State.setUnit_nextLater (s : State) (u : Nat) (x : Unit) : (s.setUnit u x).nextLater = s.nextLater := rfl
@[simp] theorem State.setUnit_sections (s : State) (u : Nat) (x : Unit) : (s.setUnit u x).sections = s.sections := rfl
@[simp] theorem State.setUnit_engqs (s : State) (u : Nat) (x : Unit) : (s.setUnit u x).engqs = s.engqs := rfl
@[simp] theorem State.setUnit_lanes (s : State) (u : Nat) (x : Unit) : (s.setUnit u x).lanes = s.lanes := rfl
@[simp] theorem State.setUnit_stackTab (s : State) (u : Nat) (x : Unit) : (s.setUnit u x).stackTab = s.stackTab := rfl
@[simp] theorem State.setUnit_quads (s : State) (u : Nat) (x : Unit) : (s.setUnit u x).quads = s.quads := rfl
@[simp] theorem State.setUnit_sums (s : State) (u : Nat) (x : Unit) : (s.setUnit u x).sums = s.sums := rfl
@[simp] theorem State.setUnit_islands (s : State) (u : Nat) (x : Unit) : (s.setUnit u x).islands = s.islands := rfl
@[simp] theorem State.setUnit_power (s : State) (u : Nat) (x : Unit) : (s.setUnit u x).power = s.power := rfl
@[simp] theorem State.setUnit_ports (s : State) (u : Nat) (x : Unit) : (s.setUnit u x).ports = s.ports := rfl
@[simp] theorem State.setUnit_rgs (s : State) (u : Nat) (x : Unit) : (s.setUnit u x).rgs = s.rgs := rfl
@[simp] theorem State.setUnit_streams (s : State) (u : Nat) (x : Unit) : (s.setUnit u x).streams = s.streams := rfl
@[simp] theorem State.setUnit_remotes (s : State) (u : Nat) (x : Unit) : (s.setUnit u x).remotes = s.remotes := rfl
@[simp] theorem State.setUnit_out (s : State) (u : Nat) (x : Unit) : (s.setUnit u x).out = s.out := rfl
@[simp] theorem State.setUnit_irqs (s : State) (u : Nat) (x : Unit) : (s.setUnit u x).irqs = s.irqs := rfl
@[simp] theorem State.setUnit_ready (s : State) (u : Nat) (x : Unit) : (s.setUnit u x).ready = s.ready := rfl
@[simp] theorem State.setUnit_growth (s : State) (u : Nat) (x : Unit) : (s.setUnit u x).growth = s.growth := rfl
@[simp] theorem State.setUnit_fz (s : State) (u : Nat) (x : Unit) : (s.setUnit u x).fz = s.fz := rfl
@[simp] theorem State.setUnit_scratchWas (s : State) (u : Nat) (x : Unit) : (s.setUnit u x).scratchWas = s.scratchWas := rfl
@[simp] theorem State.setUnit_runUse (s : State) (u : Nat) (x : Unit) : (s.setUnit u x).runUse = s.runUse := rfl
@[simp] theorem State.setUnit_keyGen (s : State) (u : Nat) (x : Unit) : (s.setUnit u x).keyGen = s.keyGen := rfl
@[simp] theorem State.setUnit_mkeys (s : State) (u : Nat) (x : Unit) : (s.setUnit u x).mkeys = s.mkeys := rfl
@[simp] theorem State.setUnit_skeys (s : State) (u : Nat) (x : Unit) : (s.setUnit u x).skeys = s.skeys := rfl
@[simp] theorem State.setUnit_condemned (s : State) (u : Nat) (x : Unit) : (s.setUnit u x).condemned = s.condemned := rfl
@[simp] theorem State.setUnit_heldFrames (s : State) (u : Nat) (x : Unit) : (s.setUnit u x).heldFrames = s.heldFrames := rfl
@[simp] theorem State.setUnit_ctx (s : State) (u : Nat) (x : Unit) (j : Nat) : (s.setUnit u x).ctx j = s.ctx j := rfl
@[simp] theorem State.setUnit_core (s : State) (u : Nat) (x : Unit) (j : Nat) : (s.setUnit u x).core j = s.core j := rfl
@[simp] theorem State.setUnit_laneOf (s : State) (u : Nat) (x : Unit) (j : Nat) : (s.setUnit u x).laneOf j = s.laneOf j := rfl
@[simp] theorem State.setUnit_stackOf (s : State) (u : Nat) (x : Unit) (j : Nat) : (s.setUnit u x).stackOf j = s.stackOf j := rfl
@[simp] theorem State.setUnit_quadOf (s : State) (u : Nat) (x : Unit) (j : Nat) : (s.setUnit u x).quadOf j = s.quadOf j := rfl
@[simp] theorem State.setUnit_engq (s : State) (u : Nat) (x : Unit) (j : Nat) : (s.setUnit u x).engq j = s.engq j := rfl
@[simp] theorem State.setUnit_counter (s : State) (u : Nat) (x : Unit) (j : Nat) : (s.setUnit u x).counter j = s.counter j := rfl
@[simp] theorem State.setUnit_job (s : State) (u : Nat) (x : Unit) (j : Nat) : (s.setUnit u x).job j = s.job j := rfl
@[simp] theorem State.setUnit_sub (s : State) (u : Nat) (x : Unit) (j : Nat) : (s.setUnit u x).sub j = s.sub j := rfl
@[simp] theorem State.setUnit_island (s : State) (u : Nat) (x : Unit) (j : Nat) : (s.setUnit u x).island j = s.island j := rfl
@[simp] theorem State.setUnit_port (s : State) (u : Nat) (x : Unit) (j : Nat) : (s.setUnit u x).port j = s.port j := rfl
@[simp] theorem State.setUnit_rg (s : State) (u : Nat) (x : Unit) (j : Nat) : (s.setUnit u x).rg j = s.rg j := rfl
@[simp] theorem State.setUnit_stream (s : State) (u : Nat) (x : Unit) (j : Nat) : (s.setUnit u x).stream j = s.stream j := rfl
@[simp] theorem State.setUnit_raw (s : State) (u : Nat) (x : Unit) (j : Nat) : (s.setUnit u x).raw j = s.raw j := rfl
@[simp] theorem State.setUnit_cur (s : State) (u : Nat) (x : Unit) : (s.setUnit u x).cur = s.cur := rfl

/-! ### grow -/

@[simp] theorem State.grow_slot (s : State) (k n : Nat) : (s.grow k n).slot = s.slot := rfl
@[simp] theorem State.grow_lane (s : State) (k n : Nat) : (s.grow k n).lane = s.lane := rfl
@[simp] theorem State.grow_queue (s : State) (k n : Nat) : (s.grow k n).queue = s.queue := rfl
@[simp] theorem State.grow_tick (s : State) (k n : Nat) : (s.grow k n).tick = s.tick := rfl
@[simp] theorem State.grow_time (s : State) (k n : Nat) : (s.grow k n).time = s.time := rfl
@[simp] theorem State.grow_pwrs (s : State) (k n : Nat) : (s.grow k n).pwrs = s.pwrs := rfl
@[simp] theorem State.grow_regs (s : State) (k n : Nat) : (s.grow k n).regs = s.regs := rfl
@[simp] theorem State.grow_ctxs (s : State) (k n : Nat) : (s.grow k n).ctxs = s.ctxs := rfl
@[simp] theorem State.grow_cores (s : State) (k n : Nat) : (s.grow k n).cores = s.cores := rfl
@[simp] theorem State.grow_units (s : State) (k n : Nat) : (s.grow k n).units = s.units := rfl
@[simp] theorem State.grow_launches (s : State) (k n : Nat) : (s.grow k n).launches = s.launches := rfl
@[simp] theorem State.grow_counters (s : State) (k n : Nat) : (s.grow k n).counters = s.counters := rfl
@[simp] theorem State.grow_jobs (s : State) (k n : Nat) : (s.grow k n).jobs = s.jobs := rfl
@[simp] theorem State.grow_subs (s : State) (k n : Nat) : (s.grow k n).subs = s.subs := rfl
@[simp] theorem State.grow_mem (s : State) (k n : Nat) : (s.grow k n).mem = s.mem := rfl
@[simp] theorem State.grow_memKey (s : State) (k n : Nat) : (s.grow k n).memKey = s.memKey := rfl
@[simp] theorem State.grow_spad (s : State) (k n : Nat) : (s.grow k n).spad = s.spad := rfl
@[simp] theorem State.grow_scratch (s : State) (k n : Nat) : (s.grow k n).scratch = s.scratch := rfl
@[simp] theorem State.grow_bufs (s : State) (k n : Nat) : (s.grow k n).bufs = s.bufs := rfl
@[simp] theorem State.grow_bank (s : State) (k n : Nat) : (s.grow k n).bank = s.bank := rfl
@[simp] theorem State.grow_fwMem (s : State) (k n : Nat) : (s.grow k n).fwMem = s.fwMem := rfl
@[simp] theorem State.grow_tags (s : State) (k n : Nat) : (s.grow k n).tags = s.tags := rfl
@[simp] theorem State.grow_lines (s : State) (k n : Nat) : (s.grow k n).lines = s.lines := rfl
@[simp] theorem State.grow_poison (s : State) (k n : Nat) : (s.grow k n).poison = s.poison := rfl
@[simp] theorem State.grow_runs (s : State) (k n : Nat) : (s.grow k n).runs = s.runs := rfl
@[simp] theorem State.grow_checked (s : State) (k n : Nat) : (s.grow k n).checked = s.checked := rfl
@[simp] theorem State.grow_failing (s : State) (k n : Nat) : (s.grow k n).failing = s.failing := rfl
@[simp] theorem State.grow_next (s : State) (k n : Nat) : (s.grow k n).next = s.next := rfl
@[simp] theorem State.grow_nextLater (s : State) (k n : Nat) : (s.grow k n).nextLater = s.nextLater := rfl
@[simp] theorem State.grow_sections (s : State) (k n : Nat) : (s.grow k n).sections = s.sections := rfl
@[simp] theorem State.grow_engqs (s : State) (k n : Nat) : (s.grow k n).engqs = s.engqs := rfl
@[simp] theorem State.grow_lanes (s : State) (k n : Nat) : (s.grow k n).lanes = s.lanes := rfl
@[simp] theorem State.grow_stackTab (s : State) (k n : Nat) : (s.grow k n).stackTab = s.stackTab := rfl
@[simp] theorem State.grow_quads (s : State) (k n : Nat) : (s.grow k n).quads = s.quads := rfl
@[simp] theorem State.grow_sums (s : State) (k n : Nat) : (s.grow k n).sums = s.sums := rfl
@[simp] theorem State.grow_islands (s : State) (k n : Nat) : (s.grow k n).islands = s.islands := rfl
@[simp] theorem State.grow_power (s : State) (k n : Nat) : (s.grow k n).power = s.power := rfl
@[simp] theorem State.grow_ports (s : State) (k n : Nat) : (s.grow k n).ports = s.ports := rfl
@[simp] theorem State.grow_rgs (s : State) (k n : Nat) : (s.grow k n).rgs = s.rgs := rfl
@[simp] theorem State.grow_streams (s : State) (k n : Nat) : (s.grow k n).streams = s.streams := rfl
@[simp] theorem State.grow_remotes (s : State) (k n : Nat) : (s.grow k n).remotes = s.remotes := rfl
@[simp] theorem State.grow_out (s : State) (k n : Nat) : (s.grow k n).out = s.out := rfl
@[simp] theorem State.grow_irqs (s : State) (k n : Nat) : (s.grow k n).irqs = s.irqs := rfl
@[simp] theorem State.grow_ready (s : State) (k n : Nat) : (s.grow k n).ready = s.ready := rfl
@[simp] theorem State.grow_fz (s : State) (k n : Nat) : (s.grow k n).fz = s.fz := rfl
@[simp] theorem State.grow_scratchWas (s : State) (k n : Nat) : (s.grow k n).scratchWas = s.scratchWas := rfl
@[simp] theorem State.grow_runUse (s : State) (k n : Nat) : (s.grow k n).runUse = s.runUse := rfl
@[simp] theorem State.grow_keyGen (s : State) (k n : Nat) : (s.grow k n).keyGen = s.keyGen := rfl
@[simp] theorem State.grow_mkeys (s : State) (k n : Nat) : (s.grow k n).mkeys = s.mkeys := rfl
@[simp] theorem State.grow_skeys (s : State) (k n : Nat) : (s.grow k n).skeys = s.skeys := rfl
@[simp] theorem State.grow_condemned (s : State) (k n : Nat) : (s.grow k n).condemned = s.condemned := rfl
@[simp] theorem State.grow_heldFrames (s : State) (k n : Nat) : (s.grow k n).heldFrames = s.heldFrames := rfl
@[simp] theorem State.grow_ctx (s : State) (k n : Nat) (j : Nat) : (s.grow k n).ctx j = s.ctx j := rfl
@[simp] theorem State.grow_core (s : State) (k n : Nat) (j : Nat) : (s.grow k n).core j = s.core j := rfl
@[simp] theorem State.grow_laneOf (s : State) (k n : Nat) (j : Nat) : (s.grow k n).laneOf j = s.laneOf j := rfl
@[simp] theorem State.grow_stackOf (s : State) (k n : Nat) (j : Nat) : (s.grow k n).stackOf j = s.stackOf j := rfl
@[simp] theorem State.grow_quadOf (s : State) (k n : Nat) (j : Nat) : (s.grow k n).quadOf j = s.quadOf j := rfl
@[simp] theorem State.grow_engq (s : State) (k n : Nat) (j : Nat) : (s.grow k n).engq j = s.engq j := rfl
@[simp] theorem State.grow_counter (s : State) (k n : Nat) (j : Nat) : (s.grow k n).counter j = s.counter j := rfl
@[simp] theorem State.grow_job (s : State) (k n : Nat) (j : Nat) : (s.grow k n).job j = s.job j := rfl
@[simp] theorem State.grow_sub (s : State) (k n : Nat) (j : Nat) : (s.grow k n).sub j = s.sub j := rfl
@[simp] theorem State.grow_island (s : State) (k n : Nat) (j : Nat) : (s.grow k n).island j = s.island j := rfl
@[simp] theorem State.grow_port (s : State) (k n : Nat) (j : Nat) : (s.grow k n).port j = s.port j := rfl
@[simp] theorem State.grow_rg (s : State) (k n : Nat) (j : Nat) : (s.grow k n).rg j = s.rg j := rfl
@[simp] theorem State.grow_stream (s : State) (k n : Nat) (j : Nat) : (s.grow k n).stream j = s.stream j := rfl
@[simp] theorem State.grow_raw (s : State) (k n : Nat) (j : Nat) : (s.grow k n).raw j = s.raw j := rfl
@[simp] theorem State.grow_unit (s : State) (k n : Nat) (j : Nat) : (s.grow k n).unit? j = s.unit? j := rfl
@[simp] theorem State.grow_cur (s : State) (k n : Nat) : (s.grow k n).cur = s.cur := rfl

/-! ### setRaw -/

@[simp] theorem State.setRaw_slot (s : State) (off : Nat) (v : Word) : (s.setRaw off v).slot = s.slot := rfl
@[simp] theorem State.setRaw_lane (s : State) (off : Nat) (v : Word) : (s.setRaw off v).lane = s.lane := rfl
@[simp] theorem State.setRaw_queue (s : State) (off : Nat) (v : Word) : (s.setRaw off v).queue = s.queue := rfl
@[simp] theorem State.setRaw_tick (s : State) (off : Nat) (v : Word) : (s.setRaw off v).tick = s.tick := rfl
@[simp] theorem State.setRaw_time (s : State) (off : Nat) (v : Word) : (s.setRaw off v).time = s.time := rfl
@[simp] theorem State.setRaw_pwrs (s : State) (off : Nat) (v : Word) : (s.setRaw off v).pwrs = s.pwrs := rfl
@[simp] theorem State.setRaw_ctxs (s : State) (off : Nat) (v : Word) : (s.setRaw off v).ctxs = s.ctxs := rfl
@[simp] theorem State.setRaw_cores (s : State) (off : Nat) (v : Word) : (s.setRaw off v).cores = s.cores := rfl
@[simp] theorem State.setRaw_units (s : State) (off : Nat) (v : Word) : (s.setRaw off v).units = s.units := rfl
@[simp] theorem State.setRaw_launches (s : State) (off : Nat) (v : Word) : (s.setRaw off v).launches = s.launches := rfl
@[simp] theorem State.setRaw_counters (s : State) (off : Nat) (v : Word) : (s.setRaw off v).counters = s.counters := rfl
@[simp] theorem State.setRaw_jobs (s : State) (off : Nat) (v : Word) : (s.setRaw off v).jobs = s.jobs := rfl
@[simp] theorem State.setRaw_subs (s : State) (off : Nat) (v : Word) : (s.setRaw off v).subs = s.subs := rfl
@[simp] theorem State.setRaw_mem (s : State) (off : Nat) (v : Word) : (s.setRaw off v).mem = s.mem := rfl
@[simp] theorem State.setRaw_memKey (s : State) (off : Nat) (v : Word) : (s.setRaw off v).memKey = s.memKey := rfl
@[simp] theorem State.setRaw_spad (s : State) (off : Nat) (v : Word) : (s.setRaw off v).spad = s.spad := rfl
@[simp] theorem State.setRaw_scratch (s : State) (off : Nat) (v : Word) : (s.setRaw off v).scratch = s.scratch := rfl
@[simp] theorem State.setRaw_bufs (s : State) (off : Nat) (v : Word) : (s.setRaw off v).bufs = s.bufs := rfl
@[simp] theorem State.setRaw_bank (s : State) (off : Nat) (v : Word) : (s.setRaw off v).bank = s.bank := rfl
@[simp] theorem State.setRaw_fwMem (s : State) (off : Nat) (v : Word) : (s.setRaw off v).fwMem = s.fwMem := rfl
@[simp] theorem State.setRaw_tags (s : State) (off : Nat) (v : Word) : (s.setRaw off v).tags = s.tags := rfl
@[simp] theorem State.setRaw_lines (s : State) (off : Nat) (v : Word) : (s.setRaw off v).lines = s.lines := rfl
@[simp] theorem State.setRaw_poison (s : State) (off : Nat) (v : Word) : (s.setRaw off v).poison = s.poison := rfl
@[simp] theorem State.setRaw_runs (s : State) (off : Nat) (v : Word) : (s.setRaw off v).runs = s.runs := rfl
@[simp] theorem State.setRaw_checked (s : State) (off : Nat) (v : Word) : (s.setRaw off v).checked = s.checked := rfl
@[simp] theorem State.setRaw_failing (s : State) (off : Nat) (v : Word) : (s.setRaw off v).failing = s.failing := rfl
@[simp] theorem State.setRaw_next (s : State) (off : Nat) (v : Word) : (s.setRaw off v).next = s.next := rfl
@[simp] theorem State.setRaw_nextLater (s : State) (off : Nat) (v : Word) : (s.setRaw off v).nextLater = s.nextLater := rfl
@[simp] theorem State.setRaw_sections (s : State) (off : Nat) (v : Word) : (s.setRaw off v).sections = s.sections := rfl
@[simp] theorem State.setRaw_engqs (s : State) (off : Nat) (v : Word) : (s.setRaw off v).engqs = s.engqs := rfl
@[simp] theorem State.setRaw_lanes (s : State) (off : Nat) (v : Word) : (s.setRaw off v).lanes = s.lanes := rfl
@[simp] theorem State.setRaw_stackTab (s : State) (off : Nat) (v : Word) : (s.setRaw off v).stackTab = s.stackTab := rfl
@[simp] theorem State.setRaw_quads (s : State) (off : Nat) (v : Word) : (s.setRaw off v).quads = s.quads := rfl
@[simp] theorem State.setRaw_sums (s : State) (off : Nat) (v : Word) : (s.setRaw off v).sums = s.sums := rfl
@[simp] theorem State.setRaw_islands (s : State) (off : Nat) (v : Word) : (s.setRaw off v).islands = s.islands := rfl
@[simp] theorem State.setRaw_power (s : State) (off : Nat) (v : Word) : (s.setRaw off v).power = s.power := rfl
@[simp] theorem State.setRaw_ports (s : State) (off : Nat) (v : Word) : (s.setRaw off v).ports = s.ports := rfl
@[simp] theorem State.setRaw_rgs (s : State) (off : Nat) (v : Word) : (s.setRaw off v).rgs = s.rgs := rfl
@[simp] theorem State.setRaw_streams (s : State) (off : Nat) (v : Word) : (s.setRaw off v).streams = s.streams := rfl
@[simp] theorem State.setRaw_remotes (s : State) (off : Nat) (v : Word) : (s.setRaw off v).remotes = s.remotes := rfl
@[simp] theorem State.setRaw_out (s : State) (off : Nat) (v : Word) : (s.setRaw off v).out = s.out := rfl
@[simp] theorem State.setRaw_irqs (s : State) (off : Nat) (v : Word) : (s.setRaw off v).irqs = s.irqs := rfl
@[simp] theorem State.setRaw_ready (s : State) (off : Nat) (v : Word) : (s.setRaw off v).ready = s.ready := rfl
@[simp] theorem State.setRaw_growth (s : State) (off : Nat) (v : Word) : (s.setRaw off v).growth = s.growth := rfl
@[simp] theorem State.setRaw_fz (s : State) (off : Nat) (v : Word) : (s.setRaw off v).fz = s.fz := rfl
@[simp] theorem State.setRaw_scratchWas (s : State) (off : Nat) (v : Word) : (s.setRaw off v).scratchWas = s.scratchWas := rfl
@[simp] theorem State.setRaw_runUse (s : State) (off : Nat) (v : Word) : (s.setRaw off v).runUse = s.runUse := rfl
@[simp] theorem State.setRaw_keyGen (s : State) (off : Nat) (v : Word) : (s.setRaw off v).keyGen = s.keyGen := rfl
@[simp] theorem State.setRaw_mkeys (s : State) (off : Nat) (v : Word) : (s.setRaw off v).mkeys = s.mkeys := rfl
@[simp] theorem State.setRaw_skeys (s : State) (off : Nat) (v : Word) : (s.setRaw off v).skeys = s.skeys := rfl
@[simp] theorem State.setRaw_condemned (s : State) (off : Nat) (v : Word) : (s.setRaw off v).condemned = s.condemned := rfl
@[simp] theorem State.setRaw_heldFrames (s : State) (off : Nat) (v : Word) : (s.setRaw off v).heldFrames = s.heldFrames := rfl
@[simp] theorem State.setRaw_ctx (s : State) (off : Nat) (v : Word) (j : Nat) : (s.setRaw off v).ctx j = s.ctx j := rfl
@[simp] theorem State.setRaw_core (s : State) (off : Nat) (v : Word) (j : Nat) : (s.setRaw off v).core j = s.core j := rfl
@[simp] theorem State.setRaw_laneOf (s : State) (off : Nat) (v : Word) (j : Nat) : (s.setRaw off v).laneOf j = s.laneOf j := rfl
@[simp] theorem State.setRaw_stackOf (s : State) (off : Nat) (v : Word) (j : Nat) : (s.setRaw off v).stackOf j = s.stackOf j := rfl
@[simp] theorem State.setRaw_quadOf (s : State) (off : Nat) (v : Word) (j : Nat) : (s.setRaw off v).quadOf j = s.quadOf j := rfl
@[simp] theorem State.setRaw_engq (s : State) (off : Nat) (v : Word) (j : Nat) : (s.setRaw off v).engq j = s.engq j := rfl
@[simp] theorem State.setRaw_counter (s : State) (off : Nat) (v : Word) (j : Nat) : (s.setRaw off v).counter j = s.counter j := rfl
@[simp] theorem State.setRaw_job (s : State) (off : Nat) (v : Word) (j : Nat) : (s.setRaw off v).job j = s.job j := rfl
@[simp] theorem State.setRaw_sub (s : State) (off : Nat) (v : Word) (j : Nat) : (s.setRaw off v).sub j = s.sub j := rfl
@[simp] theorem State.setRaw_island (s : State) (off : Nat) (v : Word) (j : Nat) : (s.setRaw off v).island j = s.island j := rfl
@[simp] theorem State.setRaw_port (s : State) (off : Nat) (v : Word) (j : Nat) : (s.setRaw off v).port j = s.port j := rfl
@[simp] theorem State.setRaw_rg (s : State) (off : Nat) (v : Word) (j : Nat) : (s.setRaw off v).rg j = s.rg j := rfl
@[simp] theorem State.setRaw_stream (s : State) (off : Nat) (v : Word) (j : Nat) : (s.setRaw off v).stream j = s.stream j := rfl
@[simp] theorem State.setRaw_unit (s : State) (off : Nat) (v : Word) (j : Nat) : (s.setRaw off v).unit? j = s.unit? j := rfl
@[simp] theorem State.setRaw_cur (s : State) (off : Nat) (v : Word) : (s.setRaw off v).cur = s.cur := rfl

/-- The unit written is the unit found. -/
@[simp] theorem State.setUnit_self (s : State) (u : Nat) (x : Unit) : (s.setUnit u x).unit? u = some x :=
  SMap.find_put_self _ _ _

/-- Every other unit is as it was. -/
theorem State.setUnit_ne (s : State) (u : Nat) (x : Unit) {j : Nat} (h : j ≠ u) : (s.setUnit u x).unit? j = s.unit? j :=
  SMap.find_put_ne _ _ h

/-! ### The current context -/

@[simp] theorem State.setCur_cur (s : State) (c : Ctx) : (s.setCur c).cur = c := SMap.get_set_self _ _ _ _

theorem State.setCur_ctx_ne (s : State) (c : Ctx) {j : Nat} (h : j ≠ s.slot) : (s.setCur c).ctx j = s.ctx j :=
  SMap.get_set_ne _ _ _ h

theorem State.setCur_eq (s : State) (c : Ctx) : s.setCur c = s.setCtx s.slot c := rfl

@[simp] theorem State.setCur_slot (s : State) (c : Ctx) : (s.setCur c).slot = s.slot := rfl

/-! ### Registers -/

@[simp] theorem Ctx.rd_zero (c : Ctx) : c.rd 0 = 0 := rfl

@[simp] theorem Ctx.wr_zero (c : Ctx) (v : Word) : c.wr 0 v = c := rfl

theorem Ctx.rd_wr_self (c : Ctx) (r : Nat) (v : Word) (h : r ≠ 0) : (c.wr r v).rd r = v := by
  simp [Ctx.rd, Ctx.wr, h]

theorem Ctx.rd_wr_ne (c : Ctx) (v : Word) {r k : Nat} (h : k ≠ r) : (c.wr r v).rd k = c.rd k := by
  unfold Ctx.wr Ctx.rd
  split
  · rfl
  · split
    · rfl
    · exact SMap.get_set_ne _ _ _ h

theorem Ctx.rd_wr (c : Ctx) (r k : Nat) (v : Word) :
    (c.wr r v).rd k = if k = r ∧ r ≠ 0 then v else c.rd k := by
  by_cases h : k = r
  · subst h
    by_cases h0 : k = 0
    · subst h0; simp
    · simp [h0, Ctx.rd_wr_self]
  · simp [h, Ctx.rd_wr_ne]

@[simp] theorem Ctx.rdV_wrV_self (c : Ctx) (r : Nat) (v : VWord) : (c.wrV r v).rdV r = v := SMap.get_set_self _ _ _ _

theorem Ctx.rdV_wrV_ne (c : Ctx) (v : VWord) {r k : Nat} (h : k ≠ r) : (c.wrV r v).rdV k = c.rdV k :=
  SMap.get_set_ne _ _ _ h

@[simp] theorem Ctx.rdM_zero (c : Ctx) : c.rdM 0 = BitVec.allOnes 256 := rfl

@[simp] theorem Ctx.wrM_zero (c : Ctx) (v : MWord) : c.wrM 0 v = c := rfl

theorem Ctx.rdM_wrM_self (c : Ctx) (r : Nat) (v : MWord) (h : r ≠ 0) : (c.wrM r v).rdM r = v := by
  simp [Ctx.rdM, Ctx.wrM, h]

theorem Ctx.rdM_wrM_ne (c : Ctx) (v : MWord) {r k : Nat} (h : k ≠ r) : (c.wrM r v).rdM k = c.rdM k := by
  unfold Ctx.wrM Ctx.rdM
  split
  · rfl
  · split
    · rfl
    · exact SMap.get_set_ne _ _ _ h

@[simp] theorem Ctx.rdE_wrE_self (c : Ctx) (r : Nat) (v : Eddy) : (c.wrE r v).rdE r = v := SMap.get_set_self _ _ _ _

theorem Ctx.rdE_wrE_ne (c : Ctx) (v : Eddy) {r k : Nat} (h : k ≠ r) : (c.wrE r v).rdE k = c.rdE k :=
  SMap.get_set_ne _ _ _ h

/-! ### What the updates of a context leave alone -/

@[simp] theorem Ctx.wr_v (c : Ctx) (r : Nat) (v : Word) : (c.wr r v).v = c.v := by
  unfold Ctx.wr; split <;> rfl
@[simp] theorem Ctx.wr_m (c : Ctx) (r : Nat) (v : Word) : (c.wr r v).m = c.m := by
  unfold Ctx.wr; split <;> rfl
@[simp] theorem Ctx.wr_e (c : Ctx) (r : Nat) (v : Word) : (c.wr r v).e = c.e := by
  unfold Ctx.wr; split <;> rfl
@[simp] theorem Ctx.wr_epi (c : Ctx) (r : Nat) (v : Word) : (c.wr r v).epi = c.epi := by
  unfold Ctx.wr; split <;> rfl
@[simp] theorem Ctx.wr_pc (c : Ctx) (r : Nat) (v : Word) : (c.wr r v).pc = c.pc := by
  unfold Ctx.wr; split <;> rfl
@[simp] theorem Ctx.wr_fpst (c : Ctx) (r : Nat) (v : Word) : (c.wr r v).fpst = c.fpst := by
  unfold Ctx.wr; split <;> rfl
@[simp] theorem Ctx.wr_level (c : Ctx) (r : Nat) (v : Word) : (c.wr r v).level = c.level := by
  unfold Ctx.wr; split <;> rfl
@[simp] theorem Ctx.wr_loops (c : Ctx) (r : Nat) (v : Word) : (c.wr r v).loops = c.loops := by
  unfold Ctx.wr; split <;> rfl
@[simp] theorem Ctx.wr_sloops (c : Ctx) (r : Nat) (v : Word) : (c.wr r v).sloops = c.sloops := by
  unfold Ctx.wr; split <;> rfl
@[simp] theorem Ctx.wr_xtab (c : Ctx) (r : Nat) (v : Word) : (c.wr r v).xtab = c.xtab := by
  unfold Ctx.wr; split <;> rfl
@[simp] theorem Ctx.wr_side (c : Ctx) (r : Nat) (v : Word) : (c.wr r v).side = c.side := by
  unfold Ctx.wr; split <;> rfl
@[simp] theorem Ctx.wr_watch (c : Ctx) (r : Nat) (v : Word) : (c.wr r v).watch = c.watch := by
  unfold Ctx.wr; split <;> rfl
@[simp] theorem Ctx.wr_guard (c : Ctx) (r : Nat) (v : Word) : (c.wr r v).guard = c.guard := by
  unfold Ctx.wr; split <;> rfl
@[simp] theorem Ctx.wr_epoch (c : Ctx) (r : Nat) (v : Word) : (c.wr r v).epoch = c.epoch := by
  unfold Ctx.wr; split <;> rfl
@[simp] theorem Ctx.wr_tframe (c : Ctx) (r : Nat) (v : Word) : (c.wr r v).tframe = c.tframe := by
  unfold Ctx.wr; split <;> rfl
@[simp] theorem Ctx.wr_preq (c : Ctx) (r : Nat) (v : Word) : (c.wr r v).preq = c.preq := by
  unfold Ctx.wr; split <;> rfl
@[simp] theorem Ctx.wr_pdl (c : Ctx) (r : Nat) (v : Word) : (c.wr r v).pdl = c.pdl := by
  unfold Ctx.wr; split <;> rfl
@[simp] theorem Ctx.wr_pdlLeft (c : Ctx) (r : Nat) (v : Word) : (c.wr r v).pdlLeft = c.pdlLeft := by
  unfold Ctx.wr; split <;> rfl
@[simp] theorem Ctx.wr_uid (c : Ctx) (r : Nat) (v : Word) : (c.wr r v).uid = c.uid := by
  unfold Ctx.wr; split <;> rfl
@[simp] theorem Ctx.wr_held (c : Ctx) (r : Nat) (v : Word) : (c.wr r v).held = c.held := by
  unfold Ctx.wr; split <;> rfl
@[simp] theorem Ctx.wr_frz (c : Ctx) (r : Nat) (v : Word) : (c.wr r v).frz = c.frz := by
  unfold Ctx.wr; split <;> rfl
@[simp] theorem Ctx.wr_frzAt (c : Ctx) (r : Nat) (v : Word) : (c.wr r v).frzAt = c.frzAt := by
  unfold Ctx.wr; split <;> rfl
@[simp] theorem Ctx.wr_fetched (c : Ctx) (r : Nat) (v : Word) : (c.wr r v).fetched = c.fetched := by
  unfold Ctx.wr; split <;> rfl
@[simp] theorem Ctx.wr_entered (c : Ctx) (r : Nat) (v : Word) : (c.wr r v).entered = c.entered := by
  unfold Ctx.wr; split <;> rfl
@[simp] theorem Ctx.wr_pushing (c : Ctx) (r : Nat) (v : Word) : (c.wr r v).pushing = c.pushing := by
  unfold Ctx.wr; split <;> rfl
@[simp] theorem Ctx.wr_pushGroup (c : Ctx) (r : Nat) (v : Word) : (c.wr r v).pushGroup = c.pushGroup := by
  unfold Ctx.wr; split <;> rfl
@[simp] theorem Ctx.wr_replay (c : Ctx) (r : Nat) (v : Word) : (c.wr r v).replay = c.replay := by
  unfold Ctx.wr; split <;> rfl
@[simp] theorem Ctx.wr_spadUsed (c : Ctx) (r : Nat) (v : Word) : (c.wr r v).spadUsed = c.spadUsed := by
  unfold Ctx.wr; split <;> rfl
@[simp] theorem Ctx.wr_prio (c : Ctx) (r : Nat) (v : Word) : (c.wr r v).prio = c.prio := by
  unfold Ctx.wr; split <;> rfl
@[simp] theorem Ctx.wr_st (c : Ctx) (r : Nat) (v : Word) : (c.wr r v).st = c.st := by
  unfold Ctx.wr; split <;> rfl
@[simp] theorem Ctx.wr_berr (c : Ctx) (r : Nat) (v : Word) : (c.wr r v).berr = c.berr := by
  unfold Ctx.wr; split <;> rfl
@[simp] theorem Ctx.wr_forced (c : Ctx) (r : Nat) (v : Word) : (c.wr r v).forced = c.forced := by
  unfold Ctx.wr; split <;> rfl
@[simp] theorem Ctx.wr_popBase (c : Ctx) (r : Nat) (v : Word) : (c.wr r v).popBase = c.popBase := by
  unfold Ctx.wr; split <;> rfl
@[simp] theorem Ctx.wr_marker (c : Ctx) (r : Nat) (v : Word) : (c.wr r v).marker = c.marker := by
  unfold Ctx.wr; split <;> rfl
@[simp] theorem Ctx.wrV_g (c : Ctx) (r : Nat) (v : VWord) : (c.wrV r v).g = c.g := rfl
@[simp] theorem Ctx.wrV_m (c : Ctx) (r : Nat) (v : VWord) : (c.wrV r v).m = c.m := rfl
@[simp] theorem Ctx.wrV_e (c : Ctx) (r : Nat) (v : VWord) : (c.wrV r v).e = c.e := rfl
@[simp] theorem Ctx.wrV_epi (c : Ctx) (r : Nat) (v : VWord) : (c.wrV r v).epi = c.epi := rfl
@[simp] theorem Ctx.wrV_pc (c : Ctx) (r : Nat) (v : VWord) : (c.wrV r v).pc = c.pc := rfl
@[simp] theorem Ctx.wrV_fpst (c : Ctx) (r : Nat) (v : VWord) : (c.wrV r v).fpst = c.fpst := rfl
@[simp] theorem Ctx.wrV_level (c : Ctx) (r : Nat) (v : VWord) : (c.wrV r v).level = c.level := rfl
@[simp] theorem Ctx.wrV_loops (c : Ctx) (r : Nat) (v : VWord) : (c.wrV r v).loops = c.loops := rfl
@[simp] theorem Ctx.wrV_sloops (c : Ctx) (r : Nat) (v : VWord) : (c.wrV r v).sloops = c.sloops := rfl
@[simp] theorem Ctx.wrV_xtab (c : Ctx) (r : Nat) (v : VWord) : (c.wrV r v).xtab = c.xtab := rfl
@[simp] theorem Ctx.wrV_side (c : Ctx) (r : Nat) (v : VWord) : (c.wrV r v).side = c.side := rfl
@[simp] theorem Ctx.wrV_watch (c : Ctx) (r : Nat) (v : VWord) : (c.wrV r v).watch = c.watch := rfl
@[simp] theorem Ctx.wrV_guard (c : Ctx) (r : Nat) (v : VWord) : (c.wrV r v).guard = c.guard := rfl
@[simp] theorem Ctx.wrV_epoch (c : Ctx) (r : Nat) (v : VWord) : (c.wrV r v).epoch = c.epoch := rfl
@[simp] theorem Ctx.wrV_tframe (c : Ctx) (r : Nat) (v : VWord) : (c.wrV r v).tframe = c.tframe := rfl
@[simp] theorem Ctx.wrV_preq (c : Ctx) (r : Nat) (v : VWord) : (c.wrV r v).preq = c.preq := rfl
@[simp] theorem Ctx.wrV_pdl (c : Ctx) (r : Nat) (v : VWord) : (c.wrV r v).pdl = c.pdl := rfl
@[simp] theorem Ctx.wrV_pdlLeft (c : Ctx) (r : Nat) (v : VWord) : (c.wrV r v).pdlLeft = c.pdlLeft := rfl
@[simp] theorem Ctx.wrV_uid (c : Ctx) (r : Nat) (v : VWord) : (c.wrV r v).uid = c.uid := rfl
@[simp] theorem Ctx.wrV_held (c : Ctx) (r : Nat) (v : VWord) : (c.wrV r v).held = c.held := rfl
@[simp] theorem Ctx.wrV_frz (c : Ctx) (r : Nat) (v : VWord) : (c.wrV r v).frz = c.frz := rfl
@[simp] theorem Ctx.wrV_frzAt (c : Ctx) (r : Nat) (v : VWord) : (c.wrV r v).frzAt = c.frzAt := rfl
@[simp] theorem Ctx.wrV_fetched (c : Ctx) (r : Nat) (v : VWord) : (c.wrV r v).fetched = c.fetched := rfl
@[simp] theorem Ctx.wrV_entered (c : Ctx) (r : Nat) (v : VWord) : (c.wrV r v).entered = c.entered := rfl
@[simp] theorem Ctx.wrV_pushing (c : Ctx) (r : Nat) (v : VWord) : (c.wrV r v).pushing = c.pushing := rfl
@[simp] theorem Ctx.wrV_pushGroup (c : Ctx) (r : Nat) (v : VWord) : (c.wrV r v).pushGroup = c.pushGroup := rfl
@[simp] theorem Ctx.wrV_replay (c : Ctx) (r : Nat) (v : VWord) : (c.wrV r v).replay = c.replay := rfl
@[simp] theorem Ctx.wrV_spadUsed (c : Ctx) (r : Nat) (v : VWord) : (c.wrV r v).spadUsed = c.spadUsed := rfl
@[simp] theorem Ctx.wrV_prio (c : Ctx) (r : Nat) (v : VWord) : (c.wrV r v).prio = c.prio := rfl
@[simp] theorem Ctx.wrV_st (c : Ctx) (r : Nat) (v : VWord) : (c.wrV r v).st = c.st := rfl
@[simp] theorem Ctx.wrV_berr (c : Ctx) (r : Nat) (v : VWord) : (c.wrV r v).berr = c.berr := rfl
@[simp] theorem Ctx.wrV_forced (c : Ctx) (r : Nat) (v : VWord) : (c.wrV r v).forced = c.forced := rfl
@[simp] theorem Ctx.wrV_popBase (c : Ctx) (r : Nat) (v : VWord) : (c.wrV r v).popBase = c.popBase := rfl
@[simp] theorem Ctx.wrV_marker (c : Ctx) (r : Nat) (v : VWord) : (c.wrV r v).marker = c.marker := rfl
@[simp] theorem Ctx.wrM_g (c : Ctx) (r : Nat) (v : MWord) : (c.wrM r v).g = c.g := by
  unfold Ctx.wrM; split <;> rfl
@[simp] theorem Ctx.wrM_v (c : Ctx) (r : Nat) (v : MWord) : (c.wrM r v).v = c.v := by
  unfold Ctx.wrM; split <;> rfl
@[simp] theorem Ctx.wrM_e (c : Ctx) (r : Nat) (v : MWord) : (c.wrM r v).e = c.e := by
  unfold Ctx.wrM; split <;> rfl
@[simp] theorem Ctx.wrM_epi (c : Ctx) (r : Nat) (v : MWord) : (c.wrM r v).epi = c.epi := by
  unfold Ctx.wrM; split <;> rfl
@[simp] theorem Ctx.wrM_pc (c : Ctx) (r : Nat) (v : MWord) : (c.wrM r v).pc = c.pc := by
  unfold Ctx.wrM; split <;> rfl
@[simp] theorem Ctx.wrM_fpst (c : Ctx) (r : Nat) (v : MWord) : (c.wrM r v).fpst = c.fpst := by
  unfold Ctx.wrM; split <;> rfl
@[simp] theorem Ctx.wrM_level (c : Ctx) (r : Nat) (v : MWord) : (c.wrM r v).level = c.level := by
  unfold Ctx.wrM; split <;> rfl
@[simp] theorem Ctx.wrM_loops (c : Ctx) (r : Nat) (v : MWord) : (c.wrM r v).loops = c.loops := by
  unfold Ctx.wrM; split <;> rfl
@[simp] theorem Ctx.wrM_sloops (c : Ctx) (r : Nat) (v : MWord) : (c.wrM r v).sloops = c.sloops := by
  unfold Ctx.wrM; split <;> rfl
@[simp] theorem Ctx.wrM_xtab (c : Ctx) (r : Nat) (v : MWord) : (c.wrM r v).xtab = c.xtab := by
  unfold Ctx.wrM; split <;> rfl
@[simp] theorem Ctx.wrM_side (c : Ctx) (r : Nat) (v : MWord) : (c.wrM r v).side = c.side := by
  unfold Ctx.wrM; split <;> rfl
@[simp] theorem Ctx.wrM_watch (c : Ctx) (r : Nat) (v : MWord) : (c.wrM r v).watch = c.watch := by
  unfold Ctx.wrM; split <;> rfl
@[simp] theorem Ctx.wrM_guard (c : Ctx) (r : Nat) (v : MWord) : (c.wrM r v).guard = c.guard := by
  unfold Ctx.wrM; split <;> rfl
@[simp] theorem Ctx.wrM_epoch (c : Ctx) (r : Nat) (v : MWord) : (c.wrM r v).epoch = c.epoch := by
  unfold Ctx.wrM; split <;> rfl
@[simp] theorem Ctx.wrM_tframe (c : Ctx) (r : Nat) (v : MWord) : (c.wrM r v).tframe = c.tframe := by
  unfold Ctx.wrM; split <;> rfl
@[simp] theorem Ctx.wrM_preq (c : Ctx) (r : Nat) (v : MWord) : (c.wrM r v).preq = c.preq := by
  unfold Ctx.wrM; split <;> rfl
@[simp] theorem Ctx.wrM_pdl (c : Ctx) (r : Nat) (v : MWord) : (c.wrM r v).pdl = c.pdl := by
  unfold Ctx.wrM; split <;> rfl
@[simp] theorem Ctx.wrM_pdlLeft (c : Ctx) (r : Nat) (v : MWord) : (c.wrM r v).pdlLeft = c.pdlLeft := by
  unfold Ctx.wrM; split <;> rfl
@[simp] theorem Ctx.wrM_uid (c : Ctx) (r : Nat) (v : MWord) : (c.wrM r v).uid = c.uid := by
  unfold Ctx.wrM; split <;> rfl
@[simp] theorem Ctx.wrM_held (c : Ctx) (r : Nat) (v : MWord) : (c.wrM r v).held = c.held := by
  unfold Ctx.wrM; split <;> rfl
@[simp] theorem Ctx.wrM_frz (c : Ctx) (r : Nat) (v : MWord) : (c.wrM r v).frz = c.frz := by
  unfold Ctx.wrM; split <;> rfl
@[simp] theorem Ctx.wrM_frzAt (c : Ctx) (r : Nat) (v : MWord) : (c.wrM r v).frzAt = c.frzAt := by
  unfold Ctx.wrM; split <;> rfl
@[simp] theorem Ctx.wrM_fetched (c : Ctx) (r : Nat) (v : MWord) : (c.wrM r v).fetched = c.fetched := by
  unfold Ctx.wrM; split <;> rfl
@[simp] theorem Ctx.wrM_entered (c : Ctx) (r : Nat) (v : MWord) : (c.wrM r v).entered = c.entered := by
  unfold Ctx.wrM; split <;> rfl
@[simp] theorem Ctx.wrM_pushing (c : Ctx) (r : Nat) (v : MWord) : (c.wrM r v).pushing = c.pushing := by
  unfold Ctx.wrM; split <;> rfl
@[simp] theorem Ctx.wrM_pushGroup (c : Ctx) (r : Nat) (v : MWord) : (c.wrM r v).pushGroup = c.pushGroup := by
  unfold Ctx.wrM; split <;> rfl
@[simp] theorem Ctx.wrM_replay (c : Ctx) (r : Nat) (v : MWord) : (c.wrM r v).replay = c.replay := by
  unfold Ctx.wrM; split <;> rfl
@[simp] theorem Ctx.wrM_spadUsed (c : Ctx) (r : Nat) (v : MWord) : (c.wrM r v).spadUsed = c.spadUsed := by
  unfold Ctx.wrM; split <;> rfl
@[simp] theorem Ctx.wrM_prio (c : Ctx) (r : Nat) (v : MWord) : (c.wrM r v).prio = c.prio := by
  unfold Ctx.wrM; split <;> rfl
@[simp] theorem Ctx.wrM_st (c : Ctx) (r : Nat) (v : MWord) : (c.wrM r v).st = c.st := by
  unfold Ctx.wrM; split <;> rfl
@[simp] theorem Ctx.wrM_berr (c : Ctx) (r : Nat) (v : MWord) : (c.wrM r v).berr = c.berr := by
  unfold Ctx.wrM; split <;> rfl
@[simp] theorem Ctx.wrM_forced (c : Ctx) (r : Nat) (v : MWord) : (c.wrM r v).forced = c.forced := by
  unfold Ctx.wrM; split <;> rfl
@[simp] theorem Ctx.wrM_popBase (c : Ctx) (r : Nat) (v : MWord) : (c.wrM r v).popBase = c.popBase := by
  unfold Ctx.wrM; split <;> rfl
@[simp] theorem Ctx.wrM_marker (c : Ctx) (r : Nat) (v : MWord) : (c.wrM r v).marker = c.marker := by
  unfold Ctx.wrM; split <;> rfl
@[simp] theorem Ctx.wrE_g (c : Ctx) (r : Nat) (v : Eddy) : (c.wrE r v).g = c.g := rfl
@[simp] theorem Ctx.wrE_v (c : Ctx) (r : Nat) (v : Eddy) : (c.wrE r v).v = c.v := rfl
@[simp] theorem Ctx.wrE_m (c : Ctx) (r : Nat) (v : Eddy) : (c.wrE r v).m = c.m := rfl
@[simp] theorem Ctx.wrE_epi (c : Ctx) (r : Nat) (v : Eddy) : (c.wrE r v).epi = c.epi := rfl
@[simp] theorem Ctx.wrE_pc (c : Ctx) (r : Nat) (v : Eddy) : (c.wrE r v).pc = c.pc := rfl
@[simp] theorem Ctx.wrE_fpst (c : Ctx) (r : Nat) (v : Eddy) : (c.wrE r v).fpst = c.fpst := rfl
@[simp] theorem Ctx.wrE_level (c : Ctx) (r : Nat) (v : Eddy) : (c.wrE r v).level = c.level := rfl
@[simp] theorem Ctx.wrE_loops (c : Ctx) (r : Nat) (v : Eddy) : (c.wrE r v).loops = c.loops := rfl
@[simp] theorem Ctx.wrE_sloops (c : Ctx) (r : Nat) (v : Eddy) : (c.wrE r v).sloops = c.sloops := rfl
@[simp] theorem Ctx.wrE_xtab (c : Ctx) (r : Nat) (v : Eddy) : (c.wrE r v).xtab = c.xtab := rfl
@[simp] theorem Ctx.wrE_side (c : Ctx) (r : Nat) (v : Eddy) : (c.wrE r v).side = c.side := rfl
@[simp] theorem Ctx.wrE_watch (c : Ctx) (r : Nat) (v : Eddy) : (c.wrE r v).watch = c.watch := rfl
@[simp] theorem Ctx.wrE_guard (c : Ctx) (r : Nat) (v : Eddy) : (c.wrE r v).guard = c.guard := rfl
@[simp] theorem Ctx.wrE_epoch (c : Ctx) (r : Nat) (v : Eddy) : (c.wrE r v).epoch = c.epoch := rfl
@[simp] theorem Ctx.wrE_tframe (c : Ctx) (r : Nat) (v : Eddy) : (c.wrE r v).tframe = c.tframe := rfl
@[simp] theorem Ctx.wrE_preq (c : Ctx) (r : Nat) (v : Eddy) : (c.wrE r v).preq = c.preq := rfl
@[simp] theorem Ctx.wrE_pdl (c : Ctx) (r : Nat) (v : Eddy) : (c.wrE r v).pdl = c.pdl := rfl
@[simp] theorem Ctx.wrE_pdlLeft (c : Ctx) (r : Nat) (v : Eddy) : (c.wrE r v).pdlLeft = c.pdlLeft := rfl
@[simp] theorem Ctx.wrE_uid (c : Ctx) (r : Nat) (v : Eddy) : (c.wrE r v).uid = c.uid := rfl
@[simp] theorem Ctx.wrE_held (c : Ctx) (r : Nat) (v : Eddy) : (c.wrE r v).held = c.held := rfl
@[simp] theorem Ctx.wrE_frz (c : Ctx) (r : Nat) (v : Eddy) : (c.wrE r v).frz = c.frz := rfl
@[simp] theorem Ctx.wrE_frzAt (c : Ctx) (r : Nat) (v : Eddy) : (c.wrE r v).frzAt = c.frzAt := rfl
@[simp] theorem Ctx.wrE_fetched (c : Ctx) (r : Nat) (v : Eddy) : (c.wrE r v).fetched = c.fetched := rfl
@[simp] theorem Ctx.wrE_entered (c : Ctx) (r : Nat) (v : Eddy) : (c.wrE r v).entered = c.entered := rfl
@[simp] theorem Ctx.wrE_pushing (c : Ctx) (r : Nat) (v : Eddy) : (c.wrE r v).pushing = c.pushing := rfl
@[simp] theorem Ctx.wrE_pushGroup (c : Ctx) (r : Nat) (v : Eddy) : (c.wrE r v).pushGroup = c.pushGroup := rfl
@[simp] theorem Ctx.wrE_replay (c : Ctx) (r : Nat) (v : Eddy) : (c.wrE r v).replay = c.replay := rfl
@[simp] theorem Ctx.wrE_spadUsed (c : Ctx) (r : Nat) (v : Eddy) : (c.wrE r v).spadUsed = c.spadUsed := rfl
@[simp] theorem Ctx.wrE_prio (c : Ctx) (r : Nat) (v : Eddy) : (c.wrE r v).prio = c.prio := rfl
@[simp] theorem Ctx.wrE_st (c : Ctx) (r : Nat) (v : Eddy) : (c.wrE r v).st = c.st := rfl
@[simp] theorem Ctx.wrE_berr (c : Ctx) (r : Nat) (v : Eddy) : (c.wrE r v).berr = c.berr := rfl
@[simp] theorem Ctx.wrE_forced (c : Ctx) (r : Nat) (v : Eddy) : (c.wrE r v).forced = c.forced := rfl
@[simp] theorem Ctx.wrE_popBase (c : Ctx) (r : Nat) (v : Eddy) : (c.wrE r v).popBase = c.popBase := rfl
@[simp] theorem Ctx.wrE_marker (c : Ctx) (r : Nat) (v : Eddy) : (c.wrE r v).marker = c.marker := rfl
@[simp] theorem Ctx.orFlags_g (c : Ctx) (f : Nat) : (c.orFlags f).g = c.g := rfl
@[simp] theorem Ctx.orFlags_v (c : Ctx) (f : Nat) : (c.orFlags f).v = c.v := rfl
@[simp] theorem Ctx.orFlags_m (c : Ctx) (f : Nat) : (c.orFlags f).m = c.m := rfl
@[simp] theorem Ctx.orFlags_e (c : Ctx) (f : Nat) : (c.orFlags f).e = c.e := rfl
@[simp] theorem Ctx.orFlags_epi (c : Ctx) (f : Nat) : (c.orFlags f).epi = c.epi := rfl
@[simp] theorem Ctx.orFlags_pc (c : Ctx) (f : Nat) : (c.orFlags f).pc = c.pc := rfl
@[simp] theorem Ctx.orFlags_level (c : Ctx) (f : Nat) : (c.orFlags f).level = c.level := rfl
@[simp] theorem Ctx.orFlags_loops (c : Ctx) (f : Nat) : (c.orFlags f).loops = c.loops := rfl
@[simp] theorem Ctx.orFlags_sloops (c : Ctx) (f : Nat) : (c.orFlags f).sloops = c.sloops := rfl
@[simp] theorem Ctx.orFlags_xtab (c : Ctx) (f : Nat) : (c.orFlags f).xtab = c.xtab := rfl
@[simp] theorem Ctx.orFlags_side (c : Ctx) (f : Nat) : (c.orFlags f).side = c.side := rfl
@[simp] theorem Ctx.orFlags_watch (c : Ctx) (f : Nat) : (c.orFlags f).watch = c.watch := rfl
@[simp] theorem Ctx.orFlags_guard (c : Ctx) (f : Nat) : (c.orFlags f).guard = c.guard := rfl
@[simp] theorem Ctx.orFlags_epoch (c : Ctx) (f : Nat) : (c.orFlags f).epoch = c.epoch := rfl
@[simp] theorem Ctx.orFlags_tframe (c : Ctx) (f : Nat) : (c.orFlags f).tframe = c.tframe := rfl
@[simp] theorem Ctx.orFlags_preq (c : Ctx) (f : Nat) : (c.orFlags f).preq = c.preq := rfl
@[simp] theorem Ctx.orFlags_pdl (c : Ctx) (f : Nat) : (c.orFlags f).pdl = c.pdl := rfl
@[simp] theorem Ctx.orFlags_pdlLeft (c : Ctx) (f : Nat) : (c.orFlags f).pdlLeft = c.pdlLeft := rfl
@[simp] theorem Ctx.orFlags_uid (c : Ctx) (f : Nat) : (c.orFlags f).uid = c.uid := rfl
@[simp] theorem Ctx.orFlags_held (c : Ctx) (f : Nat) : (c.orFlags f).held = c.held := rfl
@[simp] theorem Ctx.orFlags_frz (c : Ctx) (f : Nat) : (c.orFlags f).frz = c.frz := rfl
@[simp] theorem Ctx.orFlags_frzAt (c : Ctx) (f : Nat) : (c.orFlags f).frzAt = c.frzAt := rfl
@[simp] theorem Ctx.orFlags_fetched (c : Ctx) (f : Nat) : (c.orFlags f).fetched = c.fetched := rfl
@[simp] theorem Ctx.orFlags_entered (c : Ctx) (f : Nat) : (c.orFlags f).entered = c.entered := rfl
@[simp] theorem Ctx.orFlags_pushing (c : Ctx) (f : Nat) : (c.orFlags f).pushing = c.pushing := rfl
@[simp] theorem Ctx.orFlags_pushGroup (c : Ctx) (f : Nat) : (c.orFlags f).pushGroup = c.pushGroup := rfl
@[simp] theorem Ctx.orFlags_replay (c : Ctx) (f : Nat) : (c.orFlags f).replay = c.replay := rfl
@[simp] theorem Ctx.orFlags_spadUsed (c : Ctx) (f : Nat) : (c.orFlags f).spadUsed = c.spadUsed := rfl
@[simp] theorem Ctx.orFlags_prio (c : Ctx) (f : Nat) : (c.orFlags f).prio = c.prio := rfl
@[simp] theorem Ctx.orFlags_st (c : Ctx) (f : Nat) : (c.orFlags f).st = c.st := rfl
@[simp] theorem Ctx.orFlags_berr (c : Ctx) (f : Nat) : (c.orFlags f).berr = c.berr := rfl
@[simp] theorem Ctx.orFlags_forced (c : Ctx) (f : Nat) : (c.orFlags f).forced = c.forced := rfl
@[simp] theorem Ctx.orFlags_popBase (c : Ctx) (f : Nat) : (c.orFlags f).popBase = c.popBase := rfl
@[simp] theorem Ctx.orFlags_marker (c : Ctx) (f : Nat) : (c.orFlags f).marker = c.marker := rfl
@[simp] theorem Ctx.at_g (c : Ctx) (pc : Word) : (c.at pc).g = c.g := rfl
@[simp] theorem Ctx.at_v (c : Ctx) (pc : Word) : (c.at pc).v = c.v := rfl
@[simp] theorem Ctx.at_m (c : Ctx) (pc : Word) : (c.at pc).m = c.m := rfl
@[simp] theorem Ctx.at_e (c : Ctx) (pc : Word) : (c.at pc).e = c.e := rfl
@[simp] theorem Ctx.at_epi (c : Ctx) (pc : Word) : (c.at pc).epi = c.epi := rfl
@[simp] theorem Ctx.at_fpst (c : Ctx) (pc : Word) : (c.at pc).fpst = c.fpst := rfl
@[simp] theorem Ctx.at_level (c : Ctx) (pc : Word) : (c.at pc).level = c.level := rfl
@[simp] theorem Ctx.at_loops (c : Ctx) (pc : Word) : (c.at pc).loops = c.loops := rfl
@[simp] theorem Ctx.at_sloops (c : Ctx) (pc : Word) : (c.at pc).sloops = c.sloops := rfl
@[simp] theorem Ctx.at_xtab (c : Ctx) (pc : Word) : (c.at pc).xtab = c.xtab := rfl
@[simp] theorem Ctx.at_side (c : Ctx) (pc : Word) : (c.at pc).side = c.side := rfl
@[simp] theorem Ctx.at_watch (c : Ctx) (pc : Word) : (c.at pc).watch = c.watch := rfl
@[simp] theorem Ctx.at_guard (c : Ctx) (pc : Word) : (c.at pc).guard = c.guard := rfl
@[simp] theorem Ctx.at_epoch (c : Ctx) (pc : Word) : (c.at pc).epoch = c.epoch := rfl
@[simp] theorem Ctx.at_tframe (c : Ctx) (pc : Word) : (c.at pc).tframe = c.tframe := rfl
@[simp] theorem Ctx.at_preq (c : Ctx) (pc : Word) : (c.at pc).preq = c.preq := rfl
@[simp] theorem Ctx.at_pdl (c : Ctx) (pc : Word) : (c.at pc).pdl = c.pdl := rfl
@[simp] theorem Ctx.at_pdlLeft (c : Ctx) (pc : Word) : (c.at pc).pdlLeft = c.pdlLeft := rfl
@[simp] theorem Ctx.at_uid (c : Ctx) (pc : Word) : (c.at pc).uid = c.uid := rfl
@[simp] theorem Ctx.at_pushGroup (c : Ctx) (pc : Word) : (c.at pc).pushGroup = c.pushGroup := rfl
@[simp] theorem Ctx.at_replay (c : Ctx) (pc : Word) : (c.at pc).replay = c.replay := rfl
@[simp] theorem Ctx.at_spadUsed (c : Ctx) (pc : Word) : (c.at pc).spadUsed = c.spadUsed := rfl
@[simp] theorem Ctx.at_prio (c : Ctx) (pc : Word) : (c.at pc).prio = c.prio := rfl
@[simp] theorem Ctx.at_st (c : Ctx) (pc : Word) : (c.at pc).st = c.st := rfl
@[simp] theorem Ctx.at_berr (c : Ctx) (pc : Word) : (c.at pc).berr = c.berr := rfl
@[simp] theorem Ctx.at_forced (c : Ctx) (pc : Word) : (c.at pc).forced = c.forced := rfl
@[simp] theorem Ctx.at_popBase (c : Ctx) (pc : Word) : (c.at pc).popBase = c.popBase := rfl
@[simp] theorem Ctx.at_marker (c : Ctx) (pc : Word) : (c.at pc).marker = c.marker := rfl
@[simp] theorem Ctx.setEntries_g (c : Ctx) (l : List LoopEntry) : (c.setEntries l).g = c.g := by
  unfold Ctx.setEntries; split <;> rfl
@[simp] theorem Ctx.setEntries_v (c : Ctx) (l : List LoopEntry) : (c.setEntries l).v = c.v := by
  unfold Ctx.setEntries; split <;> rfl
@[simp] theorem Ctx.setEntries_m (c : Ctx) (l : List LoopEntry) : (c.setEntries l).m = c.m := by
  unfold Ctx.setEntries; split <;> rfl
@[simp] theorem Ctx.setEntries_e (c : Ctx) (l : List LoopEntry) : (c.setEntries l).e = c.e := by
  unfold Ctx.setEntries; split <;> rfl
@[simp] theorem Ctx.setEntries_epi (c : Ctx) (l : List LoopEntry) : (c.setEntries l).epi = c.epi := by
  unfold Ctx.setEntries; split <;> rfl
@[simp] theorem Ctx.setEntries_pc (c : Ctx) (l : List LoopEntry) : (c.setEntries l).pc = c.pc := by
  unfold Ctx.setEntries; split <;> rfl
@[simp] theorem Ctx.setEntries_fpst (c : Ctx) (l : List LoopEntry) : (c.setEntries l).fpst = c.fpst := by
  unfold Ctx.setEntries; split <;> rfl
@[simp] theorem Ctx.setEntries_level (c : Ctx) (l : List LoopEntry) : (c.setEntries l).level = c.level := by
  unfold Ctx.setEntries; split <;> rfl
@[simp] theorem Ctx.setEntries_xtab (c : Ctx) (l : List LoopEntry) : (c.setEntries l).xtab = c.xtab := by
  unfold Ctx.setEntries; split <;> rfl
@[simp] theorem Ctx.setEntries_side (c : Ctx) (l : List LoopEntry) : (c.setEntries l).side = c.side := by
  unfold Ctx.setEntries; split <;> rfl
@[simp] theorem Ctx.setEntries_watch (c : Ctx) (l : List LoopEntry) : (c.setEntries l).watch = c.watch := by
  unfold Ctx.setEntries; split <;> rfl
@[simp] theorem Ctx.setEntries_guard (c : Ctx) (l : List LoopEntry) : (c.setEntries l).guard = c.guard := by
  unfold Ctx.setEntries; split <;> rfl
@[simp] theorem Ctx.setEntries_epoch (c : Ctx) (l : List LoopEntry) : (c.setEntries l).epoch = c.epoch := by
  unfold Ctx.setEntries; split <;> rfl
@[simp] theorem Ctx.setEntries_tframe (c : Ctx) (l : List LoopEntry) : (c.setEntries l).tframe = c.tframe := by
  unfold Ctx.setEntries; split <;> rfl
@[simp] theorem Ctx.setEntries_preq (c : Ctx) (l : List LoopEntry) : (c.setEntries l).preq = c.preq := by
  unfold Ctx.setEntries; split <;> rfl
@[simp] theorem Ctx.setEntries_pdl (c : Ctx) (l : List LoopEntry) : (c.setEntries l).pdl = c.pdl := by
  unfold Ctx.setEntries; split <;> rfl
@[simp] theorem Ctx.setEntries_pdlLeft (c : Ctx) (l : List LoopEntry) : (c.setEntries l).pdlLeft = c.pdlLeft := by
  unfold Ctx.setEntries; split <;> rfl
@[simp] theorem Ctx.setEntries_uid (c : Ctx) (l : List LoopEntry) : (c.setEntries l).uid = c.uid := by
  unfold Ctx.setEntries; split <;> rfl
@[simp] theorem Ctx.setEntries_held (c : Ctx) (l : List LoopEntry) : (c.setEntries l).held = c.held := by
  unfold Ctx.setEntries; split <;> rfl
@[simp] theorem Ctx.setEntries_frz (c : Ctx) (l : List LoopEntry) : (c.setEntries l).frz = c.frz := by
  unfold Ctx.setEntries; split <;> rfl
@[simp] theorem Ctx.setEntries_frzAt (c : Ctx) (l : List LoopEntry) : (c.setEntries l).frzAt = c.frzAt := by
  unfold Ctx.setEntries; split <;> rfl
@[simp] theorem Ctx.setEntries_fetched (c : Ctx) (l : List LoopEntry) : (c.setEntries l).fetched = c.fetched := by
  unfold Ctx.setEntries; split <;> rfl
@[simp] theorem Ctx.setEntries_entered (c : Ctx) (l : List LoopEntry) : (c.setEntries l).entered = c.entered := by
  unfold Ctx.setEntries; split <;> rfl
@[simp] theorem Ctx.setEntries_pushing (c : Ctx) (l : List LoopEntry) : (c.setEntries l).pushing = c.pushing := by
  unfold Ctx.setEntries; split <;> rfl
@[simp] theorem Ctx.setEntries_pushGroup (c : Ctx) (l : List LoopEntry) : (c.setEntries l).pushGroup = c.pushGroup := by
  unfold Ctx.setEntries; split <;> rfl
@[simp] theorem Ctx.setEntries_replay (c : Ctx) (l : List LoopEntry) : (c.setEntries l).replay = c.replay := by
  unfold Ctx.setEntries; split <;> rfl
@[simp] theorem Ctx.setEntries_spadUsed (c : Ctx) (l : List LoopEntry) : (c.setEntries l).spadUsed = c.spadUsed := by
  unfold Ctx.setEntries; split <;> rfl
@[simp] theorem Ctx.setEntries_prio (c : Ctx) (l : List LoopEntry) : (c.setEntries l).prio = c.prio := by
  unfold Ctx.setEntries; split <;> rfl
@[simp] theorem Ctx.setEntries_st (c : Ctx) (l : List LoopEntry) : (c.setEntries l).st = c.st := by
  unfold Ctx.setEntries; split <;> rfl
@[simp] theorem Ctx.setEntries_berr (c : Ctx) (l : List LoopEntry) : (c.setEntries l).berr = c.berr := by
  unfold Ctx.setEntries; split <;> rfl
@[simp] theorem Ctx.setEntries_forced (c : Ctx) (l : List LoopEntry) : (c.setEntries l).forced = c.forced := by
  unfold Ctx.setEntries; split <;> rfl
@[simp] theorem Ctx.setEntries_popBase (c : Ctx) (l : List LoopEntry) : (c.setEntries l).popBase = c.popBase := by
  unfold Ctx.setEntries; split <;> rfl
@[simp] theorem Ctx.setEntries_marker (c : Ctx) (l : List LoopEntry) : (c.setEntries l).marker = c.marker := by
  unfold Ctx.setEntries; split <;> rfl

@[simp] theorem Ctx.at_pc (c : Ctx) (pc : Word) : (c.at pc).pc = pc := rfl

/-- A context differs from another at most in where it stands: PC, loop entries and what a waiting instruction keeps. -/
structure Ctx.SameRegs (c c' : Ctx) : Prop where
  hg : c'.g = c.g
  hv : c'.v = c.v
  hm : c'.m = c.m
  he : c'.e = c.e
  hepi : c'.epi = c.epi
  hfpst : c'.fpst = c.fpst
  hlevel : c'.level = c.level
  hxtab : c'.xtab = c.xtab
  hside : c'.side = c.side
  hwatch : c'.watch = c.watch
  hguard : c'.guard = c.guard
  hepoch : c'.epoch = c.epoch
  htframe : c'.tframe = c.tframe
  hpreq : c'.preq = c.preq
  hpdl : c'.pdl = c.pdl
  hpdlLeft : c'.pdlLeft = c.pdlLeft
  huid : c'.uid = c.uid
  hpushGroup : c'.pushGroup = c.pushGroup
  hreplay : c'.replay = c.replay
  hspadUsed : c'.spadUsed = c.spadUsed
  hprio : c'.prio = c.prio
  hst : c'.st = c.st
  hberr : c'.berr = c.berr
  hforced : c'.forced = c.forced
  hpopBase : c'.popBase = c.popBase
  hmarker : c'.marker = c.marker

theorem Ctx.SameRegs.refl (c : Ctx) : c.SameRegs c := by constructor <;> rfl

theorem Ctx.sameRegs_at (c : Ctx) (pc : Word) : c.SameRegs (c.at pc) := by constructor <;> rfl

theorem Ctx.sameRegs_setEntries (c : Ctx) (l : List LoopEntry) (pc : Word) : c.SameRegs ((c.setEntries l).at pc) := by
  constructor <;> simp

/-- Retirement changes only where the context stands (R99, R113). -/
theorem Ctx.sameRegs_fall (c : Ctx) (size : Nat) : c.SameRegs (c.fall size) := by
  unfold Ctx.fall
  split
  · split
    · split
      · exact c.sameRegs_setEntries _ _
      · exact c.sameRegs_setEntries _ _
    · exact c.sameRegs_at _
  · exact c.sameRegs_at _

/-- So does a taken branch or a jump (R114). -/
theorem Ctx.sameRegs_goto (c : Ctx) (t : Word) : c.SameRegs (c.goto t) := c.sameRegs_setEntries _ _

@[simp] theorem Ctx.fall_g (c : Ctx) (n : Nat) : (c.fall n).g = c.g := (c.sameRegs_fall n).hg
@[simp] theorem Ctx.goto_g (c : Ctx) (t : Word) : (c.goto t).g = c.g := (c.sameRegs_goto t).hg
@[simp] theorem Ctx.fall_v (c : Ctx) (n : Nat) : (c.fall n).v = c.v := (c.sameRegs_fall n).hv
@[simp] theorem Ctx.goto_v (c : Ctx) (t : Word) : (c.goto t).v = c.v := (c.sameRegs_goto t).hv
@[simp] theorem Ctx.fall_m (c : Ctx) (n : Nat) : (c.fall n).m = c.m := (c.sameRegs_fall n).hm
@[simp] theorem Ctx.goto_m (c : Ctx) (t : Word) : (c.goto t).m = c.m := (c.sameRegs_goto t).hm
@[simp] theorem Ctx.fall_e (c : Ctx) (n : Nat) : (c.fall n).e = c.e := (c.sameRegs_fall n).he
@[simp] theorem Ctx.goto_e (c : Ctx) (t : Word) : (c.goto t).e = c.e := (c.sameRegs_goto t).he
@[simp] theorem Ctx.fall_epi (c : Ctx) (n : Nat) : (c.fall n).epi = c.epi := (c.sameRegs_fall n).hepi
@[simp] theorem Ctx.goto_epi (c : Ctx) (t : Word) : (c.goto t).epi = c.epi := (c.sameRegs_goto t).hepi
@[simp] theorem Ctx.fall_fpst (c : Ctx) (n : Nat) : (c.fall n).fpst = c.fpst := (c.sameRegs_fall n).hfpst
@[simp] theorem Ctx.goto_fpst (c : Ctx) (t : Word) : (c.goto t).fpst = c.fpst := (c.sameRegs_goto t).hfpst
@[simp] theorem Ctx.fall_level (c : Ctx) (n : Nat) : (c.fall n).level = c.level := (c.sameRegs_fall n).hlevel
@[simp] theorem Ctx.goto_level (c : Ctx) (t : Word) : (c.goto t).level = c.level := (c.sameRegs_goto t).hlevel
@[simp] theorem Ctx.fall_xtab (c : Ctx) (n : Nat) : (c.fall n).xtab = c.xtab := (c.sameRegs_fall n).hxtab
@[simp] theorem Ctx.goto_xtab (c : Ctx) (t : Word) : (c.goto t).xtab = c.xtab := (c.sameRegs_goto t).hxtab
@[simp] theorem Ctx.fall_side (c : Ctx) (n : Nat) : (c.fall n).side = c.side := (c.sameRegs_fall n).hside
@[simp] theorem Ctx.goto_side (c : Ctx) (t : Word) : (c.goto t).side = c.side := (c.sameRegs_goto t).hside
@[simp] theorem Ctx.fall_watch (c : Ctx) (n : Nat) : (c.fall n).watch = c.watch := (c.sameRegs_fall n).hwatch
@[simp] theorem Ctx.goto_watch (c : Ctx) (t : Word) : (c.goto t).watch = c.watch := (c.sameRegs_goto t).hwatch
@[simp] theorem Ctx.fall_guard (c : Ctx) (n : Nat) : (c.fall n).guard = c.guard := (c.sameRegs_fall n).hguard
@[simp] theorem Ctx.goto_guard (c : Ctx) (t : Word) : (c.goto t).guard = c.guard := (c.sameRegs_goto t).hguard
@[simp] theorem Ctx.fall_epoch (c : Ctx) (n : Nat) : (c.fall n).epoch = c.epoch := (c.sameRegs_fall n).hepoch
@[simp] theorem Ctx.goto_epoch (c : Ctx) (t : Word) : (c.goto t).epoch = c.epoch := (c.sameRegs_goto t).hepoch
@[simp] theorem Ctx.fall_tframe (c : Ctx) (n : Nat) : (c.fall n).tframe = c.tframe := (c.sameRegs_fall n).htframe
@[simp] theorem Ctx.goto_tframe (c : Ctx) (t : Word) : (c.goto t).tframe = c.tframe := (c.sameRegs_goto t).htframe
@[simp] theorem Ctx.fall_preq (c : Ctx) (n : Nat) : (c.fall n).preq = c.preq := (c.sameRegs_fall n).hpreq
@[simp] theorem Ctx.goto_preq (c : Ctx) (t : Word) : (c.goto t).preq = c.preq := (c.sameRegs_goto t).hpreq
@[simp] theorem Ctx.fall_pdl (c : Ctx) (n : Nat) : (c.fall n).pdl = c.pdl := (c.sameRegs_fall n).hpdl
@[simp] theorem Ctx.goto_pdl (c : Ctx) (t : Word) : (c.goto t).pdl = c.pdl := (c.sameRegs_goto t).hpdl
@[simp] theorem Ctx.fall_pdlLeft (c : Ctx) (n : Nat) : (c.fall n).pdlLeft = c.pdlLeft := (c.sameRegs_fall n).hpdlLeft
@[simp] theorem Ctx.goto_pdlLeft (c : Ctx) (t : Word) : (c.goto t).pdlLeft = c.pdlLeft := (c.sameRegs_goto t).hpdlLeft
@[simp] theorem Ctx.fall_uid (c : Ctx) (n : Nat) : (c.fall n).uid = c.uid := (c.sameRegs_fall n).huid
@[simp] theorem Ctx.goto_uid (c : Ctx) (t : Word) : (c.goto t).uid = c.uid := (c.sameRegs_goto t).huid
@[simp] theorem Ctx.fall_pushGroup (c : Ctx) (n : Nat) : (c.fall n).pushGroup = c.pushGroup := (c.sameRegs_fall n).hpushGroup
@[simp] theorem Ctx.goto_pushGroup (c : Ctx) (t : Word) : (c.goto t).pushGroup = c.pushGroup := (c.sameRegs_goto t).hpushGroup
@[simp] theorem Ctx.fall_replay (c : Ctx) (n : Nat) : (c.fall n).replay = c.replay := (c.sameRegs_fall n).hreplay
@[simp] theorem Ctx.goto_replay (c : Ctx) (t : Word) : (c.goto t).replay = c.replay := (c.sameRegs_goto t).hreplay
@[simp] theorem Ctx.fall_spadUsed (c : Ctx) (n : Nat) : (c.fall n).spadUsed = c.spadUsed := (c.sameRegs_fall n).hspadUsed
@[simp] theorem Ctx.goto_spadUsed (c : Ctx) (t : Word) : (c.goto t).spadUsed = c.spadUsed := (c.sameRegs_goto t).hspadUsed
@[simp] theorem Ctx.fall_prio (c : Ctx) (n : Nat) : (c.fall n).prio = c.prio := (c.sameRegs_fall n).hprio
@[simp] theorem Ctx.goto_prio (c : Ctx) (t : Word) : (c.goto t).prio = c.prio := (c.sameRegs_goto t).hprio
@[simp] theorem Ctx.fall_st (c : Ctx) (n : Nat) : (c.fall n).st = c.st := (c.sameRegs_fall n).hst
@[simp] theorem Ctx.goto_st (c : Ctx) (t : Word) : (c.goto t).st = c.st := (c.sameRegs_goto t).hst
@[simp] theorem Ctx.fall_berr (c : Ctx) (n : Nat) : (c.fall n).berr = c.berr := (c.sameRegs_fall n).hberr
@[simp] theorem Ctx.goto_berr (c : Ctx) (t : Word) : (c.goto t).berr = c.berr := (c.sameRegs_goto t).hberr
@[simp] theorem Ctx.fall_forced (c : Ctx) (n : Nat) : (c.fall n).forced = c.forced := (c.sameRegs_fall n).hforced
@[simp] theorem Ctx.goto_forced (c : Ctx) (t : Word) : (c.goto t).forced = c.forced := (c.sameRegs_goto t).hforced
@[simp] theorem Ctx.fall_popBase (c : Ctx) (n : Nat) : (c.fall n).popBase = c.popBase := (c.sameRegs_fall n).hpopBase
@[simp] theorem Ctx.goto_popBase (c : Ctx) (t : Word) : (c.goto t).popBase = c.popBase := (c.sameRegs_goto t).hpopBase
@[simp] theorem Ctx.fall_marker (c : Ctx) (n : Nat) : (c.fall n).marker = c.marker := (c.sameRegs_fall n).hmarker
@[simp] theorem Ctx.goto_marker (c : Ctx) (t : Word) : (c.goto t).marker = c.marker := (c.sameRegs_goto t).hmarker

@[simp] theorem Ctx.fall_rd (c : Ctx) (n r : Nat) : (c.fall n).rd r = c.rd r := by simp [Ctx.rd]
@[simp] theorem Ctx.fall_rdV (c : Ctx) (n r : Nat) : (c.fall n).rdV r = c.rdV r := by simp [Ctx.rdV]
@[simp] theorem Ctx.fall_rdM (c : Ctx) (n r : Nat) : (c.fall n).rdM r = c.rdM r := by simp [Ctx.rdM]
@[simp] theorem Ctx.fall_rdE (c : Ctx) (n r : Nat) : (c.fall n).rdE r = c.rdE r := by simp [Ctx.rdE]
@[simp] theorem Ctx.goto_rd (c : Ctx) (t : Word) (r : Nat) : (c.goto t).rd r = c.rd r := by simp [Ctx.rd]
@[simp] theorem Ctx.goto_pc (c : Ctx) (t : Word) : (c.goto t).pc = t := rfl

/-- Outside a counted loop's last word, retirement moves PC to the next word (R99, R113). -/
theorem Ctx.fall_pc_next (c : Ctx) (n : Nat) (h : c.entries.head? = none) : (c.fall n).pc = c.nextPc n := by
  unfold Ctx.fall
  split
  · next e es he => simp [he] at h
  · rfl

end Sys2Proof.Machine
end

