-- ==== Sys2Proof/Laws/Ops.lean ====
section
/-! SUPPORT. What each shared operation comes to, said once: retirement, waits and traps, an access and its checks, a
unit's load and store, bytes read and written at locations, and the pop of a record. -/

namespace Sys2Proof.Machine

/-! ### Retirement -/

/-- Retirement in sequence, at the end of the innermost counted loop, or back to its start. -/
theorem Ctx.fall_cases (c : Ctx) (n : Nat) :
    c.fall n = c.at (c.nextPc n) ∨
    ∃ e es, c.entries = e :: es ∧ (e.stop = c.pc ∨ (n = 8 ∧ e.stop = c.pc + 4)) ∧
      ((e.count - 1 = 0 ∧ c.fall n = (c.setEntries es).at (e.stop + 4)) ∨
       (e.count - 1 ≠ 0 ∧ c.fall n = (c.setEntries ({ e with count := e.count - 1 } :: es)).at e.start)) := by
  unfold Ctx.fall
  cases h : c.entries with
  | nil => exact .inl rfl
  | cons e es =>
    by_cases h1 : e.stop = c.pc ∨ (n = 8 ∧ e.stop = c.pc + 4)
    · refine .inr ⟨e, es, rfl, h1, ?_⟩
      by_cases h2 : e.count - 1 = 0
      · exact .inl ⟨h2, by simp only [h1, h2, if_true]⟩
      · exact .inr ⟨h2, by simp only [h1, h2, if_true, if_false]⟩
    · exact .inl (by simp only [h1, if_false])

/-- Replacing loop entries leaves the rest of a context. -/
theorem Ctx.setEntries_eq (c : Ctx) (l : List LoopEntry) :
    c.setEntries l = { c with loops := (c.setEntries l).loops, sloops := (c.setEntries l).sloops } := by
  unfold Ctx.setEntries; split <;> rfl

/-- Retirement changes where the context stands, its loop entries, and the marks of an instruction that waits. -/
theorem Ctx.fall_eq (c : Ctx) (n : Nat) :
    c.fall n = { c with
      pc := (c.fall n).pc, loops := (c.fall n).loops, sloops := (c.fall n).sloops, held := false, frz := false, frzAt := 0,
      fetched := none, entered := 0, pushing := [] } := by
  rcases c.fall_cases n with h | ⟨e, es, -, -, ⟨-, h⟩ | ⟨-, h⟩⟩ <;> rw [h]
  · rfl
  · rw [Ctx.setEntries_eq]; rfl
  · rw [Ctx.setEntries_eq]; rfl

/-- So does a jump. -/
theorem Ctx.goto_eq (c : Ctx) (t : Word) :
    c.goto t = { c with
      pc := t, loops := (c.goto t).loops, sloops := (c.goto t).sloops, held := false, frz := false, frzAt := 0,
      fetched := none, entered := 0, pushing := [] } := by
  unfold Ctx.goto
  rw [Ctx.setEntries_eq]; rfl

theorem retire_next {s t : State} {c : Ctx} {i : Ins} (h : s.retire c i = .next t) : t = s.setCur (c.fall i.size) := by
  simpa [State.retire] using h.symm

theorem jump_next {s t : State} {c : Ctx} {a : Word} (h : s.jump c a = .next t) : t = s.setCur (c.goto a) := by
  simpa [State.jump] using h.symm

/-- An instruction that waits leaves its context as it was but for the marks of the wait; one that a freeze holds is noted
with its place among what its core's port holds (R199, R387). -/
theorem wait_next {s t : State} {z : Bool} (h : s.wait z = .next t) :
    ∃ n q, t = { s.setCur { s.cur with held := true, frz := z, frzAt := n } with seq := q } ∧ (z = false → n = 0 ∧ q = s.seq) := by
  unfold State.wait at h
  by_cases hz : (z && s.cur.frzAt = 0) = true
  · have hz' : z = true := by simp_all
    rw [if_pos (by simpa using hz)] at h
    exact ⟨s.seq + 1, s.seq + 1, by rw [hz']; exact (Host.Outcome.next.inj h).symm, by simp [hz']⟩
  · rw [if_neg (by simpa using hz)] at h
    exact ⟨_, s.seq, (Host.Outcome.next.inj h).symm, by intro hf; simp [hf]⟩

/-! ### Traps -/

theorem trap_next {s t : State} {i : Ins} {x : TrapInfo} (h : s.trap i x = .next t) :
    t = s.takeTrap s s.slot x i.words false s.cur.pc s.cur.replay := by
  simpa [State.trap] using h.symm

theorem illegal_eq (s : State) (i : Ins) (x : BitVec 128) :
    s.illegal i x = .next (s.takeTrap s s.slot ⟨1, 0, s.cur.pc, x⟩ i.words false s.cur.pc s.cur.replay) := rfl

theorem denied_eq (s : State) (i : Ins) :
    s.denied i = .next (s.takeTrap s s.slot ⟨2, 0, 0, 0⟩ i.words false s.cur.pc s.cur.replay) := rfl

theorem faulted_eq (s : State) (i : Ins) (f : AccFault) :
    s.faulted i f = .next (s.takeTrap s s.slot f.trap i.words false s.cur.pc s.cur.replay) := rfl

/-- A fault that no handler takes is fatal: above unit level, an uncorrectable error, or no trap handler; that of a service
task leaves its frame in the firmware's data (R281, R370, R375, R376). -/
theorem takeTrap_fatal {back s : State} {slot : Nat} {t : TrapInfo} {w : Nat} {a : Bool} {pc : Word} {rs : List Replay}
    (hk : isTask slot = false)
    (h : (s.ctx slot).level ≠ .unit ∨ t.cause = 8 ∨ xSize (s.trapExtent (s.unitOf slot).job 0) = 0) :
    back.takeTrap s slot t w a pc rs =
      s.fatal slot t.cause t.addr pc (frameStatus t.info t.cause rs.length a (s.ctx slot).level) := by
  unfold State.takeTrap
  simp only [hk, h, if_true, Bool.false_eq_true, if_false]

theorem takeTrap_task {back s : State} {slot : Nat} {t : TrapInfo} {w : Nat} {a : Bool} {pc : Word} {rs : List Replay}
    (hk : isTask slot = true) :
    back.takeTrap s slot t w a pc rs =
      State.fatal { s with fwMem := Memory.writeN s.fwMem Config.taskFrame (frameBytes (s.ctx slot) pc
        (frameStatus t.info t.cause rs.length a (s.ctx slot).level) t.addr w t.extra rs) }
        slot t.cause t.addr pc (frameStatus t.info t.cause rs.length a (s.ctx slot).level) := by
  unfold State.takeTrap
  simp only [hk, if_true]

/-! ### Accesses -/

/-- An access outside second-tier memory builds no run and asks for no page. -/
theorem locate_state {s : State} {p : Party} {k : AccKind} {al : Nat} {a : Word} {n : Nat}
    (h : bitsOf a.toNat 63 60 ≠ 0) : (s.locate p k al a n).1 = s := by
  unfold State.locate
  simp only [h, if_false, apply_ite Prod.fst, ite_self]

/-- An access that may perform has passed checks 1 to 6, then 7, then 8 (R122). -/
theorem access_ok {s t : State} {p : Party} {k : AccKind} {al n : Nat} {a : Word} {ls : List Loc} {ts : List Nat}
    (h : s.access p k al a n = (t, .ok ls ts)) :
    ∃ s1, s.locate p k al a n = (s1, .ok ls ts) ∧ s1.race p k false a ts = .ok t ∧ s1.eccBad k ls = false := by
  unfold State.access at h
  split at h
  · rename_i s1 ls' ts' hl
    split at h
    · simp at h
    · rename_i s2 hr
      split at h
      · simp [Acc.bad] at h
      · rename_i he
        simp only [Prod.mk.injEq, Acc.ok.injEq] at h
        obtain ⟨rfl, rfl, rfl⟩ := h
        exact ⟨s1, hl, hr, by simpa using he⟩
  · rename_i hn
    exact absurd (by rw [h]) (hn t ls ts)

/-- A load that gives bytes has read them where they stand (R125, R126). -/
theorem load_ok {s t : State} {slot n : Nat} {p : Party} {a : Word} {bs : List Byte} (h : s.load slot p a n = .ok t bs) :
    ∃ s1 s2 ls ts, s.locate p .load 1 a n = (s1, .ok ls ts) ∧ s1.logOverlap slot p a n = false ∧
      s1.race p .load false a ts = .ok s2 ∧ s1.eccBad .load ls = false ∧ t = s2.touchReads ls ∧ bs = s2.readLocs ls := by
  unfold State.load at h
  split at h
  · simp at h
  · simp at h
  · simp at h
  · rename_i s1 ls ts hl
    split at h
    · simp at h
    · rename_i ho
      split at h
      · simp at h
      · rename_i s2 hr
        split at h
        · simp at h
        · rename_i he
          simp only [Res.ok.injEq] at h
          exact ⟨s1, s2, ls, ts, hl, by simpa using ho, hr, by simpa using he, h.1.symm, h.2.symm⟩

/-- A store that enters the side log has passed check 7 and stands at the tail of the log (R408). -/
theorem storeLog_ok {s t : State} {slot : Nat} {p : Party} {a : Word} {bs rs : List Byte} {atom : Bool} {ts : List Nat}
    (h : s.storeLog slot p a bs atom ts = .ok t rs) :
    rs = [] ∧ ∃ s2, s.race p .store false a ts = .ok s2 ∧
      t = s2.logPut slot (cutEntries (p.level == .supervisor) atom (bs.length / 256 + 1) a bs) := by
  unfold State.storeLog at h
  dsimp only at h
  split at h
  · simp at h
  · split at h
    · simp at h
    · rename_i s2 hr
      simp only [Res.ok.injEq] at h
      exact ⟨h.2.symm, s2, hr, h.1.symm⟩

/-- A store that goes on has performed at its bytes, or stands at the tail of the side log (R125, R408). -/
theorem store_ok {s t : State} {slot : Nat} {p : Party} {a : Word} {bs rs : List Byte} {atom : Bool}
    (h : s.store slot p a bs atom = .ok t rs) :
    rs = [] ∧ ((∃ s1 s2 ls ts, s.locate p .store 1 a bs.length = (s1, .ok ls ts) ∧ (s1.ctx slot).side = [] ∧
        s1.race p .store false a ts = .ok s2 ∧ s1.eccBad .store ls = false ∧ t = s2.perform ls bs) ∨
      ∃ s1 s2 ts, (s.locate p .store 1 a bs.length).1 = s1 ∧ s1.race p .store false a ts = .ok s2 ∧
        t = s2.logPut slot (cutEntries (p.level == .supervisor) atom (bs.length / 256 + 1) a bs)) := by
  have logged : ∀ {s1 : State} {x : Acc} {ts : List Nat}, s.locate p .store 1 a bs.length = (s1, x) →
      s1.storeLog slot p a bs atom ts = .ok t rs → rs = [] ∧ ∃ s1 s2 ts, (s.locate p .store 1 a bs.length).1 = s1 ∧
        s1.race p .store false a ts = .ok s2 ∧
        t = s2.logPut slot (cutEntries (p.level == .supervisor) atom (bs.length / 256 + 1) a bs) := by
    intro s1 x ts hl h
    obtain ⟨hr, s2, h2, ht⟩ := storeLog_ok h
    exact ⟨hr, s1, s2, ts, by rw [hl], h2, ht⟩
  unfold State.store at h
  split at h
  · simp at h
  · rename_i hl
    split at h
    · simp at h
    · exact (logged hl h).imp id .inr
  · rename_i hl
    exact (logged hl h).imp id .inr
  · rename_i s1 ls ts hl
    split at h
    · rename_i hs
      split at h
      · simp at h
      · rename_i s2 hr
        split at h
        · simp at h
        · rename_i he
          simp only [Res.ok.injEq] at h
          exact ⟨h.2.symm, .inl ⟨s1, s2, ls, ts, hl, by simpa using hs, hr, by simpa using he, h.1.symm⟩⟩
    · exact (logged hl h).imp id .inr

/-- What follows an access: its continuation, a trap, or a wait. -/
theorem thenDo_next {r : Res} {i : Ins} {k : State → List Byte → Out} {t : State} (h : r.thenDo i k = .next t) :
    (∃ s bs, r = .ok s bs ∧ k s bs = .next t) ∨
    (∃ s f, r = .fault s f ∧ t = s.takeTrap s s.slot f.trap i.words false s.cur.pc s.cur.replay) ∨
    (∃ s z n q, r = .wait s z ∧ t = { s.setCur { s.cur with held := true, frz := z, frzAt := n } with seq := q }) := by
  cases r with
  | ok s bs => exact .inl ⟨s, bs, rfl, h⟩
  | fault s f => exact .inr (.inl ⟨s, f, rfl, trap_next h⟩)
  | wait s z =>
    obtain ⟨n, q, ht, -⟩ := wait_next h
    exact .inr (.inr ⟨s, z, n, q, rfl, ht⟩)

/-! ### Bytes at locations -/

@[simp] theorem readLocs_nil (s : State) : s.readLocs [] = [] := rfl
@[simp] theorem readLocs_cons (s : State) (l : Loc) (ls : List Loc) : s.readLocs (l :: ls) = s.readLoc l :: s.readLocs ls := rfl
@[simp] theorem readLocs_length (s : State) (ls : List Loc) : (s.readLocs ls).length = ls.length := by simp [State.readLocs]
@[simp] theorem writeLocs_nil (s : State) (bs : List Byte) : s.writeLocs [] bs = s := by cases bs <;> rfl
@[simp] theorem writeLocs_cons (s : State) (l : Loc) (ls : List Loc) (b : Byte) (bs : List Byte) :
    s.writeLocs (l :: ls) (b :: bs) = (s.writeLoc l b).writeLocs ls bs := rfl

/-! ### Attempts and pops of records -/

/-- A successful attempt after another is both of them. -/
theorem andThen_ok {α β : Type} {x : Try α} {k : State → α → Try β} {t : State} {b : β} (h : x.andThen k = .ok t b) :
    ∃ s a, x = .ok s a ∧ k s a = .ok t b := by
  cases x with
  | ok s a => exact ⟨s, a, rfl, h⟩
  | wait s => simp [Try.andThen] at h
  | fault f c a => simp [Try.andThen] at h

theorem ensure_ok {s t : State} {c : Bool} {f : Nat} {u : PUnit} (h : s.ensure c f = .ok t u) : c = true ∧ t = s := by
  unfold State.ensure at h
  split at h
  · rename_i hc; exact ⟨hc, by simpa using h.symm⟩
  · simp at h

/-- With no record queued, or one that its engine cannot accept, nothing is popped (R244, R453). -/
theorem popHead_idle {s : State} {can : State → Rec → Bool} {pre : State → Rec → Party → Try PUnit} {desc : Option Word}
    {go : State → Rec → Party → Try (Option Rec)}
    (h : (s.engq s.queue).recs = [] ∨ ∃ r rs, (s.engq s.queue).recs = r :: rs ∧ r.todo = false ∧ can s r = false) :
    s.popHead can pre desc go = .next s := by
  unfold State.popHead
  rcases h with h | ⟨r, rs, h, ht, hc⟩
  · simp only [h]
  · simp [h, ht, hc]

/-- A popped record that its start leaves in flight stands among the running ones, and one that its start finishes does
not (R244, R248). -/
theorem popHead_starts {s s1 s2 s3 : State} {can : State → Rec → Bool} {pre : State → Rec → Party → Try PUnit}
    {desc : Option Word} {go : State → Rec → Party → Try (Option Rec)} {r r1 : Rec} {rs : List Rec} {x : Option Rec}
    (h : (s.engq s.queue).recs = r :: rs) (hc : r.todo = true ∨ can s r = true)
    (h1 : s1 = s.setEngq s.queue { s.engq s.queue with
      recs := rs, popped := if r.chained ∨ r.todo then (s.engq s.queue).popped else (s.engq s.queue).popped + 1,
      lastPop := if r.chained ∨ r.todo then (s.engq s.queue).lastPop else some (s.core (s.queue / 8)).cyc.toNat })
    (hr : s1.readPopped (s.recParty (s.queue / 8) r) r pre desc = .ok s2 r1)
    (hg : go s2 r1 (s.recParty (s.queue / 8) r) = .ok s3 x) :
    s.popHead can pre desc go = .next (match x with
      | none => s3.dropRun s.queue r.seq
      | some r' => if !s3.recAlive r && s.recAlive r then s3.dropRun s.queue r.seq
          else (s3.markFills s1 none (some r.seq)).putRun s.queue { r' with chained := false, todo := false }) := by
  subst h1
  unfold State.popHead
  have hn : ¬(¬(r.todo = true) ∧ (!can s r) = true) := by rcases hc with h | h <;> simp [h]
  simp only [h]
  rw [if_neg (by simpa using hn)]
  simp only [hr, hg]
  cases x with
  | none => rfl
  | some r' => dsimp only; split <;> rfl

end Sys2Proof.Machine
end

