-- ==== Sys2Proof/Laws/Step.lean ====
section
/-! SUPPORT. What a step comes to, by the turn that the agenda names. -/

namespace Sys2Proof.Machine

/-- With an empty agenda the unit of the current slot moves. -/
theorem step_nil (s : State) (h : s.agenda = []) : step s = runUnit s := by
  unfold step; rw [h]; rfl

theorem step_cons (s : State) (t : Turn) (ts : List Turn) (h : s.agenda = t :: ts) :
    step s = runTurn t { s with agenda := ts } := by
  unfold step; rw [h]

/-- A unit whose turn at its port has come, with nothing to re-issue, no request that finds it at a yield point and no trap
due, fetches and executes. -/
theorem runUnit_runIns (s : State) (hs : s.slot < 162) (hst : s.cur.st = .running ∨ s.cur.st = .preempt)
    (hp : s.portBehind s.slot = false) (hr : s.cur.replay = []) (hy : (s.cur.preq && s.atYieldPoint s.slot) = false)
    (ha : s.asyncDue s.slot = false) : runUnit s = s.runIns := by
  have h1 : ¬ 162 ≤ s.slot := by omega
  have h2 : ¬ (s.cur.st ≠ .running ∧ s.cur.st ≠ .preempt) := by
    rintro ⟨a, b⟩; rcases hst with h | h <;> contradiction
  unfold runUnit
  rw [if_neg h1, if_neg h2, if_neg (by simp [hp]), if_neg (by simp [hr]), if_neg (by simp [hy]), if_neg (by simp [ha])]

/-- Fetched words that decode are executed, the words noted with the context until the instruction is done. -/
theorem runIns_exec (s s1 : State) (w n : BitVec 32) (i : Instr) (hf : s.fetchIns s.slot = (s1, .words w n))
    (hd : decodeWord w n = .ok i) : s.runIns = exec i (s1.setCur { s1.cur with fetched := some (w, n) }) := by
  unfold State.runIns
  rw [hf]
  show (match decodeWord w n with
    | .error _ => _
    | .ok i => _) = _
  rw [hd]

end Sys2Proof.Machine
end

