-- ==== Sys2Proof/Tests/Slice0.lean ====
section
/-! SUPPORT. Tests of single decodes and single steps, with results from the spec; and, for the statements that have
hypotheses, states and operands that meet them. -/

namespace Sys2Proof.Tests

open Sys2Proof Sys2Proof.Machine

set_option Elab.async false

/-- Words of the register-register, immediate and shift instructions (R101 to R106), from the match and field positions of the opcode table, decoded. -/
theorem decode_scalar : ∀ x ∈ ([
    (0x04C24000, .add 6 2 8),
    (0x04C24001, .sub 6 2 8),
    (0x04C24002, .and 6 2 8),
    (0x04C24003, .or 6 2 8),
    (0x04C24004, .xor 6 2 8),
    (0x04C24005, .andn 6 2 8),
    (0x04C24006, .shl 6 2 8),
    (0x04C24007, .shr 6 2 8),
    (0x04C24008, .sra 6 2 8),
    (0x04C24009, .rotr 6 2 8),
    (0x04C2400A, .mul 6 2 8),
    (0x04C2400B, .mulhi 6 2 8),
    (0x04C2400C, .mulhn 6 2 8),
    (0x04C2400D, .div 6 2 8),
    (0x04C2400E, .divn 6 2 8),
    (0x04C2400F, .rem 6 2 8),
    (0x04C24010, .remn 6 2 8),
    (0x04C24011, .min 6 2 8),
    (0x04C24012, .max 6 2 8),
    (0x04C24013, .minn 6 2 8),
    (0x04C24014, .maxn 6 2 8),
    (0x04C24015, .slt 6 2 8),
    (0x04C24016, .sltn 6 2 8),
    (0x04C20017, .clz 6 2),
    (0x04C20018, .ctz 6 2),
    (0x04C20019, .popc 6 2),
    (0x08C2BEEF, .addi 6 2 0xbeef),
    (0x0CC2BEEF, .andi 6 2 0xbeef),
    (0x10C2BEEF, .ori 6 2 0xbeef),
    (0x14C2BEEF, .xori 6 2 0xbeef),
    (0x18C2BEEF, .slti 6 2 0xbeef),
    (0x1CC2BEEF, .sltni 6 2 0xbeef),
    (0x20C20023, .shli 6 2 35),
    (0x24C20023, .shri 6 2 35),
    (0x28C20023, .srai 6 2 35),
    (0x2CC0BEEF, .lui 6 0xbeef),
    (0x30C0BEEF, .addpc 6 0xbeef)
  ] : List (Nat × Instr)), decodeTableWord 32 x.1 = some x.2 := by decide

/-- Words of the branches, jumps, LOOP and the X prefix (R39, R107 to R111), from the match and field positions of the opcode table, decoded. -/
theorem decode_control : ∀ x ∈ ([
    (0x40481A5C, .bEq 2 8 0x1a5c),
    (0x40483A5C, .bNe 2 8 0x1a5c),
    (0x40485A5C, .bLt 2 8 0x1a5c),
    (0x40487A5C, .bGe 2 8 0x1a5c),
    (0x40489A5C, .bLtn 2 8 0x1a5c),
    (0x4048BA5C, .bGen 2 8 0x1a5c),
    (0x46ABCDEF, .j 0x2abcdef),
    (0x4AABCDEF, .jal 0x2abcdef),
    (0x4CC2BEEF, .jalr 6 2 0xbeef),
    (0x50020023, .loop 2 35),
    (0xFEABCDEF, .xPrefix 0x2abcdef 0)
  ] : List (Nat × Instr)), decodeTableWord 32 x.1 = some x.2 := by decide

/-- Words of the loads, stores and prefetches (R119, R129), from the match and field positions of the opcode table, decoded. -/
theorem decode_memory : ∀ x ∈ ([
    (0x60C29A5C, .ld 6 2 4 0x1a5c),
    (0x64825A5C, .st 4 2 2 0x1a5c),
    (0x68029A5C, .prefLd 2 4 0x1a5c),
    (0x68229A5C, .prefSt 2 4 0x1a5c)
  ] : List (Nat × Instr)), decodeTableWord 32 x.1 = some x.2 := by decide

/-- Words of the AMO, CAS and RED (R162), from the match and field positions of the opcode table, decoded. -/
theorem decode_atomic : ∀ x ∈ ([
    (0x6CC24013, .amoAdd 6 2 8 0 4 1),
    (0x6CC24093, .amoMin 6 2 8 0 4 1),
    (0x6CC24113, .amoMax 6 2 8 0 4 1),
    (0x6CC24193, .amoMinn 6 2 8 0 4 1),
    (0x6CC24213, .amoMaxn 6 2 8 0 4 1),
    (0x6CC24293, .amoAnd 6 2 8 0 4 1),
    (0x6CC24313, .amoOr 6 2 8 0 4 1),
    (0x6CC24393, .amoXor 6 2 8 0 4 1),
    (0x6CC24413, .amoSwap 6 2 8 0 4 1),
    (0x70C24013, .cas 6 2 8 0 4 1),
    (0x74024013, .redAdd 2 8 0 4 1),
    (0x74024093, .redMin 2 8 0 4 1),
    (0x74024113, .redMax 2 8 0 4 1),
    (0x74024193, .redMinn 2 8 0 4 1),
    (0x74024213, .redMaxn 2 8 0 4 1),
    (0x74024293, .redAnd 2 8 0 4 1),
    (0x74024313, .redOr 2 8 0 4 1),
    (0x74024393, .redXor 2 8 0 4 1)
  ] : List (Nat × Instr)), decodeTableWord 32 x.1 = some x.2 := by decide

/-- Words of the vector operations and mask operations (R132 to R141, R148 to R152), from the match and field positions of the opcode table, decoded. -/
theorem decode_vector : ∀ x ∈ ([
    (0x80C24501, .vadd 6 2 8 5 1),
    (0x80C24509, .vsub 6 2 8 5 1),
    (0x80C24511, .vmul 6 2 8 5 1),
    (0x80C24519, .vfma 6 2 8 5 1),
    (0x80C24521, .vfms 6 2 8 5 1),
    (0x80C24529, .vmin 6 2 8 5 1),
    (0x80C24531, .vmax 6 2 8 5 1),
    (0x80C20539, .vabs 6 2 5 1),
    (0x80C20541, .vneg 6 2 5 1),
    (0x80C24549, .vcmpEq 6 2 8 5 1),
    (0x80C24551, .vcmpNe 6 2 8 5 1),
    (0x80C24559, .vcmpLt 6 2 8 5 1),
    (0x80C24561, .vcmpLe 6 2 8 5 1),
    (0x80C24569, .vsel 6 2 8 5 1),
    (0x80C24571, .vand 6 2 8 5 1),
    (0x80C24579, .vor 6 2 8 5 1),
    (0x80C24581, .vxor 6 2 8 5 1),
    (0x80C24589, .vshl 6 2 8 5 1),
    (0x80C24591, .vshr 6 2 8 5 1),
    (0x80C24599, .vsra 6 2 8 5 1),
    (0x80C265A1, .vcvt 6 2 1 4 5 1),
    (0x80C205A9, .vexp2 6 2 5 1),
    (0x80C205B1, .vlog2 6 2 5 1),
    (0x80C205B9, .vrcp 6 2 5 1),
    (0x80C205C1, .vrsq 6 2 5 1),
    (0x80C200C8, .mopAnd 6 2 0),
    (0x80C200C9, .mopOr 6 2 0),
    (0x80C200CA, .mopXor 6 2 0),
    (0x80C200CB, .mopAndn 6 2 0),
    (0x80C200CC, .mopNot 6 2),
    (0x88C20501, .vbcast 6 2 5 1),
    (0x88C24009, .vext 6 2 8 1),
    (0x88C24011, .vins 6 2 8 1),
    (0x88C20519, .vredAdd 6 2 5 1),
    (0x88C20521, .vredMax 6 2 5 1),
    (0x88C20529, .vredMin 6 2 5 1),
    (0x88C20531, .vscan 6 2 5 1),
    (0x88C24539, .vperm 6 2 8 5 1),
    (0x88C00541, .viota 6 5 1)
  ] : List (Nat × Instr)), decodeTableWord 32 x.1 = some x.2 := by decide

/-- Words of the vector loads and stores and VQST (R142, R153 to R156), from the match and field positions of the opcode table, decoded. -/
theorem decode_vectorMemory : ∀ x ∈ ([
    (0x84C20501, .vld 6 2 5 1),
    (0x84C20509, .vst 6 2 5 1),
    (0x84C24511, .vlds 6 2 8 5 1),
    (0x84C24519, .vsts 6 2 8 5 1),
    (0x84C24521, .vgath 6 2 8 5 1),
    (0x84C24529, .vscat 6 2 8 5 1),
    (0x8CC24501, .vqstI8 6 2 8 5 1),
    (0x8CC24509, .vqstN8 6 2 8 5 1),
    (0x8CC24511, .vqstI16 6 2 8 5 1),
    (0x8CC24519, .vqstBf 6 2 8 5 1),
    (0x8CC24521, .vqstMxi8 6 2 8 5 1),
    (0x8CC24529, .vqstMxf4 6 2 8 5 1),
    (0x8CC24531, .vqstMxf8 6 2 8 5 1),
    (0x8CC24539, .vqstRi32 6 2 8 5 1)
  ] : List (Nat × Instr)), decodeTableWord 32 x.1 = some x.2 := by decide

/-- Words of the fences, seals, barriers, waits and write-backs (R165 to R180, R197, R198), from the match and field positions of the opcode table, decoded. -/
theorem decode_sync : ∀ x ∈ ([
    (0xA0000011, .fenceAcq 4),
    (0xA0000012, .fenceRel 4),
    (0xA0000013, .fenceSc 4),
    (0xA0000819, .lfence 0 1 9),
    (0xA0C21000, .seal 6 2),
    (0xA0C21800, .unseal 6 2),
    (0xA0C22010, .barinit 6 2 4),
    (0xA0C22830, .bararrive 6 2 1 4),
    (0xA0C23030, .barwait 6 2 1 4),
    (0xA0C23800, .barpend 6 2),
    (0xA0C24000, .cwait 6 2),
    (0xA0C24800, .cwb 6 2),
    (0xA0C24801, .cwbInv 6 2),
    (0xA0025000, .ralign 2),
    (0xA0025800, .waitt 2)
  ] : List (Nat × Instr)), decodeTableWord 32 x.1 = some x.2 := by decide

/-- Words of the pushes, QSTAT, LAUNCH and CANCEL (R183 to R190), from the match and field positions of the opcode table, decoded. -/
theorem decode_queue : ∀ x ∈ ([
    (0xA4C00003, .push 6 3),
    (0xA4C00800, .pushf 6),
    (0xA4C21000, .lpush 6 2),
    (0xA4C21001, .lpushImg 6 2),
    (0xA4C21814, .vsend 6 2 5 0),
    (0xA4C02003, .qstat 6 3),
    (0xA4C22803, .launch 6 2 3),
    (0xA4C23000, .cancelLaunch 6 2),
    (0xA4C23001, .cancelGraph 6 2),
    (0xA4C23002, .cancelPhase 6 2),
    (0xA4C23003, .cancelJob 6 2)
  ] : List (Nat × Instr)), decodeTableWord 32 x.1 = some x.2 := by decide

/-- Words of the system registers, traps and ends (R192 to R196), from the match and field positions of the opcode table, decoded. -/
theorem decode_system : ∀ x ∈ ([
    (0xA8C00020, .rdsr 6 32),
    (0xA8020820, .wrsr 2 32),
    (0xA8001123, .trap 0x123),
    (0xA8001800, .rtrap),
    (0xA8002000, .reinj),
    (0xA8002800, .yield),
    (0xA8003000, .halt)
  ] : List (Nat × Instr)), decodeTableWord 32 x.1 = some x.2 := by decide

/-- Lane words, laid out from R50 and R215, decoded. -/
theorem decode_lane : ∀ x ∈ ([
    (0x043009000000, .idle ⟨3, 9, 0⟩),
    (0x083580640003, .act ⟨3, 5, 2, 100⟩ 3),
    (0x0C3580000000, .pre ⟨3, 5, 2, 0⟩),
    (0x10300000000A, .prea ⟨3, 0, 0⟩ 10),
    (0x143580000000, .ref ⟨3, 5, 2, 0⟩),
    (0x1835AFFF0041, .wrrow ⟨3, 5, 2, 12287⟩ 65),
    (0x20300000740F, .setfmt ⟨3, 0, 0⟩ 7 4 15),
    (0x24300000B200, .setsc ⟨3, 0, 0⟩ 11 0 true),
    (0x243000000800, .setsc ⟨3, 0, 0⟩ 0 2 false),
    (0x283000001002, .maskk ⟨3, 0, 0⟩ 4098),
    (0x40300F001664, .gemv ⟨3, 15, 1⟩ 1 2 3 4),
    (0x44300F001671, .gemvb ⟨3, 15, 1⟩ 1 2 3 4 1),
    (0x48300F001664, .dotk ⟨3, 15, 1⟩ 1 2 3 4),
    (0x4C300F001534, .axpv ⟨3, 15, 1⟩ 1 2 3 4),
    (0x50303F00029C, .stats ⟨3, 63, 0⟩ 1 2 3 4),
    (0x60300F001B21, .accz ⟨3, 15, 1⟩ 5 true 33),
    (0x64303F0005C0, .accmvBank ⟨3, 63, 0⟩ 5 6),
    (0x64303F000D4D, .accmvScratch ⟨3, 63, 0⟩ 5 77),
    (0x683003001A1A, .popa ⟨3, 3, 1⟩ 2 33 5),
    (0x6C300000104D, .qst ⟨3, 0, 0⟩ true 77),
    (0x80303F000280, .rsendSum ⟨3, 63, 0⟩ 5),
    (0x80303F0006E6, .rsendMerge ⟨3, 63, 0⟩ 5 6 3),
    (0xA0300000084D, .syncpt ⟨3, 0, 0⟩ true 77),
    (0xA43000000005, .laneLfence ⟨3, 0, 0⟩ false 5),
    (0xA43000000010, .laneLfence ⟨3, 0, 0⟩ true 0),
    (0xFC3000000000, .haltl ⟨3, 0, 0⟩)
  ] : List (Nat × Instr)), decodeTableWord 48 x.1 = some x.2 := by decide

/-- Engine records, laid out from R241 and the field tables of R253, R259 to R271, decoded. -/
theorem decode_record : ∀ x ∈ ([
    (0x05409A1230000000123456789ABCDE40, .copy ⟨2, true, 77, 9⟩ true 2 0x123456789abcde40),
    (0x05409A1270000000123456789ABCDE40, .copyFadd ⟨2, true, 77, 9⟩ true 2 0x123456789abcde40),
    (0x05409A12B0000000123456789ABCDE40, .copyIadd ⟨2, true, 77, 9⟩ true 2 0x123456789abcde40),
    (0x05409A12F0000000123456789ABCDE40, .copyRi32 ⟨2, true, 77, 9⟩ true 2 0x123456789abcde40),
    (0x05409A1330000000123456789ABCDE40, .copyImax ⟨2, true, 77, 9⟩ true 2 0x123456789abcde40),
    (0x05409A1370000000123456789ABCDE40, .copyOr ⟨2, true, 77, 9⟩ true 2 0x123456789abcde40),
    (0x1000001200000000123456789ABCDE40, .fmt ⟨0, false, 0, 9⟩ 0x123456789abcde40),
    (0x09409A13CFE7F000123456789ABCDE40, .mtile ⟨2, true, 77, 9⟩ 3 true false 127 63 true 0x123456789abcde40),
    (0x0D409A1369BF9F80123456789ABCDE40, .epi ⟨2, true, 77, 9⟩ 2 true 5 false 1 true 127 63 0x123456789abcde40),
    (0x2000001304B00000123456789ABCDE40, .node ⟨0, false, 0, 9⟩ 4 300 0x123456789abcde40),
    (0x41409A1308000000123456789ABCDE40, .qpw ⟨2, true, 77, 9⟩ 33 0x123456789abcde40),
    (0x45409A130D000000123456789ABCDE40, .qpwr ⟨2, true, 77, 9⟩ 33 5 0x123456789abcde40),
    (0x49409A1308000000004D000000ABCDEF, .arm ⟨2, true, 77, 9⟩ 33 77 0xABCDEF),
    (0x4D409A13080FA000123456789ABCDE40, .tsend ⟨2, true, 77, 9⟩ 33 500 0x123456789abcde40),
    (0x51409A1308000000123456789ABCDE40, .raftxRi32 ⟨2, true, 77, 9⟩ 33 0x123456789abcde40),
    (0x51409A130A000000123456789ABCDE40, .raftxMax ⟨2, true, 77, 9⟩ 33 0x123456789abcde40),
    (0x51409A130C000000123456789ABCDE40, .raftxOr ⟨2, true, 77, 9⟩ 33 0x123456789abcde40),
    (0x55409A1308000000123456789ABCDE40, .rafta ⟨2, true, 77, 9⟩ 33 0x123456789abcde40)
  ] : List (Nat × Instr)), decodeTableWord 128 x.1 = some x.2 := by decide

/-- For each check of `Instr.wf`, a term that it refuses. -/
theorem wf_refuses : ∀ i ∈ ([
    .idle ⟨0, 0, 1⟩, .act ⟨0, 0, 0, 12288⟩ 0, .pre ⟨0, 0, 0, 1⟩, .prea ⟨0, 1, 0⟩ 0, .prea ⟨0, 0, 1⟩ 0,
    .ref ⟨0, 0, 0, 1⟩, .wrrow ⟨0, 0, 0, 12288⟩ 0, .setfmt ⟨0, 1, 0⟩ 0 1 0, .setsc ⟨0, 1, 0⟩ 0 0 false,
    .setsc ⟨0, 0, 0⟩ 1 0 false, .setsc ⟨0, 0, 0⟩ 0 1 true, .maskk ⟨0, 0, 1⟩ 0, .stats ⟨0, 0, 1⟩ 0 1 2 0,
    .accmvBank ⟨0, 0, 1⟩ 0 1, .accmvScratch ⟨0, 0, 1⟩ 0 0, .qst ⟨0, 1, 0⟩ false 0, .rsendSum ⟨0, 0, 1⟩ 0,
    .rsendMerge ⟨0, 0, 1⟩ 0 1 0, .syncpt ⟨0, 1, 0⟩ false 0, .laneLfence ⟨0, 1, 0⟩ false 0,
    .laneLfence ⟨0, 0, 0⟩ true 1, .haltl ⟨0, 0, 1⟩,
    .copy ⟨6, false, 0, 0⟩ false 0 0, .copy ⟨0, false, 1, 0⟩ false 0 0, .copy ⟨0, false, 0, 0⟩ false 3 0,
    .copyFadd ⟨7, false, 0, 0⟩ false 0 0, .copyIadd ⟨0, false, 0, 0⟩ false 3 0, .copyRi32 ⟨0, false, 2, 0⟩ false 0 0,
    .copyImax ⟨0, false, 0, 0⟩ false 3 0, .copyOr ⟨6, false, 0, 0⟩ false 0 0,
    .fmt ⟨1, false, 0, 0⟩ 0, .fmt ⟨0, true, 0, 0⟩ 0, .mtile ⟨6, false, 0, 0⟩ 0 true false 0 0 false 0,
    .epi ⟨0, false, 1, 0⟩ 0 false 0 false 0 false 0 0 0, .node ⟨1, false, 0, 1⟩ 0 0 0, .node ⟨0, false, 0, 1⟩ 3 0 0,
    .qpw ⟨6, false, 0, 0⟩ 0 0, .qpwr ⟨6, false, 0, 0⟩ 0 0 0, .qpwr ⟨0, false, 0, 0⟩ 0 6 0,
    .arm ⟨6, false, 0, 0⟩ 1 0 0, .arm ⟨0, false, 0, 0⟩ 0 0 0, .tsend ⟨6, false, 0, 0⟩ 1 0 0, .tsend ⟨0, false, 0, 0⟩ 0 0 0,
    .raftxRi32 ⟨6, false, 0, 0⟩ 0 0, .raftxMax ⟨6, false, 0, 0⟩ 0 0, .raftxOr ⟨6, false, 0, 0⟩ 0 0, .rafta ⟨6, false, 0, 0⟩ 0 0
  ] : List Instr), i.wf = false := by decide

/-- Words that are no instruction, from R40, R51, R54 and the reserved fields of R101 and R215. -/
theorem decode_refuses : ∀ x ∈ ([
    (32, 0x00000000), (32, 0xF8000000), (32, 0x0400001A), (32, 0x20000040), (32, 0x8C000040),
    (48, 0), (48, 0x3F * 2 ^ 42 + 1), (48, 2 * 2 ^ 42 + 12288 * 2 ^ 16), (48, 4 * 2 ^ 42 + 2 ^ 24),
    (128, 0), (128, 5 * 2 ^ 122), (128, 1 * 2 ^ 122 + 6 * 2 ^ 94), (128, 1 * 2 ^ 122 + 2 ^ 64), (128, 0x12 * 2 ^ 122)
  ] : List (Nat × Nat)), decodeTableWord x.1 x.2 = none := by decide

/-! ### States -/

/-- A context of a running unit at PC 0x100, with a read-only extent 0 and a writable extent 1 of 64 KiB each. -/
def unitCtx (g : SMap Word) (lvl : Level) : Ctx :=
  { Ctx.init with
    g := g, pc := 0x100, level := lvl, st := .running, uid := some 1,
    xtab := [(0, 0x80000000000100000000000000000000), (1, 0xC0000000000100000000000000010000)] }

/-- A slot whose unit runs at a level, with every device up. Pages 0 and 1 of job 0 are present at 0 and 0x10000. -/
def running (slot : Nat) (g : SMap Word) (lvl : Level) : State :=
  { (State.reset.setCtx slot (unitCtx g lvl)) with
    slot := slot, ready := BitVec.allOnes 64,
    runs := [(0, ⟨.present 0, false, false, 0⟩), (1, ⟨.present 0x10000, true, false, 0⟩)] }

/-- The same on tile core 32. -/
def onTile (g : SMap Word) (lvl : Level) : State := running 64 g lvl

/-- The same on stack core 0. -/
def onStack (g : SMap Word) (lvl : Level) : State := running 0 g lvl

/-- The context of the next state. -/
def after (o : Out) : Ctx :=
  match o with
  | .next t => t.cur
  | _ => Ctx.init

theorem ok_of {ε α : Type} {e : Except ε α} {a : α} (h : e.toOption = some a) : e = .ok a := by
  cases e with
  | ok b => simpa [Except.toOption] using h
  | error _ => simp [Except.toOption] at h

theorem err_of {ε α : Type} [DecidableEq ε] {e : Except ε α} {a : ε}
    (h : (match e with | .error b => decide (b = a) | .ok _ => false) = true) : e = .error a := by
  cases e with
  | ok _ => simp at h
  | error _ => simpa using h

theorem next_of {o : Out} (h : (match o with | .next _ => true | _ => false) = true) : ∃ t, o = .next t := by
  cases o with
  | next t => exact ⟨t, rfl⟩
  | fault _ => simp at h
  | refused _ => simp at h

theorem ex_pair {α β : Type} {p : α × β} {b : β} {q : Prop} (h : p.2 = b) (hq : q) : ∃ a, p = (a, b) ∧ q :=
  ⟨p.1, Prod.ext rfl h, hq⟩

theorem ex_pair' {α β : Type} {p : α × β} {b : β} (h : p.2 = b) : ∃ a, p = (a, b) := ⟨p.1, Prod.ext rfl h⟩

/-! ### Encodings, steps and fetches -/

theorem witness_CoreRoundTrip :
    encode (.halt) = some (32, 0xA8003000) ∧ encode (.xPrefix 0x3FFFFFF 0x08200001) = some (64, 0x08200001FFFFFFFF) := by
  decide

theorem witness_LaneRoundTrip :
    (encodeLane (.act ⟨63, 15, 3, 12287⟩ 3)).isSome = true ∧ (Instr.act ⟨63, 15, 3, 12287⟩ 3).wf = true ∧
    (encodeLane (.act ⟨63, 15, 3, 12288⟩ 3)).isSome = true ∧ (Instr.act ⟨63, 15, 3, 12288⟩ 3).wf = false := by decide

theorem witness_RecordRoundTrip :
    (encodeRecord (.copy ⟨5, true, 8191, 255⟩ true 2 0xFFFFFFFFFFFFFFFF)).isSome = true ∧
    (Instr.copy ⟨5, true, 8191, 255⟩ true 2 0xFFFFFFFFFFFFFFFF).wf = true ∧
    (encodeRecord (.copy ⟨6, true, 8191, 255⟩ true 2 0)).isSome = true ∧
    (Instr.copy ⟨6, true, 8191, 255⟩ true 2 0).wf = false := by decide

theorem witness_DecodedWordsAreEncodings :
    decodeWord 0x04221801 0 = .ok (.sub 1 2 3) ∧ decodeLane 0xFC0000000000 = .ok (.haltl ⟨0, 0, 0⟩) ∧
    decodeRecord 4 (BitVec.ofNat 128 (0x12 * 2 ^ 122 + 63 * 2 ^ 91)) = .ok (.arm ⟨0, false, 0, 0⟩ 63 0 0) :=
  ⟨ok_of (by decide), ok_of (by decide), ok_of (by decide)⟩

theorem witness_ReservedWordsRefused :
    (0x03FFFFFF : BitVec 32).extractLsb' 26 6 = 0 ∧ (0xF8000000 : BitVec 32).extractLsb' 26 6 = 0x3E ∧
    ((0x0400001A : BitVec 32).extractLsb' 26 6 = 1 ∧ 0x1A ≤ ((0x0400001A : BitVec 32).extractLsb' 0 11).toNat) ∧
    ((0x2C010000 : BitVec 32).extractLsb' 26 6 = 0x0B ∧ (0x2C010000 : BitVec 32).extractLsb' 16 5 ≠ 0) ∧
    (0x03FFFFFFFFFF : BitVec 48).extractLsb' 42 6 = 0 ∧
    ((0xFC0000000001 : BitVec 48).extractLsb' 42 6 = 0x3F ∧ (0xFC0000000001 : BitVec 48).extractLsb' 0 12 ≠ 0) ∧
    (let w : BitVec 48 := 0x080030000000
     w.extractLsb' 42 6 = 2 ∧ w.extractLsb' 12 4 = 0 ∧ w.extractLsb' 2 10 = 0 ∧ 12288 ≤ (w.extractLsb' 16 14).toNat) ∧
    (0 : BitVec 128).extractLsb' 122 6 = 0 ∧ (0x04000000000000000000000000000000 : BitVec 128).extractLsb' 122 6 = 1 ∧
    (let r : BitVec 128 := 0x54000000000000010000000000000000
     r.extractLsb' 122 6 = 0x15 ∧ r.extractLsb' 64 27 ≠ 0) ∧
    (let r : BitVec 128 := 0x57400000000000000000000000000000
     r.extractLsb' 122 6 = 0x15 ∧ r.extractLsb' 64 27 = 0 ∧ r.extractLsb' 118 1 = 1 ∧
       6 ≤ (r.extractLsb' 119 3).toNat) := by decide

/-- A word at PC of a running context: it decodes, or not, and the fetch may fail its checks. -/
theorem witness_StepRunsWhatItFetches_units :
    (let s := State.reset.withFetchWord 32 0xA8003000
     s.agenda = [] ∧ s.slot < 162 ∧ s.cur.st = .running ∧ s.cur.replay = [] ∧ s.asyncDue s.slot = false ∧
     (s.cur.preq && s.atYieldPoint s.slot) = false ∧ s.portBehind s.slot = false ∧
     ∃ s1, s.fetchIns s.slot = (s1, .words 0xA8003000 0) ∧ decodeWord 0xA8003000 0 = .ok .halt) ∧
    (let s := State.reset.withFetchWord 32 0xF8000000
     s.agenda = [] ∧ s.cur.st = .running ∧ s.asyncDue s.slot = false ∧ s.portBehind s.slot = false ∧
     ∃ s1, s.fetchIns s.slot = (s1, .words 0xF8000000 0) ∧ decodeWord 0xF8000000 0 = .error .reservedMajor) ∧
    (let s := { State.reset.withFetchWord 32 0 with ctxs := [(64, { fetchCtx with pc := 0x10000 })] }
     s.cur.st = .running ∧ s.asyncDue s.slot = false ∧ ∃ s1, s.fetchIns s.slot = (s1, .fault 3 2)) := by
  refine ⟨⟨?_, ?_, ?_, ?_, ?_, ?_, ?_, ex_pair ?_ (ok_of ?_)⟩, ⟨?_, ?_, ?_, ?_, ex_pair ?_ (err_of ?_)⟩, ⟨?_, ?_, ex_pair' ?_⟩⟩ <;>
    decide +kernel

/-- A record as the current queue's head. -/
def aRecord (bits : BitVec 128) : Rec :=
  { bits := bits, slot := 64, uid := some 1, seq := 7, gctr := none, chained := false, subs := [], chain := none,
    flags := 0, waits := [], ts := none, desc := [], fired := false, todo := false,
    link := false, prev := none, raw := none }

/-- A word at the head of a lane's queue. -/
def aWord (bits : BitVec 48) : LWord :=
  { bits := bits, uid := none, strict := false, lctr := 0, arrived := 0, group := 0, bad := false }

/-- A word at the head of lane 0's queue, a record at the head of the collective queue of core 32, and an event. -/
theorem witness_StepRunsWhatItFetches_heads :
    (let s := { State.reset.withFetchWord 48 0xFC0000000000 with agenda := [.lane 0] }
     s.agenda = [.lane 0] ∧ (s.laneOf 0).words = [aWord 0xFC0000000000] ∧
     decodeLane 0xFC0000000000 = .ok (.haltl ⟨0, 0, 0⟩) ∧ ∃ t, exec (.haltl ⟨0, 0, 0⟩) { s with agenda := [], lane := 0 } = .next t) ∧
    (let r := aRecord 0x48000000080000000000000000000000
     let s := { State.reset.setEngq 260 { EngQ.init with recs := [r] } with agenda := [.engine 260, .unit 0] }
     let s1 := { s with agenda := [.unit 0], queue := 260 }
     s.agenda = [.engine 260, .unit 0] ∧ (s.engq 260).fault = [] ∧ (s.engq 260).markers = [] ∧ (s.engq 260).recs = [r] ∧
     (s.engq 260).run = [] ∧ r.chained = false ∧ s1.settledUnit r.uid = true ∧ s1.headRecord 260 r = .ok s1 r ∧
     decodeRecord (260 % 8) r.bits = .ok (.arm ⟨0, false, 0, 0⟩ 1 0 0)) ∧
    (let s := { State.reset with agenda := [.event .freezeSet] }
     s.agenda = [.event .freezeSet]) := by
  refine ⟨⟨rfl, ?_, ok_of ?_, next_of ?_⟩, ⟨rfl, ?_, ?_, ?_, ?_, rfl, ?_, rfl, ok_of ?_⟩, rfl⟩ <;> decide +kernel

/-- A fetch from the last word of an extent. -/
theorem witness_FetchReadsCode : let s := onTile [] .unit
    let p := s.partyAt 64 (s.ctx 64).level
    let e := (p.extent 0).1
    bitsOf (0xFFFC : Word).toNat 63 60 = 0 ∧ bitsOf (0xFFFC : Word).toNat 59 56 = 0 ∧ xBase e = 0 ∧ xValid e = true ∧
    0xFFFC < xSize e ∧ xW e = false ∧ xSeal e = false ∧ p.task = false ∧
    (s.pageRun (p.extent 0) p.job .load 0xFFFC).2 = ⟨.present 0, false, false, 0⟩ ∧
    s.frozen 0xFFFC = false ∧ s.memUp 0xFFFC = true ∧ s.poison = [] := by decide +kernel

/-! ### Memories and control -/

/-- A machine whose scratchpads and second-tier memory hold a byte each. -/
def twoBytes : State := { State.reset with spad := [(5, 1)], mem := [(0x1FF, 0)], memKey := [(3, 0)] }

theorem twoBytes_wf : twoBytes.MemWf where
  mem := by decide +kernel
  memKey := by decide +kernel
  spad := by decide +kernel
  scratch := by decide +kernel
  bufs := by decide +kernel
  bank := by decide +kernel
  fwMem := by decide +kernel
  spillMem := by decide +kernel
  subWin := by decide +kernel
  keyed := by
    intro a h
    by_cases ha : a = 0x1FF
    · subst ha; decide +kernel
    · simp [twoBytes, Memory.read?, SMap.find, Ne.symm ha] at h

theorem witness_WritesKeepMemoriesCanonical : twoBytes.MemWf := twoBytes_wf

theorem witness_StepKeepsMemoriesCanonical : twoBytes.MemWf ∧ ∃ t, step twoBytes = .next t :=
  ⟨twoBytes_wf, next_of (by decide +kernel)⟩

theorem witness_MemoryReadsBack :
    twoBytes.MemWf ∧ (0x200 : Nat) ≠ 0x1FF ∧ (0x200 : Nat) / 128 ≠ 0x1FF / 128 ∧
    (∀ p k, Loc.spad 32 0 ≠ .mem p k) ∧ (0x3FFFFF : Nat) < 0x400000 ∧ ((33, 0) : Nat × Nat) ≠ (32, 0) ∧
    (∀ c o, Loc.scratch 0 0 ≠ .spad c o) ∧ (0x3FFFF : Nat) < 0x40000 ∧ ((0, 1) : Nat × Nat) ≠ (0, 0) ∧
    ∀ n o, Loc.mem 0 0 ≠ .scratch n o := by
  refine ⟨twoBytes_wf, ?_⟩; simp

theorem witness_HardwiredRegisters : (31 : Nat) ≠ 0 ∧ (1 : Nat) ≠ 31 ∧ (7 : Nat) ≠ 0 := by decide

/-- A context in the body of an outer loop of three passes that ends at 0x120. -/
def looping (pc : Word) (es : List LoopEntry) : Ctx := { unitCtx [(4, 5)] .unit with pc := pc, loops := es }

/-- A loop of one word within another, one with a count of 0, one that would end beyond the other, one of length 0,
and one within two others. -/
theorem witness_CountedLoops :
    let s (es : List LoopEntry) := (onTile [(4, 5)] .unit).setCtx 64 (looping 0x100 es)
    let ok (s : State) (imm : BitVec 16) := 1 ≤ imm.toInt ∧ s.cur.entries.length < 2 ∧
      ∀ e ∈ s.cur.entries, (s.cur.pc + imm.signExtend 64 * 4).toNat ≤ e.stop.toNat
    ok (s [⟨0xF0, 0x104, 3⟩]) 1 ∧ (s [⟨0xF0, 0x104, 3⟩]).cur.rd 4 ≠ 0 ∧ (s []).cur.rd 5 = 0 ∧
    ¬ ok (s [⟨0xF0, 0x104, 3⟩]) 2 ∧ ¬ ok (s []) 0 ∧ ¬ ok (s [⟨0, 0x200, 1⟩, ⟨0, 0x200, 1⟩]) 1 := by decide +kernel

theorem witness_LoopRetirement :
    (let c := looping 0x120 [⟨0x104, 0x120, 2⟩]
     c.entries = [⟨0x104, 0x120, 2⟩] ∧ (0x120 : Word) = c.pc ∧ (2 : Word) - 1 ≠ 0) ∧
    (let c := looping 0x11C [⟨0x104, 0x120, 1⟩]
     c.entries = [⟨0x104, 0x120, 1⟩] ∧ (0x120 : Word) = c.pc + 4 ∧ (1 : Word) - 1 = 0) ∧
    (let c := looping 0x11C [⟨0x104, 0x120, 1⟩]
     ¬ ((0x120 : Word) = c.pc ∨ ((4 : Nat) = 8 ∧ (0x120 : Word) = c.pc + 4))) ∧
    (looping 0x120 []).entries = [] := by decide +kernel

theorem witness_PrefixedOperations :
    (∀ x ∈ ([(0x0822FFFF, .addi 1 2 0xFFFF), (0x0C220001, .andi 1 2 1), (0x10220001, .ori 1 2 1), (0x14220001, .xori 1 2 1),
        (0x18220001, .slti 1 2 1), (0x1C220001, .sltni 1 2 1), (0x2C200001, .lui 1 1), (0x30200001, .addpc 1 1),
        (0x4C220001, .jalr 1 2 1), (0x40223FFF, .bNe 1 2 0x1FFF), (0x20220001, .shli 1 2 1)] : List (BitVec 32 × Instr)),
      (decodeWord x.1 0).toOption = some x.2) ∧
    (decodeWord 0 0).toOption = none := by decide

/-! ### Accesses -/

/-- The party of the unit of a slot at unit level. -/
def partyOf (s : State) : Party := s.partyAt s.slot .unit

/-- The last bytes of each window, and one beyond. -/
theorem witness_AddressesResolve_windows : let s := onTile [] .unit
    let w (a : Word) := bitsOf a.toNat 63 60
    let lanes := { (State.reset.setLane 511 { Lane.init with job := some 0 }) with slot := 0 }
    w 0x10000000003FFFF8 = 1 ∧ classOf (partyOf s).core = .tile ∧ (s.core 32).frozen = false ∧ (s.core 32).spill = [] ∧
    s.freezeDue 32 = false ∧ bitsOf (0x10000000003FFFF8 : Word).toNat 59 0 + 8 ≤ 0x400000 ∧
    0x400000 < bitsOf (0x10000000003FFFF9 : Word).toNat 59 0 + 8 ∧
    w 0x27000000003FFFF8 = 2 ∧ bitsOf (0x27000000003FFFF8 : Word).toNat 59 56 = 7 ∧
    39 = 32 + ((partyOf s).core - 32) / 8 * 8 + 7 ∧ (s.core 39).frozen = false ∧ (s.core 39).spill = [] ∧
    s.freezeDue 39 = false ∧ (s.core 39).owner = none ∧ bitsOf (0x27000000003FFFF8 : Word).toNat 55 0 + 8 ≤ 0x400000 ∧
    (let o := s.setCore 39 { s.core 39 with owner := some 1 }
     (o.core 39).owner = some 1 ∧ 1 ≠ (partyOf o).job ∧ (o.core 39).frozen = false ∧ (o.core 39).spill = [] ∧
       o.freezeDue 39 = false) ∧
    w 0x3FF800000003FFF8 = 3 ∧ classOf (partyOf lanes).core ≠ .head ∧ bitsOf (0x3FF800000003FFF8 : Word).toNat 59 51 = 511 ∧
    (lanes.laneOf 511).job = some (partyOf lanes).job ∧ bitsOf (0x3FF800000003FFF8 : Word).toNat 50 0 + 8 ≤ 0x40000 ∧
    w 0x4FF800007FFFFFF8 = 4 ∧ bitsOf (0x4FF800007DFFFFF8 : Word).toNat 50 31 = 0 ∧
    bitsOf (0x4FF800007D7FFFF8 : Word).toNat 24 11 = 12287 ∧ bitsOf (0x4FF800007D7FFFF8 : Word).toNat 10 0 + 8 ≤ 2048 ∧
    w 0x5000000000000000 = 5 ∧ w 0xE000000000000000 = 14 ∧ w 0xF000000000000000 = 15 ∧ (partyOf s).level ≠ .management := by
  decide +kernel

theorem homeOf_lt (s : State) (pa : Nat) : s.homeOf pa < 32 := by
  unfold State.homeOf
  simp only [List.range, List.range.loop, List.foldl]
  have h : ∀ b : Bool, b.toNat ≤ 1 := Bool.toNat_le
  have := h (parity (bitsOf pa 47 9 * 512 &&& bitsOf (SMap.get s.hmask 0 (16 * s.domainOf pa + 0)).toNat 47 9 * 512) !=
    bitOf (SMap.get s.hmask 0 (16 * s.domainOf pa + 0)).toNat 63)
  have := h (parity (bitsOf pa 47 9 * 512 &&& bitsOf (SMap.get s.hmask 0 (16 * s.domainOf pa + 1)).toNat 47 9 * 512) !=
    bitOf (SMap.get s.hmask 0 (16 * s.domainOf pa + 1)).toNat 63)
  have := h (parity (bitsOf pa 47 9 * 512 &&& bitsOf (SMap.get s.hmask 0 (16 * s.domainOf pa + 2)).toNat 47 9 * 512) !=
    bitOf (SMap.get s.hmask 0 (16 * s.domainOf pa + 2)).toNat 63)
  have := h (parity (bitsOf pa 47 9 * 512 &&& bitsOf (SMap.get s.hmask 0 (16 * s.domainOf pa + 3)).toNat 47 9 * 512) !=
    bitOf (SMap.get s.hmask 0 (16 * s.domainOf pa + 3)).toNat 63)
  have := h (parity (bitsOf pa 47 9 * 512 &&& bitsOf (SMap.get s.hmask 0 (16 * s.domainOf pa + 4)).toNat 47 9 * 512) !=
    bitOf (SMap.get s.hmask 0 (16 * s.domainOf pa + 4)).toNat 63)
  omega

theorem memUp_of_ready (s : State) (h : s.ready = BitVec.allOnes 64) (pa : Nat) : s.memUp pa = true := by
  unfold State.memUp
  have := homeOf_lt s pa
  rw [h, BitVec.getLsbD_allOnes, BitVec.getLsbD_allOnes]
  simp; omega

/-- Extent 2 is not valid; extent 0 is read-only, extent 1 writable, each of 64 KiB; a sealed range; and a range that
ends with its page. -/
theorem witness_AddressesResolve_extents : let s := onTile [] .unit
    let sealed := s.setJob 0 { JobSt.init with seals := [(0x10080, 128)] }
    let p := partyOf s
    let e (i : Nat) := (p.extent i).1
    xValid (e 2) = false ∧ xValid (e 0) = true ∧ xSize (e 0) = 65536 ∧ xSize (e 0) ≤ bitsOf (0x10000 : Word).toNat 55 0 ∧
    (bitsOf (0xFFF9 : Word).toNat 55 0 < xSize (e 0) ∧ xSize (e 0) < bitsOf (0xFFF9 : Word).toNat 55 0 + 8) ∧
    (bitsOf (0xFFF8 : Word).toNat 55 0 + 8 ≤ xSize (e 0) ∧ xW (e 0) = false) ∧
    (xW (e 1) = true ∧ p.task = false ∧ sealed.sealedAny p.job 0x100FF 1 = true ∧ xBase (e 1) = 0x10000) ∧
    (s.sealedAny p.job 0x1FFF8 8 = false ∧ 0x1FFF8 % 65536 + 8 ≤ 65536 ∧
      (∃ s1, s.pageRun (p.extent 1) p.job .store 0x1FFF8 = (s1, ⟨.present 0x10000, true, false, 0⟩)) ∧ s.fz = false) ∧
    ∀ x, s.memUp x = true := by
  refine ⟨?_, ?_, ?_, ?_, ⟨?_, ?_⟩, ⟨?_, ?_⟩, ⟨?_, ?_, ?_, ?_⟩, ⟨?_, ?_, ex_pair' ?_, ?_⟩, memUp_of_ready _ rfl⟩ <;>
    decide +kernel

/-! ### Loads, stores and atomics -/

theorem ex_pair2 {α β : Type} {p : α × β} {b : β} {q : α → Prop} (h : p.2 = b) (hq : q p.1) : ∃ a, p = (a, b) ∧ q a :=
  ⟨p.1, Prod.ext rfl h, hq⟩

theorem ok_ex {ε α : Type} {e : Except ε α} (h : e.isOk = true) : ∃ a, e = .ok a := by
  cases e with
  | ok a => exact ⟨a, rfl⟩
  | error _ => simp [Except.isOk, Except.toBool] at h

theorem plain_of {ls : List Loc} {key : Nat}
    (h : ls.all (fun l => match l with | .mem _ k => k == key | l => l.plain) = true) : PlainLocs ls key := by
  rw [List.all_eq_true] at h
  refine ⟨fun l hl => ?_, fun pa k hl => ?_⟩
  · have := h l hl
    cases l <;> simp_all [Loc.plain]
  · have := h _ hl
    simpa using this

/-- A machine whose second-tier memory is empty, and whose other memories pass their check. -/
theorem wf_of {s : State} (h : (s.mem, s.memKey) = ([], []))
    (h' : (Memory.wf s.spad && Memory.wf s.scratch && Memory.wf s.bufs && Memory.wf s.bank && Memory.wf s.fwMem &&
      Memory.wf s.spillMem && Memory.wf s.subWin) = true) : s.MemWf := by
  simp only [Prod.mk.injEq] at h
  simp only [Bool.and_eq_true] at h'
  obtain ⟨h1, h2⟩ := h
  obtain ⟨⟨⟨⟨⟨⟨a, b⟩, c⟩, d⟩, e⟩, f⟩, g⟩ := h'
  refine ⟨?_, ?_, a, b, c, d, e, f, g, ?_⟩
  · rw [h1]; decide
  · rw [h2]; decide
  · rw [h1]; intro x hx; simp [Memory.read?, SMap.find] at hx

/-- The bytes of the own scratchpad of core 32 from an offset. -/
def spads (o n : Nat) : List Loc := (List.range n).map (fun i => Loc.spad 32 (o + i))

/-- A reserved window and an odd pair of registers. -/
theorem witness_AccessTraps : let s := onTile [(2, 0x5000000000000000)] .unit
    accessSize 4 = some 16 ∧ (30 : BitVec 5).toNat % 2 = 0 ∧ s.mustFollow s.slot s.party (s.cur.rd 2) = false ∧
    (∃ s1, s.locate s.party .load 1 (s.cur.rd 2) 16 = (s1, .fault ⟨1, 0x5000000000000000, 0⟩)) ∧
    (∃ s1, s.locate s.party .store 1 (s.cur.rd 2) 16 = (s1, .fault ⟨1, 0x5000000000000000, 0⟩)) ∧
    accessSize 5 = none ∧ accessSize 7 = none ∧ (31 : BitVec 5).toNat % 2 = 1 := by
  refine ⟨?_, ?_, ?_, ex_pair' ?_, ex_pair' ?_, ?_, ?_, ?_⟩ <;> decide +kernel

/-- The last 16 bytes of the scratchpad. -/
theorem witness_Loads : let s := onTile [(2, 0x10000000003FFFF0)] .unit
    accessSize 4 = some 16 ∧ (30 : BitVec 5).toNat % 2 = 0 ∧ isReg (s.cur.rd 2) = false ∧
    s.mustFollow s.slot s.party (s.cur.rd 2) = false ∧
    ∃ s1, s.locate s.party .load 1 (s.cur.rd 2) 16 = (s1, .ok (spads 0x3FFFF0 16) []) ∧ (spads 0x3FFFF0 16).length = 16 ∧
      s1.logOverlap s.slot s.party (s.cur.rd 2) 16 = false ∧
      (∃ s2, s1.race s.party .load false (s.cur.rd 2) [] = .ok s2) ∧ s1.eccBad .load (spads 0x3FFFF0 16) = false := by
  refine ⟨?_, ?_, ?_, ?_, ex_pair2 ?_ ⟨?_, ?_, ok_ex ?_, ?_⟩⟩ <;> decide +kernel

theorem witness_StoresAndSideLog_stores : let s := onTile [(2, 0x10000000003FFFFF)] .unit
    s.MemWf ∧ accessSize 0 = some 1 ∧ bitsOf (s.cur.rd 2).toNat 63 60 < 4 ∧
    ∃ s1, s.locate s.party .store 1 (s.cur.rd 2) 1 = (s1, .ok (spads 0x3FFFFF 1) []) ∧ PlainLocs (spads 0x3FFFFF 1) 0 ∧
      (s1.ctx s.slot).side = [] ∧ (∃ s2, s1.race s.party .store false (s.cur.rd 2) [] = .ok s2) ∧
      s1.eccBad .store (spads 0x3FFFFF 1) = false := by
  refine ⟨wf_of rfl rfl, ?_, ?_, ex_pair2 ?_ ⟨plain_of ?_, ?_, ok_ex ?_, ?_⟩⟩ <;> decide +kernel

/-- Page 1 of the job is absent; 31 entries stand in the side log. -/
def absentPage : State :=
  { (onTile [(2, 0x010000000000FFF8)] .unit) with runs := [(1, ⟨.absent, true, false, 0⟩)] }

theorem witness_StoresAndSideLog_log : let s := absentPage
    let e : SideEntry := ⟨0x0100000000000000, false, 0, false, true, false, false, [0]⟩
    let s31 := s.setCur { s.cur with side := List.replicate 31 e }
    accessSize 3 = some 8 ∧ isReg (s31.cur.rd 2) = false ∧ bitsOf (s31.cur.rd 2).toNat 63 60 = 0 ∧
    (∃ s1, s31.locate s31.party .store 1 (s31.cur.rd 2) 8 = (s1, .absent []) ∧
      ∃ s2, s1.race s31.party .store false (s31.cur.rd 2) [] = .ok s2) ∧ s31.cur.side.length < 32 := by
  refine ⟨?_, ?_, ?_, ex_pair2 ?_ (ok_ex ?_), ?_⟩ <;> decide +kernel

theorem witness_Prefetches : accessSize 4 ≠ none ∧ Instr.prefSt 2 4 0 = .prefSt 2 4 0 := by decide

/-- Eight bytes at the last place of the scratchpad, and scope 5. The side log is empty, so a release may perform. -/
theorem witness_AtomicsAndReductions : ∀ rel ∈ [5, scopeUnit], ∀ failed ∈ [true, false],
    let s := onTile [(2, 0x10000000003FFFF8), (4, 3)] .unit
    ∃ s1 s2, AtomicReady s s1 s2 2 5 rel failed 8 0 (spads 0x3FFFF8 8) [] := by
  intro rel hr failed hf s
  have h : ∀ r ∈ [5, scopeUnit], ∀ f ∈ [true, false], let l := s.locate s.party .atomic 8 (s.cur.rd 2) 8
      l.2 = .ok (spads 0x3FFFF8 8) [] ∧ l.1.released s.slot r = true ∧
      (l.1.race l.1.party .atomic f (s.cur.rd 2) []).isOk = true := by decide +kernel
  obtain ⟨hl, h1, h2⟩ := h rel hr failed hf
  obtain ⟨s2, h3⟩ := ok_ex h2
  exact ⟨_, s2, {
    wf := wf_of rfl rfl, scope := by decide, idle := by decide +kernel, window := by decide +kernel,
    found := Prod.ext rfl hl, length := by decide, plain := plain_of (by decide), settled := h1,
    side := by decide +kernel, race := h3, ecc := by decide +kernel }⟩

/-- A byte of a scratchpad is no byte of second-tier memory, and so of no shadow. -/
theorem spads_unshadowed (s t : State) {o n : Nat} : ∀ l ∈ spads o n, l.unshadowed s t := by
  intro l hl pa k h
  subst h
  simp [spads] at hl


/-! ### Vectors -/

theorem vchk_eq {x : VChk} {lss : List (List Loc)} {q : State → Prop}
    (h : (x.fault, x.absent, x.held, x.locs) = (none, false, false, lss)) (hq : q x.st) :
    ∃ s1 z, x = ⟨s1, none, false, false, z, lss⟩ ∧ q s1 := by
  simp only [Prod.mk.injEq] at h
  obtain ⟨h1, h2, h3, h4⟩ := h
  exact ⟨x.st, x.frz, by cases x; simp_all, hq⟩

/-- The types of the ends of each range, and the types that an instruction does not take. -/
theorem witness_VectorElements :
    VTy.ofCode (0 : BitVec 3).toNat = some .f32 ∧ VTy.ofCode (6 : BitVec 3).toNat = some .n8 ∧
    VTy.isFloat .f32 = true ∧ VTy.isSigned .i8 = true ∧ VTy.isFloat .i8 = false ∧ VTy.isFloat .n8 = false := by decide

theorem witness_VectorTypesAndConversion :
    (7 : BitVec 3) = 7 ∧ (1 : BitVec 3).toNat < 2 ∧ ((3 : BitVec 3) = 3 ∧ (6 : BitVec 3) = 6) ∧ 2 ≤ (2 : BitVec 3).toNat ∧
    (1 : BitVec 3) = 1 ∧ 4 ≤ (4 : BitVec 3).toNat ∧ VTy.ofCode (1 : BitVec 3).toNat = some .bf ∧
    VTy.ofCode (6 : BitVec 3).toNat = some .n8 ∧ (1 : BitVec 3) ≠ 6 := by decide

theorem witness_MasksAndComparisons : VTy.ofCode (6 : BitVec 3).toNat = some .n8 := by decide

theorem witness_VectorReductionsAndScan : VTy.ofCode (3 : BitVec 3).toNat = some .n32 ∧ VTy.width .n32 = 32 ∧
    VTy.ofCode (6 : BitVec 3).toNat = some .n8 := by decide

/-- A context whose m1 holds element 0 alone, with an address in g2, for each vector access. -/
def oneElement (a : Word) : State :=
  let s := onTile [(2, a), (3, 4)] .unit
  s.setCur { s.cur with m := [(1, 1)] }

/-- The last 4 bytes of the scratchpad as the one active element. -/
theorem witness_VectorLoads : let s := oneElement 0x10000000003FFFFC
    let es := ((List.range 64).filter (fun k => (s.cur.rdM 1).getLsbD k)).map
      (fun k => (s.cur.rd 2 + BitVec.ofNat 64 (k * (32 / 8)), 4))
    VTy.ofCode (2 : BitVec 3).toNat = some .i32 ∧ VTy.count .i32 = 64 ∧ VTy.width .i32 = 32 ∧
    (∃ s1 z, s.vcheck s.party .load (s.logOverlap s.slot s.party) es = ⟨s1, none, false, false, z, [spads 0x3FFFFC 4]⟩ ∧ s1.mem = s.mem ∧
      s1.memKey = s.memKey ∧ ∀ l ∈ spads 0x3FFFFC 4, l.unshadowed s s1) ∧
    (∀ ls ∈ [spads 0x3FFFFC 4], ls.length = 32 / 8 ∧ ∀ l ∈ ls, l.plain = true) ∧ es.length = 1 ∧
    (∀ e ∈ es, isReg e.1 = false ∧ s.mustFollow s.slot s.party e.1 = false) := by
  refine ⟨?_, ?_, ?_, vchk_eq ?_ ⟨?_, ?_, spads_unshadowed _ _⟩, ?_, ?_, ?_⟩ <;> decide +kernel

theorem witness_VectorAndQuantisingStores_stores : let s := oneElement 0x10000000003FFFFC
    let active := (List.range 64).filter (fun k => (s.cur.rdM 1).getLsbD k)
    let addr (k : Nat) := s.cur.rd 2 + BitVec.ofNat 64 (k * (32 / 8))
    s.MemWf ∧ VTy.ofCode (0 : BitVec 3).toNat = some .f32 ∧
    (∃ s1 z, s.vcheck s.party .store (fun _ _ => false) (active.map (fun k => (addr k, 4))) =
      ⟨s1, none, false, false, z, [spads 0x3FFFFC 4]⟩ ∧ s1.mem = s.mem ∧ s1.memKey = s.memKey) ∧
    (∀ ls ∈ [spads 0x3FFFFC 4], ls.length = 32 / 8) ∧ active.length = 1 ∧ PlainLocs [spads 0x3FFFFC 4].flatten 0 ∧
    (∀ k ∈ active, bitsOf (addr k).toNat 63 60 < 4) ∧ s.cur.side = [] ∧ s.cur.entered = 0 ∧
    s.eccBad .store [spads 0x3FFFFC 4].flatten = false := by
  refine ⟨wf_of rfl rfl, ?_, vchk_eq ?_ ⟨?_, ?_⟩, ?_, ?_, plain_of ?_, ?_, ?_, ?_, ?_⟩ <;> decide +kernel

/-- A run of 16 zeros from v1, to I8 and to MXF4, codes at scratchpad byte 0x100 and scale codes at 0x200. -/
theorem witness_VectorAndQuantisingStores_runs :
    ∀ c ∈ ([(.vqstI8 4 1 6 0 0, .i8), (.vqstMxf4 4 1 6 0 0, .mxf4)] : List (Instr × QTgt)),
    let s := onTile [(4, 0x1000000000000100), (5, 0x1000000000000200), (6, 0x100000003F800000)] .unit
    let q : VqDesc := ⟨(s.cur.rd 6).toNat, (s.cur.rd 7).toNat⟩
    let xs : List (Bool × F32) := (List.range 16).map (fun k => (!(s.cur.rdM 0).getLsbD k, BitVec.ofNat 32 (VTy.elem .f32 (s.cur.rdV 1) k)))
    let r := quantize c.2 (runScale c.2 q.scale) q.const (s.cur.rdE q.eddy) q.tag q.start xs
    let es := vqParts c.2 (s.cur.rd 4) (s.cur.rd 5) r.1 r.2.1 (List.replicate 16 0)
    let x := s.vcheck s.party .store (fun _ _ => false) (es.map (fun e => (e.1, e.2.length)))
    c ∈ quantTable 4 1 6 0 0 (q.const % 32) ∧ q.count = 16 ∧ s.MemWf ∧ (6 : BitVec 5).toNat % 2 = 0 ∧
    (4 : BitVec 5).toNat % 2 = 0 ∧ q.bad c.2 16 64 = false ∧
    ((incoming (s.cur.rdE q.eddy) q.tag q.start).2 && s.cur.fpst.getLsbD 7) = false ∧
    (∃ s1 z, x = ⟨s1, none, false, false, z, x.locs⟩ ∧ s1.mem = s.mem ∧ s1.memKey = s.memKey) ∧ x.locs.map List.length = es.map (fun e => e.2.length) ∧
    PlainLocs x.locs.flatten 0 ∧ (∀ e ∈ es, bitsOf e.1.toNat 63 60 < 4) ∧ s.cur.side = [] ∧ s.cur.entered = 0 ∧
    s.eccBad .store x.locs.flatten = false := by
  intro c hc
  rw [List.mem_cons, List.mem_singleton] at hc
  rcases hc with h | h <;> subst h <;>
    refine ⟨?_, ?_, wf_of rfl rfl, ?_, ?_, ?_, ?_, vchk_eq ?_ ⟨?_, ?_⟩, ?_, plain_of ?_, ?_, ?_, ?_, ?_⟩ <;> decide +kernel

/-! ### Fences, seals, barriers, queues and the system -/

/-- A machine with some registers set, by offset / 8. -/
def withRegs (s : State) (r : SMap Word) : State := { s with regs := r }

/-- Job 0 has counters 0 to 8,191. -/
def counters0 : SMap Word := [(0x20006, 0x20000000)]

def anEntry : SideEntry := ⟨0x0100000000000000, false, 0, false, true, false, false, [0]⟩

/-- The payload of a frame of a kind, of 16 bytes of DATA. -/
def payloadOf (kind op : Nat) : Nat := if kind = 1 then (if op = 0 then 272 else 256) else if kind = 3 then 8 else if kind = 4 then 0 else 16

/-- A frame of job 255 from member 0 with number 4,096, the last that the window takes. -/
def aFrame (kind op : Nat) : Frame :=
  { kind := kind, op := op, jtag := 0xFFFF, key := 255, group := 63, tsv := false, red := false, sw := false, ep := true, hr := 0,
    srcm := 0, dstm := 0, nmemb := 0, x := 0, nelem := 0, seq := 4096, acked := 0, chunk := if kind = 0 then 16 else 8, round := 0, mbmap := 0,
    ts := 0, addr := 0x1FFF0, payload := List.replicate (payloadOf kind op) 1, rbar := 0, tagOk := true, port := 0 }

/-- The stream of member 0 in job 255. -/
def aStream : Nat := 131072 * 255

/-- A store in the side log, one to layer 5 of stack 1 there, a bank fill to that layer, a remote access, and a frame that is
not acknowledged. -/
def logged (a : Word) : State :=
  let s := onTile [(2, 5), (3, 6), (4, 3), (5, 1)] .unit
  s.setCur { s.cur with side := [{ anEntry with addr := a }] }
def filling : State :=
  { (onTile [(2, 5), (3, 6), (4, 3), (5, 1)] .unit).setLane 70 { Lane.init with fills := [⟨20, 0, 0, [0], some 1, none⟩] } with
    time := 5 }
def asking : State := { onTile [] .unit with remotes := [⟨1, true, aStream, 4096, none, none⟩] }
def sending : State :=
  ((onTile [] .unit).setEngq 260 { EngQ.init with run := [{ aRecord 0 with waits := [(aStream, 4096)] }] }).setStream aStream
    { Stream.init with kept := [⟨aFrame 0 0, 0, none⟩] }

theorem witness_FencesAndWaits_fences : let s := onTile [] .unit
    (5 : BitVec 3).toNat < 6 ∧ 0 < (4 : BitVec 3).toNat ∧ (4 : BitVec 3).toNat < 5 ∧ s.localQuiet s.slot = true ∧
    (logged 0x0100000000000000).localQuiet 64 = false ∧ filling.localQuiet 64 = false ∧ s.quiet s.slot = true ∧
    s.sendsLeft s.slot = false ∧ asking.quiet 64 = false ∧ sending.sendsLeft 64 = true ∧ 6 ≤ (6 : BitVec 3).toNat := by
  decide +kernel

theorem witness_FencesAndWaits_fills : let s := filling; let u := logged 0x4200000028000000
    (s.cur.side = [] ∧ ∀ l ∈ s.lanes, ∀ f ∈ l.2.fills, f.uid = s.cur.uid → f.uid ≠ none → f.bank / 4 = (5 : BitVec 4).toNat →
      l.1 / 64 ≠ (s.cur.rd 9).toNat % 8) ∧
    (∀ l ∈ s.lanes, ∀ f ∈ l.2.fills, f.uid = s.cur.uid → f.uid ≠ none → f.bank / 4 ≠ (4 : BitVec 4).toNat) ∧
    (∃ f, (s.laneOf 70).fills = [f] ∧ f.uid = s.cur.uid ∧ f.uid ≠ none ∧ f.bank / 4 = (5 : BitVec 4).toNat ∧
      70 / 64 = (s.cur.rd 5).toNat % 8) ∧
    (∃ e ∈ u.cur.side, bitsOf e.addr.toNat 63 60 = 4 ∧ bitsOf e.addr.toNat 59 57 = (u.cur.rd 5).toNat % 8 ∧
      bitsOf e.addr.toNat 30 27 = (5 : BitVec 4).toNat) ∧ (9 : BitVec 5) ≠ 0 := by
  refine ⟨?_, ?_, ⟨⟨20, 0, 0, [0], some 1, none⟩, ?_⟩, ?_, ?_⟩ <;> decide +kernel

theorem witness_FencesAndWaits_waits : let s := filling; let c := withRegs filling counters0
    (s.cur.rd 2).toNat ≤ s.time.toNat ∧ s.time.toNat < (s.cur.rd 3).toNat ∧
    s.cur.preq = false ∧ (s.setCur { s.cur with preq := true }).cur.preq = true ∧ s.saveHeld s.slot = false ∧
    asking.saveHeld 64 = true ∧ s.ctrFits s.party 0 = false ∧ c.ctrFits c.party 8191 = true ∧
    ((c.setCounter 2 { Counter.init with state := 3 }).counter 2).state = 3 ∧
    (c.cur.rd 4).toNat % 2 ^ 48 ≤ ((c.setCounter 2 { Counter.init with value := 3 }).counter 2).value ∧
    ((c.setCounter 2 { Counter.init with value := 2 }).counter 2).value < (c.cur.rd 4).toNat % 2 ^ 48 := by decide +kernel

/-- The last 128 bytes of extent 1 at each of 63 and 31 seals, and misaligned ranges. -/
theorem witness_SealsAndUnseals : let s := onTile [(2, 0x010000000000FF80), (3, 128)] .unit
    let t := onTile [(2, 0x010000000000FF80), (3, 128)] .supervisor
    let seals (n : Nat) (s : State) := s.setJob 0 { JobSt.init with seals := List.replicate n (0x10000, 128) }
    (0x010000000000FF80 : Word).toNat % 128 = 0 ∧ (128 : Nat) % 128 = 0 ∧ (0x010000000000FF81 : Word).toNat % 128 ≠ 0 ∧
    t.cur.level ≠ .unit ∧ s.cur.level = .unit ∧
    ((seals 63 s).party.rangeCheck 0x010000000000FF80 128).toOption =
      some (0xC0000000000100000000000000010000, 0x1FF80) ∧ xW 0xC0000000000100000000000000010000 = true ∧
    (seals 63 s).released s.slot scopeJob = true ∧ ((seals 63 s).job s.party.job).seals.length = 63 ∧
    (seals 63 s).storesLeft 0 0x1FF80 128 = false ∧
    ((seals 31 t).party.rangeCheck 0x010000000000FF80 128).toOption =
      some (0xC0000000000100000000000000010000, 0x1FF80) ∧ ((seals 31 t).job 0).seals.length = 31 := by decide +kernel

theorem witness_WriteBacksAndAlignment : let s := onTile [(2, 0x010000000000FF80), (3, 128)] .unit
    let t := onTile [(2, 0x010000000000FF80), (3, 128)] .supervisor
    s.cur.level = .unit ∧ t.cur.level ≠ .unit ∧ (t.cur.rd 2).toNat % 128 = 0 ∧ (t.cur.rd 3).toNat % 128 = 0 ∧
    (t.cur.rd 3).toNat ≠ 0 ∧ (t.party.rangeCheck (t.cur.rd 2) 128).isOk = true ∧ t.party.task = false ∧
    (t.cur.rd 9).toNat = 0 ∧ classOf (coreOf (onStack [] .unit).slot) = .stack ∧ classOf (coreOf s.slot) ≠ .stack := by
  decide +kernel

/-- A barrier record in the scratchpad: all zeros, with byte 2 (EXPECTED) 1, and with byte 7 (failed) 1. -/
def barrierAt (cell : List Host.Cell) (g : Word) : State :=
  { (onTile [(2, 0x10000000003FFFF0), (4, g)] .unit) with spad := cell }

theorem witness_Barriers : ∀ x ∈ ([([], 0), ([(32 * 0x400000 + 0x3FFFF2, 1)], 0x10000),
      ([(32 * 0x400000 + 0x3FFFF7, 1)], 0x100000000000000)] : List (List Host.Cell × Nat)),
    ∀ ready ∈ ([fun t => t.released 64 5, fun t => t.quiet 64 && t.released 64 5, fun _ => true] : List (State → Bool)),
    ∃ s1 s2, BarrierReady (barrierAt x.1 1) s1 s2 0x10000000003FFFF0 ready x.2 0 (spads 0x3FFFF0 16) [] := by
  intro x hx ready hr
  have hs : ∀ z : State, z.quiet 64 = true → z.released 64 5 = true → ready z = true := by
    intro z h4 h9
    simp only [List.mem_cons, List.not_mem_nil, or_false] at hr
    rcases hr with rfl | rfl | rfl
    · exact h9
    · simp only [h4, h9, Bool.and_self]
    · rfl
  have hl : ∀ y ∈ ([([], 0), ([(32 * 0x400000 + 0x3FFFF2, 1)], 0x10000),
      ([(32 * 0x400000 + 0x3FFFF7, 1)], 0x100000000000000)] : List (List Host.Cell × Nat)),
      let s := barrierAt y.1 1
      let l := s.locate s.party .barrier 16 0x10000000003FFFF0 16
      Memory.wf s.spad = true ∧ l.2 = .ok (spads 0x3FFFF0 16) [] ∧ l.1.cur.side = [] ∧
      (l.1.quiet 64 = true ∧ l.1.released 64 5 = true) ∧
      (l.1.race s.party .barrier false 0x10000000003FFFF0 []).isOk = true ∧ l.1.eccBad .barrier (spads 0x3FFFF0 16) = false ∧
      y.2 = ofBytes ((spads 0x3FFFF0 16).map l.1.readLoc) := by decide +kernel
  obtain ⟨h1, h2, h3, ⟨h4, h9⟩, h5, h6, h7⟩ := hl x hx
  obtain ⟨s2, h8⟩ := ok_ex h5
  exact ⟨_, s2, {
    wf := wf_of rfl (by simp [barrierAt, onTile, running, State.setCtx, State.reset, Memory.wf] at h1 ⊢; exact ⟨h1, rfl⟩),
    window := by decide, found := Prod.ext rfl h2, length := by decide, plain := plain_of (by decide), side := h3,
    settled := hs _ h4 h9, race := h8, ecc := h6, value := h7 }⟩

/-- The other conditions of the clauses on barriers, at those three records; g(4) holds 1, g(9) 0. -/
theorem witness_Barriers_clauses : let s := barrierAt [] 1
    (5 : BitVec 3).toNat < 6 ∧ (∀ r ∈ ([0, 0x10000, 0x100000000000000] : List Nat), bitsOf r 127 112 = s.jobTag s.party.job) ∧
    bitOf 0x100000000000000 56 = true ∧ bitOf 0 56 = false ∧ bitsOf 0 47 32 = bitsOf 0 31 16 ∧
    bitsOf 0x10000 47 32 ≠ bitsOf 0x10000 31 16 ∧ bitsOf 0 15 0 ≠ (s.cur.rd 4).toNat % 65536 ∧
    bitsOf 0 15 0 = (s.cur.rd 9).toNat % 65536 ∧ s.cur.preq = false := by decide +kernel

/-- The last lane of quadrant 0 in the mask; 31 records, 15 entries and 63 words before. -/
theorem witness_QueuePushesAndStatus : let s := onTile [] .unit
    let t := onStack [(2, 0x8000)] .unit
    let recs (n : Nat) := s.setEngq 260 { EngQ.init with recs := List.replicate n (aRecord 0) }
    let v (n : Nat) := t.setQuad 0 { Quad.init with vfifo := List.replicate n ⟨0x8000, 0, 0, 0, 0, none⟩ }
    classOf (coreOf s.slot) = .tile ∧ classOf (coreOf t.slot) = .stack ∧ queueOn .tile 4 = true ∧ queueOn .stack 3 = false ∧
    (30 : BitVec 5).toNat % 2 = 0 ∧ (31 : BitVec 5).toNat % 2 = 1 ∧ ((recs 31).engq 260).used = 31 ∧
    32 ≤ ((recs 32).engq 260).used ∧ 260 = 8 * coreOf s.slot + 4 ∧
    ((s.setCore 32 { Core.init with fmtq := List.replicate 15 (1, 0) }).core 32).fmtq.length < 16 ∧
    (t.cur.rd 2).toNat % 65536 ≠ 0 ∧ (t.cur.rd 3).toNat % 65536 = 0 ∧ (v 15).islandWait 0x8000 = false ∧
    ((v 15).quadOf 0).vfifo.length < 16 ∧ 16 ≤ ((v 16).quadOf 0).vfifo.length ∧ t.cur.pushing = [] ∧
    t.quiet t.slot = true ∧ (∀ l, l < 16 → (t.cur.rd 2).getLsbD l = true →
      1 + ((t.setLane 15 { Lane.init with words := List.replicate 63 (aWord 0), scrubbing := false }).laneOf l).used ≤ 64 ∧
      ((t.setLane 15 { Lane.init with scrubbing := false }).laneOf l).scrubbing = false) ∧
    qstatOn .tile 7 = false ∧ qstatOn .tile 4 = true ∧ qstatOn .tile 5 = true ∧ qstatOn .stack 7 = true ∧
    (∀ i, i < 16 → (t.laneOf (16 * coreOf t.slot + i)).fault = none) := by decide +kernel

/-- Whether a run of loads gave a value; it did. -/
def readsOk {α : Type} (p : α → Bool) (r : Reads α) : Bool := match r with | .got _ a => p a | _ => false

theorem reads_ex {α : Type} {p : α → Bool} {r : Reads α} (h : readsOk p r = true) : ∃ s a, r = .got s a ∧ p a = true := by
  cases r with
  | got s a => exact ⟨s, a, rfl, h⟩
  | fault _ _ => simp [readsOk] at h
  | wait _ _ => simp [readsOk] at h

/-- An image of one HALTL at the end of page 1, for lane 15, whose queue holds 63 words. -/
theorem witness_QueuePushesAndStatus_image :
    let m := (List.range 8).foldl (fun (s : State) i => s.memPut 0 (0x1FFF8 + i) (byteOf 0xFC0000000000 i))
      ((onStack [(2, 0x8000), (4, 0x010000000000FFFB)] .unit).setLane 15
        { Lane.init with words := List.replicate 63 (aWord 0), scrubbing := false })
    bitsOf (m.cur.rd 4).toNat 63 60 = 0 ∧ (m.laneOf 15).used = 63 ∧ (m.laneOf 15).scrubbing = false ∧
    ∃ s1 ws, m.readImage (m.cur.rd 4 &&& ~~~(7 : Word)) 65536 = .got s1 ws ∧ (ws == [(0xFC0000000000, false)]) = true := by
  intro m
  exact ⟨by decide +kernel, by decide +kernel, by decide +kernel, reads_ex (by decide +kernel)⟩

/-- A packet with PMASK 1 and counter 0: accepted with counters, refused without, and turned away where the queue is off. -/
theorem witness_LaunchesAndCancels_packets :
    let on := withRegs (onTile [(2, 0x1000000000000080)] .unit)
      [(0x20006, 0x20000000), (0x20007, 1), (0x20008, 5), (0x40000, 0x8000000000000000)]
    let off := onTile [(2, 0x1000000000000081)] .unit
    let w := 2 ^ 512
    let l : Launch := { queue := 0, job := 0, packet := w, seq := 0, translated := false, bound := [], overdue := false,
                        cancelling := false, node := none, graph := none }
    (∃ s1 bs, on.readPacket (on.cur.rd 2) 8 = .got s1 bs ∧ (bs == List.replicate 128 0) = true) ∧
    (off.cur.rd 2).toNat % 128 ≠ 0 ∧ (on.cur.rd 2).toNat % 128 = 0 ∧ on.party.task = false ∧
    off.queueOfJob off.party.job 0 = false ∧ on.queueOfJob on.party.job 0 = true ∧ on.released on.slot scopeJob = true ∧
    bitOf (off.sqcfg 0) 63 = false ∧ bitOf (on.sqcfg 0) 63 = true ∧ on.used 0 < 64 ∧
    on.packetReason { l with packet := 0 } true ≠ 0 ∧ on.packetReason l true = 0 ∧ l.cls ≠ 2 :=
  ⟨reads_ex (by decide +kernel), by decide +kernel⟩

theorem witness_LaunchesAndCancels_cancels : let s := withRegs (onTile [(2, 8191)] .unit) counters0
    let t := s.setCounter 8191 { Counter.init with kind := 2, state := 1 }
    (onTile [(2, 8191)] .unit).ctrFits s.party 8191 = false ∧ s.ctrFits s.party 8191 = true ∧ (s.counter 8191).state ≠ 1 ∧
    (t.counter 8191).kind = 2 ∧ (t.counter 8191).state = 1 ∧
    ((s.setCounter 0 { Counter.init with state := 1 }).counter (s.jobCtr s.party.job)).state = 1 ∧
    ¬ (s.counter (s.jobCtr s.party.job)).state = 1 := by decide +kernel

theorem witness_SystemRegisters :
    srRead (0x7FF : BitVec 11).toNat = none ∧ srRead (0x041 : BitVec 11).toNat = some .management ∧
    Level.rank .unit < Level.rank .management ∧ Level.rank .supervisor < Level.rank .management ∧
    srWrite (0x001 : BitVec 11).toNat = some .management ∧ srRead (0x001 : BitVec 11).toNat ≠ none ∧
    srRead (0x000 : BitVec 11).toNat ≠ none ∧ srWrite (0x000 : BitVec 11).toNat = none ∧
    (onTile [] .supervisor).cur.level ≠ .unit ∧ (onTile [] .management).cur.level = .management ∧
    classOf (coreOf (onTile [] .unit).slot) = .tile ∧ classOf (coreOf (onStack [] .unit).slot) = .stack ∧
    classOf (coreOf (onTile [] .unit).slot) ≠ .head := by decide +kernel

/-! ### Traps -/

/-- A unit whose job has a handler, with TFRAME at the last 512 bytes of the scratchpad, or in a reserved window. -/
def trapping (frame : Word) : State :=
  let s := withRegs (onTile [] .unit) [(0xE0001, 0x8000000000010000)]
  s.setCur { s.cur with tframe := frame }

/-- How a store ends. -/
def resKind (r : Res) : Nat := match r with | .ok _ _ => 0 | .fault _ _ => 1 | .wait _ _ => 2

theorem res_fault {r : Res} (h : resKind r = 1) : ∃ s f, r = .fault s f := by
  cases r with
  | fault s f => exact ⟨s, f, rfl⟩
  | ok _ _ => simp [resKind] at h
  | wait _ _ => simp [resKind] at h

theorem res_wait {r : Res} (h : resKind r = 2) : ∃ s z, r = .wait s z := by
  cases r with
  | wait s z => exact ⟨s, z, rfl⟩
  | ok _ _ => simp [resKind] at h
  | fault _ _ => simp [resKind] at h

/-- A trap of a service task, one above unit level, one without a handler; frames that fail a check, that are held by a moving
scratchpad frame, and that are written. -/
theorem witness_TakingAndLeavingTraps_entry : let s := trapping 0x10000000003FFE00
    let p := s.partyAt 64 .supervisor; let bad := trapping 0x5000000000000000
    let held := s.setCore 32 { s.core 32 with spill := [63] }
    let frame (v : State) := frameBytes (v.ctx 64) 0 0 0 0 0 []
    isTask 161 = true ∧ (onTile [] .supervisor).cur.level ≠ .unit ∧ xSize ((onTile [] .unit).trapExtent 0 0) = 0 ∧
    ([] : List Replay).length ≤ 16 ∧ (0xFFFF : Nat) < 65536 ∧ (0xFF : Nat) < 256 ∧
    isTask 64 = false ∧ s.cur.level = .unit ∧ (1 : Nat) ≠ 8 ∧ xSize (s.trapExtent 0 0) ≠ 0 ∧
    (∃ s1 f, bad.writeFrame 64 bad.cur.tframe (frame bad) = .fault s1 f) ∧
    (∃ s1 z, held.writeFrame 64 held.cur.tframe (frame held) = .wait s1 z) ∧
    s.MemWf ∧ (∃ s1, s.locate p .store 1 s.cur.tframe 512 = (s1, .ok (spads 0x3FFE00 512) []) ∧
      (∃ s2, s1.race p .store false s.cur.tframe [] = .ok s2) ∧ s1.eccBad .store (spads 0x3FFE00 512) = false) ∧
    (spads 0x3FFE00 512).length = 512 ∧ PlainLocs (spads 0x3FFE00 512) 0 ∧ s.cur.side = [] := by
  refine ⟨?_, ?_, ?_, ?_, ?_, ?_, ?_, ?_, ?_, ?_, res_fault ?_, res_wait ?_, ?_⟩
  case refine_13 => refine ⟨wf_of rfl rfl, ex_pair2 ?_ ⟨ok_ex ?_, ?_⟩, ?_, plain_of ?_, ?_⟩ <;> decide +kernel
  all_goals decide +kernel

/-- A handler of unit 1 whose frame, in the last 512 bytes of the scratchpad, holds a STATUS; what the trap wrote there is
kept with the unit, or not. -/
def returning (status : Nat) (kept : Option (Word × Word × List Replay)) : State :=
  let s := onTile [] .supervisor
  { s.setCur { s.cur with tframe := 0x10000000003FFE00 } with
    units := [(1, { Unit.init with tstat := kept })],
    spad := Memory.writeN [] (spadAddr 32 0x3FFE08) (bytesOf 8 status) }

/-- Frames to resume from, with a replay entry, of a record's fault to be dropped, fatal and invalid; and frames whose own
STATUS no longer holds what the trap wrote. -/
theorem witness_TakingAndLeavingTraps_return : ∀ x ∈ ([(0, none, 0, 0, 0), (2 ^ 22 + 16, none, 1, 16, 0),
      (2 ^ 22 + 14 * 2 ^ 40, none, 1, 0, 14), (2 * 2 ^ 22, none, 2, 0, 0), (3 * 2 ^ 22, none, 3, 0, 0),
      (2 ^ 22 + 255 * 2 ^ 40 + 31, some (0x10000000003FFE00, 0x10000000000, []), 1, 0, 1),
      (0, some (0x10000000003FFE00, 0x0E0000000001, []), 0, 1, 14)] :
      List (Nat × Option (Word × Word × List Replay) × Nat × Nat × Nat)),
    let s := returning x.1 x.2.1
    (onTile [] .unit).cur.level = .unit ∧ s.cur.level ≠ .unit ∧
    (∃ s1, s.locate s.party .load 1 s.cur.tframe 512 = (s1, .ok (spads 0x3FFE00 512) []) ∧
      s1.logOverlap s.slot s.party s.cur.tframe 512 = false ∧
      (∃ s2, s1.race s.party .load false s.cur.tframe [] = .ok s2) ∧ s1.eccBad .load (spads 0x3FFE00 512) = false ∧
      let held := ofBytes ((((spads 0x3FFE00 512).map s1.readLoc).drop 8).take 8)
      let status := match (s.unitAt 1).tstat.filter (fun (f : Word × Word × List Replay) => f.1 == s.cur.tframe) with
        | some f => f.2.1.toNat
        | none => held
      held = x.1 ∧ bitsOf held 23 22 = x.2.2.1 ∧ bitsOf status 4 0 = x.2.2.2.1 ∧ bitsOf status 47 40 = x.2.2.2.2) ∧
    (spads 0x3FFE00 512).length = 512 ∧ s.cur.uid = some 1 := by
  intro x hx
  refine ⟨?_, ?_, ex_pair2 ?_ ⟨?_, ok_ex ?_, ?_⟩, ?_⟩
  all_goals (revert x; decide +kernel)

theorem witness_TrapYieldHalt : let s := onTile [] .unit
    s.cur.level = .unit ∧ (onTile [] .supervisor).cur.level = .supervisor ∧ 2 ≤ (2 : BitVec 11).toNat ∧
    (onTile [] .management).cur.level = .management ∧ s.cur.preq = false ∧
    (s.setCur { s.cur with preq := true }).cur.preq = true ∧ (s.setCur { s.cur with side := [anEntry] }).cur.side ≠ [] ∧
    s.saveHeld s.slot = false ∧ { s with remotes := [⟨1, true, aStream, 4096, none, none⟩] }.saveHeld 64 = true ∧
    s.cur.side = [] ∧ isTask s.slot = false ∧ s.cur.uid = some 1 := by decide +kernel

/-! ### Lane words -/

/-- Lane 511 with a word at its head and a stream that runs, its clock far on. -/
def laneAt (l : Lane) : State :=
  { (State.reset.setLane 511 { l with running := true, scrubbing := false, words := [aWord 0] }).setStack 7
      { Stack.init with cclk := 0x100000, refclk := 0x1000 } with
    lane := 511 }

theorem goes_of {s : State} {idle : BitVec 6} {t : Nat}
    (h : decide ((s.laneStopped (s.laneOf s.lane) s.lane t (fun _ => false) = false) ∧
      t = (s.laneOf s.lane).nominal idle.toNat ∧ (s.laneOf s.lane).deps = [] ∧ (s.laneOf s.lane).arrayFree ≤ t ∧
      (s.laneOf s.lane).fence ≤ t ∧ ((s.laneOf s.lane).stallAt ≤ t → (s.laneOf s.lane).stall ≤ t) ∧
      (s.laneOf s.lane).headAt ≤ t ∧ t ≤ s.laneClk s.lane) = true) : LaneGoes s idle t := by
  obtain ⟨a, b, c, d, e, f, g, h⟩ := of_decide_eq_true h
  exact ⟨a, b, c, d, e, f, g, h⟩

/-- At tick 63 with 63 idle ticks, and at tick 64, a multiple of 64, with none. -/
theorem witness_LaneSettingsAndAccumulators_goes :
    LaneGoes (laneAt Lane.init) 63 63 ∧ LaneGoes (laneAt { Lane.init with after := 64 }) 0 64 ∧ (64 : Nat) % 64 = 0 :=
  ⟨goes_of (by decide +kernel), goes_of (by decide +kernel), rfl⟩

theorem witness_LaneSettingsAndAccumulators_settings :
    WFmt.ofCode (4 : BitVec 4).toNat = some .cb4 ∧ 16 * ((3 : BitVec 8).toNat + 1) % 64 = 0 ∧
    WFmt.ofCode (0 : BitVec 4).toNat = none ∧ 16 * ((2 : BitVec 8).toNat + 1) % 64 ≠ 0 ∧ (laneAt Lane.init).lane = 511 ∧
    ((laneAt Lane.init).laneOf 511).wrLast = [] ∧ ((laneAt Lane.init).laneOf 511).flags = 0 ∧
    ((laneAt Lane.init).laneOf 511).wbufs = [] := by decide +kernel

/-- Bank 63 closed, and with row 5 open in port 3. -/
def openBank : Lane :=
  { Lane.init with
    banks := [(63, { BankT.init with row := some 5, deadline := 0x200000 })], ports := [(3, ⟨[(63, 5)], 0, true⟩)] }

theorem witness_LaneBanks : let s := laneAt Lane.init; let o := laneAt openBank
    let l := s.laneOf 511; let m := o.laneOf 511; let h : LaneAddr := ⟨63, 15, 3, 12287⟩
    LaneGoes s h.idle 63 ∧ LaneGoes o h.idle 63 ∧ h.b = 63 ∧ (l.bankT 63).ready ≤ 63 ∧ l.actFloor 15 ≤ 63 ∧ l.actExt 15 ≤ 63 ∧
    (l.bankT 63).extReady ≤ 63 ∧ (l.bankT 63).extRef = 0 ∧ (l.bankT 63).row = none ∧ (l.port 3).valid = true ∧ (l.port 3).pos = 0 ∧
    (l.port 3).banks.length < 8 ∧ ((laneAt { Lane.init with ports := [(3, ⟨[], 0, false⟩)] }).laneOf 511).port 3 = ⟨[], 0, false⟩ ∧
    (m.bankT 63).row ≠ none ∧ (m.bankT 63).ready ≤ 63 ∧ m.actFloor 15 ≤ 63 ∧ m.actExt 15 ≤ 63 ∧ l.fills = [] ∧ m.fills = [] ∧ (m.bankT 63).extReady ≤ 63 ∧
    (m.bankT 63).mayClose ≤ 63 ∧ (m.bankT 63).fillHold ≤ 63 ∧
    (∀ k ∈ portsOf 8, ∀ y ∈ (m.port k).banks, (m.bankT y.1).mayClose ≤ 63 ∧ (m.bankT y.1).fillHold ≤ 63) ∧
    64 * (4064 : BitVec 12).toNat ≤ 260096 ∧ s.poison = [] ∧ s.sumPending l 260096 262144 = false ∧
    (l.wbufs.filter (fun w => w.lane && w.bank / 4 == 15)).length < 2 := by
  refine ⟨goes_of ?_, goes_of ?_, ?_⟩ <;> decide +kernel

/-- A run of 256 zeros from bank 7 to I8, codes in the last 256 bytes of lane scratch; the descriptor stands at 64. -/
def quantLane : State :=
  { (laneAt { Lane.init with kc := 256, lctr := 3 }) with
    scratch := Memory.writeN [] (scratchAddr 511 64) (bytesOf 32 (255 * 2 ^ 104 + 7 * 2 ^ 101 + 0x3FF00 * 2 ^ 128 + 0x3F800000)),
    sums := [(9, { stack := 7, lctr := 3, k := 0, alone := none, inst := 9, contribs := [], absent := [], absentAt := 0, result := none,
                   relay := none, written := false })] }

theorem witness_LaneSettingsAndAccumulators_words : let s := quantLane; let l := s.laneOf 511
    let q : QDesc := ⟨ofBytes (Memory.readN s.scratch (scratchAddr 511 64) 32)⟩
    LaneGoes s 0 0 ∧ (255 : BitVec 12).toNat + 1 ≤ 256 ∧ 1024 * (255 : BitVec 8).toNat + 4 * 256 ≤ 0x40000 ∧
    s.sumPending l (1024 * 255) (1024 * 255 + 1024) = false ∧ 256 < (256 : BitVec 12).toNat + 1 ∧
    (3 : BitVec 12).toNat ≤ 3 ∧ s.vfifoHeld 511 3 0 [(256 * 63, 256 * 63 + 256)] = false ∧
    l.landFloor 3 [(256 * 63, 256 * 63 + 256)] ≤ 0 ∧ l.kc ≤ 256 ∧ ((0 : BitVec 3) ≠ 1 ∧ (0 : BitVec 3) ≠ 2 ∧ (1 : BitVec 3) ≠ 2) ∧
    QTgt.ofCode q.tgt = some .i8 ∧ q.check (some .i8) = 0 ∧ q.n = 256 ∧ q.src = false ∧ q.eload = false ∧ q.esave = false ∧
    s.sumPending l 64 96 = false ∧ s.sumPending l q.dst (q.dst + codeBytes .i8 q.n) = false ∧ l.landFloor q.index [] ≤ 0 ∧
    s.vfifoHeld 511 q.index 0 [] = false ∧ s.poison = [] ∧ s.openSums l 511 < 4 ∧ l.sumFree ≤ 0 ∧ (incoming (SMap.get l.e ⟨0, 0, 0⟩ q.eddy) q.tag q.start).2 = false ∧
    s.sumFor l 511 = some 9 ∧ (SMap.find s.sums 9).isSome = true := by
  refine ⟨goes_of ?_, ?_⟩ <;> decide +kernel

/-- BF16 weights of KC 16 from one open row. -/
def arrayLane : State :=
  laneAt { openBank with ports := [(3, ⟨[(63, 5)], 2016, true⟩)], fmt := 5, kc := 16, xb := 0, after := 26 }

theorem witness_ArrayWords : let h : LaneHdr := ⟨0, 0, 0⟩
    ∀ w ∈ ([⟨.gemv, h, 3, 3, 7, 248⟩, ⟨.gemvb 8, h, 3, 3, 0, 192⟩, ⟨.dotk, h, 3, 3, 7, 248⟩, ⟨.axpv 1, h, 3, 0, 7, 240⟩] : List ArrayWord),
    ArrayGoes arrayLane w 26 .bf16 := by
  intro h w hw
  have hd : ∀ w ∈ ([⟨.gemv, h, 3, 3, 7, 248⟩, ⟨.gemvb 8, h, 3, 3, 0, 192⟩, ⟨.dotk, h, 3, 3, 7, 248⟩, ⟨.axpv 1, h, 3, 0, 7, 240⟩] :
      List ArrayWord), let s := arrayLane; let l := s.laneOf s.lane
      w.h.idle = 0 ∧ WFmt.ofCode l.fmt = some .bf16 ∧ l.arrayCheck w w.y0 = 0 ∧ l.portFloor (l.wordPorts w) ≤ 26 ∧
      l.portExt (l.wordPorts w) ≤ 26 ∧ l.landFloor w.buf (w.bufReads l.xb l.kc) ≤ 26 ∧
      s.vfifoHeld s.lane w.buf 26 (w.bufReads l.xb l.kc) = false ∧
      s.sumPending l (l.scaleRange w).1 (l.scaleRange w).2 = false ∧ s.poison = [] := by decide +kernel
  obtain ⟨h0, h1, h2, h3, h4, h5, h6, h7, h8⟩ := hd w hw
  exact ⟨by rw [h0]; exact goes_of (by decide +kernel), h1, h2, h3, h4, h5, h6, h7, h8⟩
/-- The unit before the last, and the last of a WRROW; 16 bytes at the end of lane scratch. -/
theorem witness_LaneBanks_arrivals : let s := laneAt Lane.init
    (126 : Nat) < 127 ∧ (List.replicate 16 (7 : Byte)).length = 16 ∧ s.poison = [] ∧ s.scratchWas = [] ∧ (s.laneOf 511).running = true ∧
    0x3FFF0 + (List.replicate 16 (7 : Byte)).length ≤ 0x40000 ∧ (0x3FFEF : Nat) < 0x40000 ∧ (0x3FFEF : Nat) < 0x3FFF0 := by
  decide +kernel

/-- A GEMV of 16 weights from one bank: its first tick, its last, and one whose port holds no row. -/
theorem witness_ArrayWords_executions : let s := arrayLane; let l := s.laneOf 511
    let w : ArrayWord := ⟨.gemv, ⟨0, 0, 0⟩, 3, 3, 7, 248⟩
    let x := l.newRun (.array w) w.h 26 []
    let y := { x with got := List.replicate 16 0 }
    let nb := x.kc * WFmt.bf16.bits / 8
    let got (x : LRun) := x.got.length + min (nb - x.got.length) (16 - (x.r * nb + x.got.length) % 16)
    WFmt.ofCode x.fmt = some .bf16 ∧ s.poison = [] ∧ x.got = [] ∧ (l.underRun x).arrayCheck w (w.h.stepped w.y0 x.r) = 0 ∧
    got x < nb ∧ nb ≤ got y ∧ y.got ≠ [] ∧ 0 ≤ w.h.stepped w.y0 y.r ∧ w.h.stepped w.y0 y.r ≤ 255 ∧
    (l.underRun y).scalePort ≠ some w.port ∧
    ({ l with ports := [] }.underRun x).arrayCheck w (w.h.stepped w.y0 x.r) ≠ 0 := by
  decide +kernel

/-! ### Records -/

/-- Whether an attempt goes on. -/
def tryOk {α : Type} (t : Try α) : Bool := match t with | .ok _ _ => true | _ => false

/-- The state and the result of an attempt that goes on. -/
def tryGet {α : Type} (d : α) (t : Try α) : State × α := match t with | .ok s a => (s, a) | _ => (State.reset, d)

theorem try_eq {α : Type} {t : Try α} (d : α) (h : tryOk t = true) : t = .ok (tryGet d t).1 (tryGet d t).2 := by
  cases t with
  | ok s a => rfl
  | wait _ _ => simp [tryOk] at h
  | fault _ _ _ => simp [tryOk] at h

/-- A record of a type as the head of queue `q` of tile core 32, with bytes in the scratchpad. -/
def engineAt (q : Nat) (r : Rec) (bytes : List (Nat × List Byte)) : State :=
  let xt : SMap (BitVec 128) := [(0, 0x80000000000100000000000000000000), (1, 0xC0000000000100000000000000010000)]
  { ((onTile [] .unit).setEngq (256 + q) { EngQ.init with recs := [r] }) with
    queue := 256 + q, units := [(1, { Unit.init with xtab := xt })],
    spad := bytes.foldl (fun m b => Memory.writeN m (spadAddr 32 b.1) b.2) [] }

/-- The conditions of a pop, with no record in flight. -/
def goesB (s : State) (limit : Nat) (r : Rec) : Bool :=
  decide ((s.engq s.queue).recs = [r] ∧ r.todo = false ∧ (s.engq s.queue).run = [] ∧
    (s.engq s.queue).run.length < limit ∧ (!r.chained && s.paced s.queue) = false ∧
    r.gctr = none ∧ (!r.cen || (r.gctr.isSome && !r.link) || (popped s r []).ctrFits (s.recParty (s.queue / 8) r) r.ctr) = true)

theorem recordGoes_of {s : State} {limit : Nat} {r : Rec} (h : goesB s limit r = true) : RecordGoes s limit r [] := by
  obtain ⟨a, b, c, d, e, g, f⟩ := of_decide_eq_true h
  exact ⟨a, b, by rw [c]; simp, d, e, .inl g, f⟩

/-- No operand, and none that waits. -/
def noOpnd : Opnd := ⟨[], none⟩

/-- Where no page is checked, no byte is of a shadow. -/
theorem unshadowed_of {s t : State} (hs : s.checked = []) (ht : t.checked = []) (l : Loc) : l.unshadowed s t := by
  intro pa k _
  simp [State.shadows, hs, ht]

/-- The descriptor's place in the scratchpad. -/
def descAt : Word := 0x1000000000000040

/-- The head record popped, and its descriptor read. -/
def descRead (s : State) (r : Rec) : State × List Byte :=
  tryGet [] ((popped s r []).readDesc (s.recParty 32 r) descAt 64 64)

/-- A COPY of two rows of 16 bytes from second-tier memory to the end of the scratchpad, under OR, with its source
lines pinned. -/
def copyDesc : List Byte :=
  bytesOf 8 0xFFE0 ++ bytesOf 8 0x10000000003FFFE0 ++ bytesOf 16 0 ++ bytesOf 4 16 ++ bytesOf 2 1 ++ bytesOf 2 0 ++
    bytesOf 4 16 ++ bytesOf 4 16 ++ bytesOf 16 0

theorem witness_CopyRecords :
    let r := aRecord (BitVec.ofNat 128 (1 * 2 ^ 122 + 5 * 2 ^ 94 + 2 ^ 91)); let s := engineAt 0 r [(64, copyDesc)]
    let p := s.recParty 32 r
    let ranges (a : Word) := (List.range 2).map (fun i => (rowAt a 16 i, 16))
    let x1 := descRead s r
    let d := CopyDesc.ofDesc x1.2
    let x2 := tryGet noOpnd (x1.1.operands p .load (copyWindows 32).1 (ranges d.src))
    let x3 := tryGet noOpnd (x2.1.operands p .store (copyWindows 32).2 (ranges d.dst))
    let x4 := tryGet none (x3.1.barCheck p d.bar)
    let from0 (i : Nat) := locsAt x2.2.locs (rowAt d.src 16 i); let goal (i : Nat) := locsAt x3.2.locs (rowAt d.dst 16 i)
    s.MemWf ∧ s.poison = [] ∧ RecordGoes s 4 r [] ∧ classOf (s.queue / 8) = .tile ∧
    tryOk ((popped s r []).readDesc p descAt 64 64) = true ∧ x1.2 = copyDesc ∧ (dfield x1.2 38 2 = 0 ∧ dfield x1.2 48 16 = 0 ∧
      d.rows = 2 ∧ d.len = 16 ∧ d.sstr = 16 ∧ d.dstr = 16 ∧ d.fits 5 false 1 = true) ∧
    (tryOk (x1.1.operands p .load (copyWindows 32).1 (ranges d.src)) = true ∧
      tryOk (x2.1.operands p .store (copyWindows 32).2 (ranges d.dst)) = true ∧ tryOk (x3.1.barCheck p d.bar) = true) ∧
    (x4.2 = none ∧ x2.2.wait = none ∧ x3.2.wait = none ∧ x4.1.copyHeld 32 p { r with desc := x1.2, todo := false } d = false ∧
      x4.1.mem = s.mem ∧ x4.1.memKey = s.memKey) ∧
    (s.pinnedBy 32).length + ((linesOf (x2.2.locs.flatMap (·.2))).filter (fun l => !(s.pinnedBy 32).contains l)).length ≤ 2048 ∧
    (∀ i, i < 2 → (from0 i).length = 16 ∧ (goal i).length = 16) ∧
    PlainLocs ((List.range 2).flatMap (fun i => from0 i ++ goal i)) 0 ∧ (∀ l, Loc.unshadowed x4.1 x4.1 l) ∧
    (∀ i, i < 2 → ∀ j, j < 2 → ∀ l ∈ from0 i, l ∉ goal j) ∧ ((List.range 2).flatMap goal).Nodup := by
  intro r s p ranges x1 d x2 x3 x4 from0 goal
  have hp : PlainLocs ((List.range 2).flatMap (fun i => from0 i ++ goal i)) 0 := plain_of (by decide +kernel)
  have hc : x4.1.checked = [] := by decide +kernel
  have hd : dfield x1.2 38 2 = 0 ∧ dfield x1.2 48 16 = 0 ∧ d.rows = 2 ∧ d.len = 16 ∧ d.sstr = 16 ∧ d.dstr = 16 ∧
      d.fits 5 false 1 = true := by decide +kernel
  have ht : tryOk (x1.1.operands p .load (copyWindows 32).1 (ranges d.src)) = true ∧
      tryOk (x2.1.operands p .store (copyWindows 32).2 (ranges d.dst)) = true ∧ tryOk (x3.1.barCheck p d.bar) = true := by
    decide +kernel
  have hm : x4.2 = none ∧ x2.2.wait = none ∧ x3.2.wait = none ∧
      x4.1.copyHeld 32 p { r with desc := x1.2, todo := false } d = false ∧ x4.1.mem = s.mem ∧ x4.1.memKey = s.memKey := by
    decide +kernel
  exact ⟨wf_of rfl (by decide +kernel), by decide +kernel, recordGoes_of (by decide +kernel), by decide +kernel, by decide +kernel,
    by decide +kernel, hd, ht, hm, by decide +kernel, by decide +kernel, hp, unshadowed_of hc hc, by decide +kernel⟩

/-- An MTILE of one row and one column of 16 BF16 elements; its format word stands in the format queue. -/
def mtileDesc : List Byte := bytesOf 8 0x1000000000001000 ++ bytesOf 8 0x10000000003FFFE0 ++ bytesOf 48 0

theorem witness_MatrixAndEpilogueRecords_matrix :
    let r := aRecord (BitVec.ofNat 128 (2 * 2 ^ 122)); let s0 := engineAt 1 r [(64, mtileDesc)]
    let s := s0.setCore 32 { s0.core 32 with fmtq := [(1, 0x5000001000000000)] }
    let p := s.recParty 32 r
    let x1 := descRead s r
    let d := MtileDesc.ofDesc x1.2
    let x2 := tryGet noOpnd (x1.1.operands p .load [1, 2] [(strideAt d.a d.astr 0, 32)])
    let x3 := tryGet noOpnd (x2.1.operands p .load [0, 1, 2] [(strideAt d.b d.bstr 0, 32)])
    let x4 := tryGet noOpnd (x3.1.operands p .load [0, 1, 2] [(strideAt d.bs d.sstr 0, 0)])
    RecordGoes s 1 r [] ∧ RecordGoes s 33 r [] ∧ (s.core 32).fmtq.length < 16 ∧ (s.engq s.queue).run = [] ∧
    (let full := s.setCore 32 { s0.core 32 with fmtq := List.replicate 16 (1, 0) }
     goesB full 33 r = true ∧ 16 ≤ (full.core 32).fmtq.length) ∧
    s.poison = [] ∧ (s.engq 258).earlier 3 0 r.seq = false ∧ tryOk ((popped s r []).readDesc p descAt 64 64) = true ∧
    x1.2 = mtileDesc ∧ dfield x1.2 50 14 = 0 ∧ tryOk (x1.1.mtileWord 32 r false d.kc) = true ∧
    (tryGet (.mxi8, 0) (x1.1.mtileWord 32 r false d.kc)).2 = (.bf16, 16) ∧ WFmt.bytes .bf16 16 = 32 ∧
    WFmt.scaleBytes .bf16 16 = 0 ∧ tryOk (x1.1.operands p .load [1, 2] [(strideAt d.a d.astr 0, 32)]) = true ∧
    tryOk (x2.1.operands p .load [0, 1, 2] [(strideAt d.b d.bstr 0, 32)]) = true ∧
    tryOk (x3.1.operands p .load [0, 1, 2] [(strideAt d.bs d.sstr 0, 0)]) = true ∧
    x2.2.wait = none ∧ x3.2.wait = none ∧ x4.2.wait = none ∧ x4.1.mem = s.mem ∧ x4.1.memKey = s.memKey := by
  refine ⟨recordGoes_of ?_, recordGoes_of ?_, ?_⟩ <;> decide +kernel

/-- An EPI of one row of 16 elements to I8, with its eddy image loaded and saved, in strict mode. -/
def epiDesc : List Byte :=
  bytesOf 8 0x10000000003FFFF0 ++ bytesOf 8 0 ++ bytesOf 8 0x1000000000001000 ++ bytesOf 4 0 ++ bytesOf 4 0x3F800000 ++
    bytesOf 8 0 ++ bytesOf 1 255 ++ bytesOf 23 0

theorem witness_MatrixAndEpilogueRecords_epilogue :
    let r := aRecord (BitVec.ofNat 128 (3 * 2 ^ 122)); let s := engineAt 2 r [(64, epiDesc)]
    let p := s.recParty 32 r
    let x1 := descRead s r
    let d := EpiDesc.ofDesc x1.2
    let x2 := tryGet noOpnd (x1.1.operands p .store [0, 1, 2, 3] [(strideAt d.dst d.dstr 0, 16)])
    let x3 := tryGet noOpnd (x2.1.operands p .store [0, 1, 2, 3] [])
    let x4 := tryGet noOpnd (x3.1.operands p .load [1, 2] [(strideAt d.eimg 16 0, 16)])
    let x5 := tryGet noOpnd (x4.1.operands p .store [1, 2] [(strideAt d.eimg 16 0, 16)])
    let ed := eddyOfImage (ofBytes ((locsAt x4.2.locs d.eimg).map s.readLoc))
    let run := d.run (some .i8) ed.1 ((List.range 16).map (fun k => (false, SMap.get (s.core 32).tiles 0 (tilePlace 0 0 k))))
    let codes := locsAt x2.2.locs (strideAt d.dst d.dstr 0); let images := locsAt x5.2.locs d.eimg
    s.MemWf ∧ s.poison = [] ∧ RecordGoes s 1 r [] ∧
    ((s.engq 257).earlier 2 0 r.seq = false ∧ tryOk ((popped s r []).readDesc p descAt 64 64) = true ∧ x1.2 = epiDesc ∧
      dfield x1.2 41 7 = 0 ∧ dfield x1.2 56 8 = 0 ∧ d.fits (some .i8) 3 1 = true) ∧
    (tryOk (x1.1.operands p .store [0, 1, 2, 3] [(strideAt d.dst d.dstr 0, 16)]) = true ∧
      tryOk (x2.1.operands p .store [0, 1, 2, 3] []) = true ∧
      tryOk (x3.1.operands p .load [1, 2] [(strideAt d.eimg 16 0, 16)]) = true ∧
      tryOk (x4.1.operands p .store [1, 2] [(strideAt d.eimg 16 0, 16)]) = true) ∧
    ((incoming ed.1 d.tag d.start).2 = false ∧ codes.length = run.1.length ∧ ([] : List Loc).length = run.2.1.length ∧
      images.length = 16) ∧
    (x2.2.wait = none ∧ x3.2.wait = none ∧ x4.2.wait = none ∧ x5.2.wait = none ∧ x5.1.mem = s.mem ∧ x5.1.memKey = s.memKey) ∧
    PlainLocs (codes ++ images) 0 := by
  intro r s p x1 d x2 x3 x4 x5 ed run codes images
  have hp : PlainLocs (codes ++ images) 0 := plain_of (by decide +kernel)
  have hg : RecordGoes s 1 r [] := recordGoes_of (by decide +kernel)
  have hd : (s.engq 257).earlier 2 0 r.seq = false ∧ tryOk ((popped s r []).readDesc p descAt 64 64) = true ∧ x1.2 = epiDesc ∧
      dfield x1.2 41 7 = 0 ∧ dfield x1.2 56 8 = 0 ∧ d.fits (some .i8) 3 1 = true := by decide +kernel
  have ht : tryOk (x1.1.operands p .store [0, 1, 2, 3] [(strideAt d.dst d.dstr 0, 16)]) = true ∧
      tryOk (x2.1.operands p .store [0, 1, 2, 3] []) = true ∧
      tryOk (x3.1.operands p .load [1, 2] [(strideAt d.eimg 16 0, 16)]) = true ∧
      tryOk (x4.1.operands p .store [1, 2] [(strideAt d.eimg 16 0, 16)]) = true := by decide +kernel
  have hl : (incoming ed.1 d.tag d.start).2 = false ∧ codes.length = run.1.length ∧
      ([] : List Loc).length = run.2.1.length ∧ images.length = 16 := by decide +kernel
  exact ⟨wf_of rfl (by decide +kernel), by decide +kernel, hg, hd, ht, hl, by decide +kernel, hp⟩

theorem witness_NodesAndSlots_nodes :
    let r := aRecord (BitVec.ofNat 128 (8 * 2 ^ 122 + 255 * 2 ^ 97)); let s := engineAt 3 r []
    let r0 := aRecord (BitVec.ofNat 128 (8 * 2 ^ 122)); let s0 := engineAt 3 r0 []
    RecordGoes s 33 r [] ∧ RecordGoes s0 33 r0 [] ∧ r0.nid = 0 ∧ r.uid = some 1 ∧ r.gctr = none ∧ (1 : Nat) < 2 ^ 32 ∧
    (s.unit? 1).isSome = true ∧ r.nid = 255 ∧ (s.node r.owner 255).declared = false ∧
    (s.node r.owner 255).credit ≤ (0 : BitVec 12).toNat := by
  refine ⟨recordGoes_of ?_, recordGoes_of ?_, ?_⟩ <;> decide +kernel

/-- A write of 16 bytes to the own member, and one reduced chunk to be converted. -/
def qpwDesc : List Byte :=
  bytesOf 8 0x1000000000001000 ++ bytesOf 8 0x010000000000FFF0 ++ bytesOf 16 0 ++ bytesOf 4 16 ++ bytesOf 28 0
def raftaDesc : List Byte :=
  bytesOf 8 0x1000000000001000 ++ bytesOf 8 0x1000000000002000 ++ bytesOf 8 0x10000000003FFFFF ++ bytesOf 4 1 ++ bytesOf 36 0

theorem witness_NodesAndSlots_slots : ∀ x ∈ ([(qpwDesc, .write 0), (raftaDesc, .back)] : List (List Byte × Entry)),
    let r := aRecord (BitVec.ofNat 128 (0x10 * 2 ^ 122 + 63 * 2 ^ 91)); let s := engineAt 4 r [(64, x.1)]
    let p := s.recParty 32 r; let s1 := (descRead s r).1
    let full := s.setCslot 32 63 ⟨none, some (.time 0 0, r)⟩
    (63 : BitVec 6) ≠ 0 ∧ r.fired = false ∧ s.slotTaken 32 63 r.seq = false ∧ (s.cslot 32 63).entry = none ∧ (s.cslot 32 63).trigger = none ∧ s.rafts = [] ∧
    goesB s 80 r = true ∧ tryOk ((popped s r []).readDesc p descAt 64 64) = true ∧ (descRead s r).2 = x.1 ∧
    (s1.mem = s.mem ∧ s1.memKey = s.memKey ∧ tryOk (s1.entryCheck x.2 p x.1) = true ∧
      (tryGet .unit (s1.entryCheck x.2 p x.1)).1 = s1) ∧
    (withRegs s counters0).ctrFits p 8191 = true ∧ (full.cslot 32 63).trigger ≠ none ∧ goesB full 80 r = true ∧
    r.chained = false := by decide +kernel

/-- The job's shared map is at 0xFFE0: its entry 1 is 64 KiB at 0x20000, and the others, in a discarded page, are zero. -/
def sharedTable (s : State) : State :=
  { s with
    mem := putBytes [] 0xFFE0 (bytesOf 16 0 ++ bytesOf 16 0xC0000000000100000000000000020000), memKey := [(511, 0)],
    regs := [(0x2000A, 0xFFE0)],
    runs := s.runs ++ [(2 ^ 32 * 8192, ⟨.present 0, false, false, 0⟩), (2 ^ 32 * 8192 + 1, ⟨.discarded, false, false, 0⟩),
      (2 ^ 32 * 8192 + 2, ⟨.present 0x20000, true, false, 0⟩)] }

theorem sharedTable_wf {s : State}
    (h' : (Memory.wf s.spad && Memory.wf s.scratch && Memory.wf s.bufs && Memory.wf s.bank && Memory.wf s.fwMem &&
      Memory.wf s.spillMem && Memory.wf s.subWin) = true) : (sharedTable s).MemWf := by
  simp only [Bool.and_eq_true] at h'
  obtain ⟨⟨⟨⟨⟨⟨a, b⟩, c⟩, d⟩, e⟩, f⟩, g⟩ := h'
  refine ⟨show Memory.wfWritten (putBytes [] 0xFFE0 (bytesOf 16 0 ++ bytesOf 16 0xC0000000000100000000000000020000)) = true by
      decide +kernel, show SMap.sorted [(511, 0)] = true by decide, a, b, c, d, e, f, g, ?_⟩
  intro x hx
  have hm : ∀ m : List Host.Cell, (Memory.read? m x).isSome = true → ∃ v, (x, v) ∈ m := by
    intro m
    induction m with
    | nil => intro h; simp [Memory.read?, SMap.find] at h
    | cons y ys ih =>
      intro h
      obtain ⟨k, v⟩ := y
      simp only [Memory.read?, SMap.find] at h ih
      split at h
      · rename_i he; exact ⟨v, by simp_all⟩
      · obtain ⟨w, hw⟩ := ih (by simpa using h); exact ⟨w, List.mem_cons_of_mem _ hw⟩
  obtain ⟨v, hv⟩ := hm _ hx
  have hk : (putBytes [] 0xFFE0 (bytesOf 16 0 ++ bytesOf 16 0xC0000000000100000000000000020000)).all
      (fun c => c.1 / 128 == 511) = true := by decide
  have := List.all_eq_true.mp hk _ hv
  simp only [beq_iff_eq] at this
  show (SMap.find [(511, 0)] (x / 128)).isSome = true
  rw [this]; rfl

theorem spads_nodup (o n : Nat) : (spads o n).Nodup := by
  unfold spads List.Nodup
  rw [List.pairwise_map]
  exact List.nodup_range.imp (fun {a b} h hab => h (by simp at hab; omega))

theorem mem_spads {o n : Nat} {l : Loc} : l ∈ spads o n ↔ ∃ i, i < n ∧ l = .spad 32 (o + i) := by
  simp [spads, eq_comm]

theorem witness_CollectiveRecords_write :
    let r := aRecord (BitVec.ofNat 128 (0x10 * 2 ^ 122)); let s := sharedTable (engineAt 4 r [(64, qpwDesc)])
    let p := s.recParty 32 r
    let x1 := descRead s r
    let d := QpwDesc.ofDesc x1.2
    let x2 := tryGet noOpnd (x1.1.operand p .load [0, 1, 2, 3] d.src d.len)
    let x3 := tryGet noOpnd (x2.1.operand (x1.1.sharedParty p) .store [0] d.dst d.len)
    let x4 := tryGet none (x3.1.barCheck p d.bar); let x5 := tryGet none (x4.1.barCheck p d.rbar)
    let src := locsAt x2.2.locs d.src; let dst := locsAt x3.2.locs d.dst
    s.MemWf ∧ s.poison = [] ∧ s.rafts = [] ∧ RecordGoes s 16 r [] ∧ (s.engq 260).started < 16 ∧
    (tryOk ((popped s r []).readDesc p descAt 64 64) = true ∧ x1.2 = qpwDesc ∧ (5 : BitVec 3).toNat ≤ 5 ∧
      tryOk (x1.1.qpwCheck 5 p x1.2) = true ∧ (tryGet .unit (x1.1.qpwCheck 5 p x1.2)).1 = x1.1 ∧
      p.task = false ∧ tryOk (x1.1.mapReady p.job) = true ∧ (tryGet .unit (x1.1.mapReady p.job)).1 = x1.1 ∧ d.dm = x1.1.jobMemb p.job) ∧
    (tryOk (x1.1.operand p .load [0, 1, 2, 3] d.src d.len) = true ∧
      tryOk (x2.1.operand (x1.1.sharedParty p) .store [0] d.dst d.len) = true ∧ tryOk (x3.1.barCheck p d.bar) = true ∧
      tryOk (x4.1.barCheck p d.rbar) = true ∧ x2.2.wait = none ∧ x3.2.wait = none ∧ x4.2 = none ∧ x5.2 = none) ∧
    PlainLocs (src ++ dst ++ []) 0 ∧ ((∀ l ∈ src ++ [], l ∉ dst) ∧ dst.Nodup ∧ src.length = d.len ∧ dst.length = d.len ∧
      d.len = 16) ∧ (x5.1.mem = s.mem ∧ x5.1.memKey = s.memKey) ∧ ∀ l ∈ src ++ dst, l.unshadowed x5.1 x5.1 := by
  intro r s p x1 d x2 x3 x4 x5 src dst
  have hc : x5.1.checked = [] := by decide +kernel
  refine ⟨sharedTable_wf ?_, ?_, ?_, recordGoes_of ?_, ?_, ?_, ?_, plain_of ?_, ?_, ?_, fun l _ => unshadowed_of hc hc l⟩
  all_goals decide +kernel

/-- RAFTX of one chunk in group 63 of two members. -/
def raftxDesc : List Byte :=
  bytesOf 8 0x1000000000001000 ++ bytesOf 8 0x1000000000002000 ++ bytesOf 8 0 ++ bytesOf 4 1 ++ bytesOf 2 63 ++ bytesOf 1 1 ++
    bytesOf 33 0

theorem witness_CollectiveRecords_reduce :
    let r := aRecord (BitVec.ofNat 128 (0x14 * 2 ^ 122))
    let s := withRegs (engineAt 4 r [(64, raftxDesc)]) [((0xA00010 + 0x40 * 63) / 8, 0x8000000000000001)]
    let p := s.recParty 32 r
    let x1 := descRead s r
    let d := RaftxDesc.ofDesc x1.2
    let x2 := tryGet ([], none) (x1.1.chunksAt p .load d.src 272)
    let x3 := tryGet ([], none) (x2.1.chunksAt p .store d.dst 272)
    let x4 := tryGet none (x3.1.barCheck p d.bar)
    s.MemWf ∧ s.poison = [] ∧ s.rafts = [] ∧ RecordGoes s 16 r [] ∧ (s.engq 260).started < 16 ∧
    (tryOk ((popped s r []).readDesc p descAt 64 64) = true ∧ x1.2 = raftxDesc ∧ tryOk (x1.1.raftxCheck 0 p x1.2) = true ∧
      (tryGet .unit (x1.1.raftxCheck 0 p x1.2)).1 = x1.1 ∧ (x1.1.rg d.group).hold = false ∧ d.nchunk * chunkBytes 0 = 272) ∧
    (tryOk (x1.1.chunksAt p .load d.src 272) = true ∧ tryOk (x2.1.chunksAt p .store d.dst 272) = true ∧
      tryOk (x3.1.barCheck p d.bar) = true ∧ x2.2.2 = none ∧ x3.2.2 = none ∧ x4.2 = none ∧ x4.1.mem = s.mem ∧
      x4.1.memKey = s.memKey) ∧
    PlainLocs (x2.2.1 ++ x3.2.1 ++ []) 0 ∧ x2.2.1 = spads 0x1000 272 ∧ x3.2.1 = spads 0x2000 272 := by
  refine ⟨wf_of rfl ?_, ?_, ?_, recordGoes_of ?_, ?_, ?_, ?_, plain_of ?_, ?_, ?_⟩ <;> decide +kernel

theorem witness_CollectiveRecords_back :
    let r := aRecord (BitVec.ofNat 128 (0x15 * 2 ^ 122)); let s := engineAt 4 r [(64, raftaDesc), (0x3FFFFF, [254])]
    let p := s.recParty 32 r
    let x1 := descRead s r
    let x2 := tryGet ([], none) (x1.1.chunksAt p .load (dptr x1.2 0) 272)
    let x3 := tryGet ([], none) (x2.1.chunksAt p .store (dptr x1.2 8) 256)
    let x4 := tryGet ([], none) (x3.1.chunksAt p .load (dptr x1.2 16) 1)
    s.MemWf ∧ RecordGoes s 16 r [] ∧ (s.engq 260).started < 16 ∧
    (tryOk ((popped s r []).readDesc p descAt 64 64) = true ∧ x1.2 = raftaDesc ∧ dfield x1.2 24 4 = 1 ∧
      tryOk (x1.1.raftaCheck x1.2) = true ∧ (tryGet .unit (x1.1.raftaCheck x1.2)).1 = x1.1) ∧
    (tryOk (x1.1.chunksAt p .load (dptr x1.2 0) 272) = true ∧ tryOk (x2.1.chunksAt p .store (dptr x1.2 8) 256) = true ∧
      tryOk (x3.1.chunksAt p .load (dptr x1.2 16) 1) = true) ∧
    (x2.2 = (spads 0x1000 272, none) ∧ x3.2 = (spads 0x2000 256, none) ∧ x4.2 = (spads 0x3FFFFF 1, none)) ∧
    (x4.1.mem = s.mem ∧ x4.1.memKey = s.memKey ∧ ∀ l ∈ spads 0x3FFFFF 1, s.readLoc l ≠ 0 ∧ s.readLoc l ≠ 255) ∧
    (∀ l ∈ spads 0x1000 272 ++ spads 0x3FFFFF 1, l.unshadowed x4.1 x4.1) ∧
    PlainLocs (spads 0x1000 272 ++ spads 0x2000 256 ++ spads 0x3FFFFF 1) 0 ∧
    (∀ l ∈ spads 0x1000 272 ++ spads 0x3FFFFF 1, l ∉ spads 0x2000 256) ∧ (spads 0x2000 256).Nodup := by
  intro r s p x1 x2 x3 x4
  have hc : x4.1.checked = [] := by decide +kernel
  refine ⟨wf_of rfl ?_, recordGoes_of ?_, ?_, ?_, ?_, ?_, ?_, fun l _ => unshadowed_of hc hc l, plain_of ?_, ?_, spads_nodup _ _⟩
  case refine_9 =>
    intro l hl hm
    obtain ⟨j, hj, rfl⟩ := mem_spads.mp hm
    rcases List.mem_append.mp hl with h | h <;> obtain ⟨i, hi, he⟩ := mem_spads.mp h <;> simp at he <;> omega
  all_goals decide +kernel

/-- Slot 63 of core 32 with an entry and a trigger that is due, or not; with 16 records in flight the entry waits. -/
theorem witness_CollectiveRecords_slots : ∀ x ∈ ([(.counter 8191 1, 0, false), (.counter 8191 0, 0, true), (.time 0 0, 0, true),
      (.time 0 0, 16, true)] : List (Trigger × Nat × Bool)),
    let en := { aRecord (BitVec.ofNat 128 (0x10 * 2 ^ 122 + 63 * 2 ^ 91)) with desc := qpwDesc }; let tr := aRecord 0
    let s0 := sharedTable (engineAt 4 tr [])
    let s := (s0.setEngq 260 { EngQ.init with run := List.replicate x.2.1 tr }).setCslot 32 63 ⟨some en, some (x.1, tr)⟩
    let s1 := (s.setCslot 32 63 ⟨none, none⟩).finishRec tr true
    let e' := { en with fired := true, ts := match x.1 with | .time a w => some (a, w) | _ => none }
    let go := s1.entryRun 32 en.entry e' (s1.recParty 32 e') en.desc
    s.cslot 32 63 = ⟨some en, some (x.1, tr)⟩ ∧ s.triggerDue x.1 = x.2.2 ∧ ((s1.engq 260).started < 16 ↔ x.2.1 = 0) ∧
    (x.2.1 = 0 → tryOk go = true ∧ (tryGet none go).2.isSome = true) ∧ (x.2.1 = 16 → tryOk go = false) := by decide +kernel

/-! ### Events of lanes, sums and columns -/

/-- Lane 511 as given, its stack's clocks at 0x100000. -/
def laneAs (l : Lane) : State :=
  (State.reset.setLane 511 l).setStack 7 { Stack.init with cclk := 0x100000, refclk := 0x100000 }

theorem witness_StreamAndSumEvents_streams :
    let halt := aWord 0xFC0000000000
    let a := laneAs { Lane.init with words := [{ halt with arrived := 0x100000 }], scrubbing := false }
    let w : Issued := ⟨0x100000, none, false, none, 0, 0, 0⟩
    let b := laneAs { Lane.init with issued := [w] }
    let c := laneAs { Lane.init with fault := some 0x0C, words := [aWord 0, halt], discarding := true }
    let g := laneAs { Lane.init with fault := some 0x0C }
    let e : VEntry := ⟨0x8000, 3, 63, 0, 0x100000 - 12, none⟩
    let d := (laneAs Lane.init).setQuad 31 { Quad.init with vfifo := [e] }
    ((a.laneOf 511).align = none ∧ (a.laneOf 511).words = [{ halt with arrived := 0x100000 }] ∧ (a.laneOf 511).free = true ∧
      (a.laneOf 511).scrubbing = false ∧ (a.stackOf (511 / 64)).overt = false ∧
      (a.laneOf 511).wbufs = [] ∧ max 0x100000 (a.laneOf 511).after ≤ a.laneClk 511) ∧
    ((b.laneOf 511).issued = [w] ∧ b.mayRetire 511 w true = true ∧ w.halt = false) ∧
    ((c.laneOf 511).fault = some 0x0C ∧ (0x0C : Nat) ≠ 0x0D ∧ (c.laneOf 511).discarding = true ∧
      (c.laneOf 511).words.dropWhile (fun w => !w.isHalt) = [halt]) ∧ ((g.laneOf 511).fault = some 0x0C ∧ (g.laneOf 511).discarding = false) ∧
    ((d.quadOf 31).vfifo = [e] ∧ e.buf < 4 ∧ e.slot < 64 ∧ max (e.accepted + 12) ((d.quadOf 31).lastLand + 2) ≤ d.cclk (31 / 4)) := by
  decide +kernel

/-- A sum of 256 elements of lane 496 alone; the same in a ring of two stacks; and one that nothing has come to. -/
def aSum (stack : Nat) (cs : List Contrib) : Sum :=
  { stack := stack, lctr := 0, k := 0, alone := none, inst := 4, contribs := cs, absent := [], absentAt := 0, result := none, relay := none,
    written := false }

def summing (xs : SMap Sum) : State := { laneAs Lane.init with sums := xs }

theorem witness_StreamAndSumEvents_sums :
    let x := aSum 7 [⟨511, 0, false, List.replicate 256 0, 0x100000 - 8⟩]
    let s := summing [(4, x)]; let r := summing [(4, x), (5, aSum 0 [])]
    let y := { aSum 0 [] with result := some [0] }
    (SMap.find s.sums 4 = some x ∧ x.result = none ∧ x.written = false ∧ (∀ q ∈ s.sumQuads x, s.quadSettled x q = true) ∧
      x.contribs ≠ [] ∧ (s.sumQuads x).length ≤ 1 ∧ x.contribs.foldl (fun m c => max m c.done) 0 + 8 ≤ s.cclk 7 ∧
      max (x.contribs.foldl (fun m c => max m c.done) 0 + 8) x.absentAt ≤ s.cclk x.stack ∧ x.absentAt ≤ 8 ∧ s.poison = [] ∧
      s.ringed x = false ∧ x.merge = false ∧ 4 * (combine x.contribs).length ≤ 1024) ∧
    (r.ringed x = true ∧ (∀ q ∈ r.sumQuads x, r.quadSettled x q = true)) ∧
    (let t := summing [(4, aSum 7 []), (5, y)]
     SMap.find t.sums 5 = some y ∧ y.result = some [0] ∧ y.written = false ∧ y.relay = none ∧
      ∀ z ∈ t.sums, z.2.inst = y.inst → y.stack ≤ z.2.stack) ∧
    (let z := aSum 7 []
     (3 : Nat) < 4 ∧ 3 ∉ z.absent ∧ z.ofQuad (4 * z.stack + 3) = [] ∧ (summing [(4, z)]).quadOver z 3 = true) := by
  decide +kernel

theorem witness_ColumnEvents :
    let others := (List.range 63).map (fun k => (k, { BankT.init with deadline := 0x200000 }))
    let s := laneAs { Lane.init with banks := others ++ [(63, { BankT.init with due := true, deadline := 0x100000 })] }
    let l := s.laneOf 511; let x := l.bankT 63
    let run := laneAt { Lane.init with words := [], banks := others ++ [(63, { BankT.init with row := some 5, due := true })] }
    let y := (run.laneOf 511).bankT 63
    let hot := (s.setStack 7 { Stack.init with hot := true, coolAt := some 0 })
    let cool := { hot with tick := 1400000 }
    (511 : Nat) < 512 ∧ (63 : Nat) < 64 ∧ x.deadline ≤ s.refclk (511 / 64) ∧
    (x.due = true ∧ (∀ k, k < 63 → s.bankDue 511 k = false) ∧ l.fills = [] ∧ (l.running = true → l.refHead 63 = none) ∧
      x.extRef = 0 ∧ l.live = false ∧ x.guardAt x.dueAt ≤ s.laneClk 511) ∧
    (y.due = true ∧ y.row = some 5 ∧ (∀ k, k < 63 → run.bankDue 511 k = false) ∧ (run.laneOf 511).fills = [] ∧
      (run.laneOf 511).refHead 63 = none ∧ y.extRef = 0 ∧ (run.laneOf 511).live = true ∧ (run.pwrs == 3 && y.row.isNone) = false ∧
      y.guardAt (max (run.laneOf 511).stall ((run.laneOf 511).boundary y.dueAt)) ≤ run.laneClk 511) ∧
    l.scrubbing = true ∧ (7 : Nat) < 8 ∧ (85 : Nat) ≤ 85 ∧ (s.stackOf 7).hot = false ∧
    ((82 : Nat) ≤ 82 ∧ (cool.stackOf 7).hot = true ∧ (cool.stackOf 7).coolAt = some 0 ∧ 0 + 1400000 ≤ cool.tick) ∧
    (105 : Nat) < 106 ∧ s.stackJobs 7 = [] ∧ (3 : Nat) < 4 := by decide +kernel

/-! ### Events of records and units -/

/-- The bytes of a range of second-tier memory under key 0. -/
def mems (o n : Nat) : List Loc := (List.range n).map (fun i => Loc.mem (o + i) 0)

/-- A range of the system window, where nothing is frozen and every home is ready. -/
theorem locate_system (s : State) (k : AccKind) (a : Word) (off n : Nat) (hw : bitsOf a.toNat 63 60 = 15)
    (hr : bitsOf a.toNat 58 48 = 0) (h9 : bitOf a.toNat 59 = false) (ho : bitsOf a.toNat 47 0 = off) (hn : off + n ≤ paEnd)
    (hf : s.fz = false) (hc : s.checked = []) (hu : s.ready = BitVec.allOnes 64) (hk : (s.raw 0x900020).toNat % 256 = 0)
    (h0 : s.slotKey 0 = 0) :
    s.locate (sysParty s) k 1 a n = (s, .ok (mems off n) []) := by
  have hd : ∀ pa, s.frozen pa = false := fun pa => by simp [State.frozen, hf]
  have ht : ∀ pa, s.tagPlace pa = none := fun pa => by simp [State.tagPlace, State.checkedAt, hc]
  have he : (List.range n).filterMap (fun i => s.tagPlace (off + i)) = [] := List.filterMap_eq_nil_iff.mpr (fun i _ => ht _)
  unfold State.locate
  simp [hw, hr, h9, ho, hd, hk, h0, memUp_of_ready s hu, sysParty, mems, Nat.mod_one, Nat.not_lt.mpr hn, he]

theorem mems_length (o n : Nat) : (mems o n).length = n := by simp [mems]

theorem mems_plain (o n : Nat) : PlainLocs (mems o n) 0 := by
  refine ⟨fun l hl => ?_, fun pa k hl => ?_⟩
  · simp only [mems, List.mem_map] at hl
    obtain ⟨i, _, rfl⟩ := hl
    rfl
  · simp [mems] at hl
    omega

/-- The head of a queue of core 32 is empty; a record runs there. -/
def runningRec (q : Nat) (r : Rec) : State :=
  (engineAt q r []).setEngq (256 + q) { EngQ.init with run := [r] }

theorem witness_RecordEvents_nodes :
    let n : Node := { Node.init with declared := true, target := 4, blk := 0x1000000000000040 }
    let s0 := engineAt 3 (aRecord 0) [(64, List.replicate 16 0)]
    let s := { s0.setEngq 259 EngQ.init with units := [(1, { Unit.init with nodes := [(255, n)] })] }
    let r := s.nodeRec 1 255
    let x := tryGet [] (s.readDesc (s.recParty 32 r) (s.node 1 255).blk 32 32)
    (s.node 1 255).ripe = true ∧ s.walkerCore 1 = 32 ∧ (s.engq 259).fault = [] ∧ s.riperNode 32 (s.node 1 255).ready = false ∧
    (s.node 1 255).target < 7 ∧ r.gctr = none ∧ tryOk (s.readDesc (s.recParty 32 r) (s.node 1 255).blk 32 32) = true ∧
    x.1.mem = s.mem ∧ x.1.memKey = s.memKey ∧ ((x.1.engq 260).recs.filter (fun (x : Rec) => !x.chained)).length < 32 := by
  decide +kernel

/-- Slot 63 holds a QPW to the own member, and a trigger by counter or by time. -/
theorem witness_RecordEvents_slots : ∀ x ∈ ([(.counter 8191 1, false), (.counter 8191 0, true), (.time 1 0, false),
      (.time 0 0, true)] : List (Trigger × Bool)),
    let en := { aRecord (BitVec.ofNat 128 (0x10 * 2 ^ 122 + 63 * 2 ^ 91)) with desc := qpwDesc }; let tr := aRecord 0
    let s1 := sharedTable (engineAt 4 tr [])
    let s := s1.setCslot 32 63 ⟨some en, some (x.1, tr)⟩
    let s0 := s.setCslot 32 63 ⟨none, none⟩
    let e' := { en with fired := true, ts := match x.1 with | .time a w => some (a, w) | .counter _ _ => none }
    let t := s0.entryRun 32 en.entry e' (s0.recParty 32 e') en.desc
    s.cslot 32 63 = ⟨some en, some (x.1, tr)⟩ ∧ s.triggerDue x.1 = x.2 ∧ tr.flags = 0 ∧
    tr.gctr = none ∧ tr.cen = false ∧ tr.nid = 0 ∧ tryOk t = true ∧ (tryGet none t).2.isSome = true ∧
    ∀ y ∈ (tryGet none t).1.rafts, y.round ≠ 0 := by decide +kernel

/-- A record that ends alone, one that names a next record, and one with CEN set. -/
theorem witness_RecordEvents_completions :
    let r := aRecord (BitVec.ofNat 128 (1 * 2 ^ 122)); let s := runningRec 1 r
    let c := { r with chain := some 0x40 }; let k := aRecord (BitVec.ofNat 128 (1 * 2 ^ 122 + 2 ^ 118 + 8191 * 2 ^ 105))
    let w := (runningRec 4 k).setCounter 8191 { Counter.init with state := 1, target := 2 }
    ((s.engq 257).run[0]? = some r ∧ r.todo = false ∧ s.settled r = true ∧ s.rafts = [] ∧ bitsOf r.bits.toNat 127 122 ≠ 2 ∧
      r.gctr = none ∧ r.flags = 0 ∧ r.cen = false ∧ r.nid = 0 ∧ r.chain = none) ∧
    ((runningRec 1 c).settled c = true ∧ ((runningRec 1 c).engq 257).run[0]? = some c ∧ c.cen = false ∧ c.chain ≠ none) ∧
    ((w.engq 260).run[0]? = some k ∧ w.settled k = true ∧ bitsOf k.bits.toNat 127 122 ≠ 2 ∧ k.cen = true ∧ k.ctr = 8191 ∧
      k.nid = 0 ∧ w.recAlive k = true ∧ (w.counter 8191).value + 1 < (w.counter 8191).target ∧
      (w.counter 8191).target < 2 ^ 48) := by decide +kernel

/-- A record names the barrier in the last 16 bytes of the scratchpad; 4,096 bytes of it have performed. -/
theorem witness_RecordEvents_barriers :
    let r := { aRecord (BitVec.ofNat 128 (1 * 2 ^ 122)) with subs := [(0x10000000003FFFF0, 4096)] }
    let s := runningRec 0 r
    (s.engq 256).run[0]? = some r ∧ r.todo = false ∧ s.poison = [] ∧
    r.subs.find? (fun b => b.2 ≠ 0) = some (0x10000000003FFFF0, 4096) ∧
    4096 + s.onTheWay r ≤ 4096 ∧ (∃ s1, s.locate (s.recParty 32 r) .barrier 16 0x10000000003FFFF0 16 =
      (s1, .ok (spads 0x3FFFF0 16) []) ∧ s1.mem = s.mem ∧ s1.memKey = s.memKey) ∧ s.MemWf ∧
    (spads 0x3FFFF0 16).length = 16 ∧ PlainLocs (spads 0x3FFFF0 16) 0 := by
  refine ⟨?_, ?_, ?_, ?_, ?_, ex_pair2 ?_ ⟨?_, ?_⟩, wf_of rfl rfl, ?_, plain_of ?_⟩ <;> decide +kernel

/-- A marker alone in the epilogue queue of core 32, its image at physical address 0x10000. -/
theorem witness_RecordEvents_markers : ∀ x ∈ ([(true, false), (false, true), (false, false)] : List (Bool × Bool)),
    let m : Marker := { save := x.1, slot := 64, image := 0xF000000000010000, fresh := x.2, key := 0, seq := 0, uid := some 1 }
    let s := (onTile [] .unit).setEngq 258 { EngQ.init with markers := [m] }
    let s0 := s.setEngq 258 { s.engq 258 with markers := [] }
    (s.engq 258).markers = [m] ∧ (s.engq 258).run = [] ∧ (s.engq 258).fault = [] ∧ (s.engq 258).recs = [] ∧
    s0.locate (sysParty s0) .store 1 (m.image + 0x6000) 0x1000 = (s0, .ok (mems 0x16000 0x1000) []) ∧
    s0.locate (sysParty s0) .load 1 m.image 0x1000 = (s0, .ok (mems 0x10000 0x1000) []) ∧ s.MemWf ∧
    (mems 0x16000 0x1000).length = 0x1000 ∧ PlainLocs (mems 0x16000 0x1000) 0 := by
  intro x hx
  refine ⟨?_, ?_, ?_, ?_, locate_system _ _ _ _ _ ?_ ?_ ?_ ?_ ?_ ?_ ?_ ?_ ?_ ?_, locate_system _ _ _ _ _ ?_ ?_ ?_ ?_ ?_ ?_ ?_ ?_ ?_ ?_,
    wf_of rfl rfl, mems_length _ _, mems_plain _ _⟩
  all_goals (revert x; decide +kernel)

/-- Unit 1 as given, resident in slot 64. -/
def unitAs (x : Machine.Unit) : State := { onTile [(2, 5), (3, 6)] .unit with units := [(1, x)] }

/-- The same with its context in a state. -/
def inState (s : State) (c : CtxState) : State := s.setCtx 64 { s.ctx 64 with st := c }

/-- Unit 1 at a WAITT of g2, which holds 5. -/
def atWaitt : State := (List.range 8).foldl (fun (s : State) i => s.memPut 0 (0x100 + i) (byteOf 0xA0025800 i)) (unitAs Unit.init)

theorem witness_UnitEvents_boundaries :
    let p : Pend := ⟨0x0E, 0, 0, 0, 7, 3⟩; let q : Pend := ⟨0x0F, 0, 0, 0, 0, 0⟩
    let x := { Unit.init with pend := [p, q] }; let s := unitAs x
    (s.asyncDue 64 = true ∧ (s.ctx 64).held = false ∧ (s.ctx 64).uid = some 1 ∧ s.unit? 1 = some x ∧ firstPend x.pend = some q ∧
      (s.ctx 64).replay = [] ∧
      (((List.range 8).foldl (fun (s : State) i => s.memPut 0 (0x100 + i) 0) s).boundaryTrap 64).isSome = true ∧
      (let w := { atWaitt with units := [(1, x)] }
       w.boundaryTrap 64 = none ∧ w.asyncDue 64 = true ∧ (w.ctx 64).replay = [])) ∧
    ((atWaitt.fetchIns 64).2 = .words 0xA0025800 0 ∧ (decodeWord 0xA0025800 0).toOption = some (.waitt 2) ∧
      ((atWaitt.ctx 64).rd 2).toNat ≤ { atWaitt with time := 5 }.time.toNat ∧
      { atWaitt with time := 4 }.time.toNat < ((atWaitt.ctx 64).rd 2).toNat ∧
      (let y := atWaitt.setCtx 64 { atWaitt.ctx 64 with held := true }
       (y.ctx 64).held = true ∧ (y.ctx 64).preq = false ∧ (y.ctx 64).st = .running ∧
         (y.fetchIns 64).2 = .words 0xA0025800 0) ∧
      (let y := atWaitt.setCtx 64 { atWaitt.ctx 64 with held := true, preq := true, st := .preempt }
       (y.ctx 64).preq = true ∧ (y.fetchIns 64).2 = .words 0xA0025800 0)) := by decide +kernel

/-- PDL has run out: at a WAITT that waits, with a remote access unanswered, at a boundary, and with a replay entry. -/
theorem witness_UnitEvents_expiry :
    let s := inState atWaitt .preempt
    let y := s.setCtx 64 { s.ctx 64 with held := true }
    let r := { s with remotes := [⟨1, true, aStream, 4096, none, none⟩] }
    ((y.ctx 64).st = .preempt ∧ (y.ctx 64).pdlLeft = 0 ∧ y.saveHeld 64 = false ∧ y.atYieldPoint 64 = true) ∧
    ((r.ctx 64).st = .preempt ∧ (r.ctx 64).pdlLeft = 0 ∧ r.saveHeld 64 = true) ∧
    (s.saveHeld 64 = false ∧ (s.ctx 64).held = false ∧ s.boundaryTrap 64 = none ∧ s.asyncDue 64 = false) ∧
    ((s.setCtx 64 { s.ctx 64 with replay := [⟨0, 0, 0, 0, 0, 0⟩] }).ctx 64).replay ≠ [] := by decide +kernel

theorem witness_UnitEvents_saves :
    let r : NextRec := ⟨true, 0, 0, 0, 0, 0xF000000000FF0000, 0⟩
    let s := { inState (unitAs Unit.init) .saving with next := [(64, (1, r))] }
    (s.ctx 64).st = .saving ∧ (s.ctx 64).uid = some 1 ∧ s.unit? 1 = some Unit.init ∧ SMap.find s.next 64 = some (1, r) ∧ r.save ≠ 0 ∧
    SMap.find s.nextLater 64 = none ∧ SMap.find { s with nextLater := [(64, (0, r))] }.nextLater 64 = some (0, r) ∧
    s.locate (sysParty s) .store 1 r.save 0x6000 = (s, .ok (mems 0xFF0000 0x6000) []) ∧ s.MemWf ∧
    (mems 0xFF0000 0x6000).length = 0x6000 ∧ PlainLocs (mems 0xFF0000 0x6000) 0 ∧ classOf (coreOf 64) = .tile := by
  refine ⟨?_, ?_, ?_, ?_, ?_, ?_, ?_, locate_system _ _ _ _ _ ?_ ?_ ?_ ?_ ?_ ?_ ?_ ?_ ?_ ?_, wf_of rfl rfl, mems_length _ _, mems_plain _ _, ?_⟩ <;>
    decide +kernel

/-- A launch accepted in queue 0 for job 0, whose ranges have been translated. -/
def aLaunch (packet : Nat) : Launch :=
  { queue := 0, job := 0, packet := packet, seq := 0, translated := true, bound := [], overdue := false, cancelling := false,
    node := none, graph := none }

theorem witness_UnitEvents_loads :
    let r : NextRec := ⟨false, 0, 2047, 0, 0, 0, 0xF000000000FF0000⟩; let l := aLaunch 0
    let at0 (op : Nat) : State := { inState (unitAs { Unit.init with index := 2047, image := some 0 }) .loading with
      next := [(64, (op, r))], launches := [(0, l)] }
    (∀ op ∈ [1, 2], ((at0 op).ctx 64).st = .loading ∧ SMap.find (at0 op).next 64 = some (op, r) ∧
      SMap.find (at0 op).launches r.lctr.toNat = some l ∧ l.cancelling = false ∧ (at0 op).bindable 32 = true ∧
      (at0 op).gangReady 0 l = true ∧ (at0 op).spadFree 64 0 l.job = true ∧ SMap.find (at0 op).nextLater 64 = none ∧
      (at0 op).poison = []) ∧
    (∃ s1, (at0 1).translate 0 l = .ok s1 ∧ ∃ bs, s1.devRead 0 l.job 256 l.xtab = .bytes bs) ∧
    (at0 2).savedUnit 0 2047 = some 1 ∧
    (at0 2).locate (sysParty (at0 2)) .load 1 r.load 0x6000 = (at0 2, .ok (mems 0xFF0000 0x6000) []) ∧
    ∀ a ∈ mems 0xFF0000 0x6000, ∃ pa k, a = Loc.mem pa k := by
  intro r l at0
  have hd : (match (at0 1).devRead 0 0 256 0 with | .bytes _ => true | _ => false) = true := by decide +kernel
  obtain ⟨bs, hb⟩ : ∃ bs, (at0 1).devRead 0 0 256 0 = .bytes bs := by
    split at hd
    · rename_i b hb; exact ⟨b, hb⟩
    · cases hd
  have hx : l.xtab = 0 := by decide +kernel
  have ht : (at0 1).translate 0 l = .ok (at0 1) := by
    unfold State.translate
    rw [show l.job = 0 from rfl, hx, hb]
    simp [show (at0 1).statusWalk l = .bytes [] from if_pos (by decide +kernel), show l.translated = true from rfl]
  refine ⟨by decide +kernel, ⟨_, ht, bs, by rw [show l.job = 0 from rfl, hx]; exact hb⟩, by decide +kernel,
    locate_system _ _ _ _ _ ?_ ?_ ?_ ?_ ?_ ?_ ?_ ?_ ?_ ?_, ?_⟩
  case refine_11 =>
    intro a ha
    simp only [mems, List.mem_map] at ha
    obtain ⟨i, _, rfl⟩ := ha
    exact ⟨_, _, rfl⟩
  all_goals decide +kernel

theorem witness_UnitEvents_next :
    let r : NextRec := ⟨true, 8191, 2047, 255, 255, 0x1000, 0⟩
    let s (c : CtxState) : State := { inState (unitAs Unit.init) c with
      launches := [(8191, aLaunch 0)], next := [(64, (1, r))], boot := { State.reset.boot with code := 2 } }
    ((1, Instr.nextBind 161 r) ∈ [(1, Instr.nextBind 161 r), (2, .nextResume 161 r)] ∧ (161 : Nat) < 162) ∧
    SMap.find (s .idle).launches r.lctr.toNat = some (aLaunch 0) ∧ ((s .idle).ctx 64).st = .idle ∧
    ((s .running).ctx 64).st = .running ∧ (r.pre = true ∧ r.save ≠ 0 ∧ isTask 64 = false) ∧ isTask 161 = true ∧
    (((s .saving).ctx 64).st = .saving ∧ ((s .saving).ctx 64).st ≠ .idle ∧ ((s .saving).ctx 64).st ≠ .running) ∧
    (((s .preempt).ctx 64).st ≠ .loading ∧ ((s .preempt).ctx 64).st ≠ .saving) ∧
    SMap.find (s .preempt).next 64 = some (1, r) ∧ (s .idle).boot.code = 2 ∧ (s .running).gangSlots 64 = [64] ∧
    SMap.find (s .loading).nextLater 64 = none ∧ ((s .loading).ctx 64).st = .loading ∧ State.reset.boot.code ≠ 2 ∧ 3 ≤ (7 : BitVec 3).toNat := by
  refine ⟨⟨List.mem_cons_self, by decide⟩, ?_⟩
  decide +kernel

/-- A logged store, and a logged reduction, at the start of extent 1. -/
theorem witness_UnitEvents_logs : ∀ e ∈ [anEntry, { anEntry with red := true, data := [1, 0, 0, 0] }],
    let s := (unitAs Unit.init).setCtx 64 { (unitAs Unit.init).ctx 64 with side := [e] }
    (s.ctx 64).side = [e] ∧ (∃ s1, s.locateEntry (s.entryParty 64 e) (if e.red then .atomic else .store) e =
      (s1, .ok ((List.range e.data.length).map (fun i => Loc.mem (0x10000 + i) 0)) []) ∧ s1.mem = s.mem ∧ s1.memKey = s.memKey) ∧
    s.poison = [] ∧ s.MemWf ∧
    PlainLocs ((List.range e.data.length).map (fun i => Loc.mem (0x10000 + i) 0)) 0 := by
  intro e he
  refine ⟨?_, ex_pair2 ?_ ⟨?_, ?_⟩, ?_, wf_of rfl rfl, plain_of ?_⟩
  all_goals (revert e; decide +kernel)

/-- A logged reduction whose page is another member's by now. -/
theorem witness_UnitEvents_remotes :
    let e := { anEntry with red := true, data := [1, 0, 0, 0] }
    let s := { (unitAs Unit.init).setCtx 64 { (unitAs Unit.init).ctx 64 with side := [e] } with
      runs := [(1, ⟨.remote 3, true, false, 0⟩)] }
    (∃ s1, s.locateEntry (s.entryParty 64 e) .atomic e =
      (s1, .ok ((List.range 4).map (fun i => Loc.remote 3 (0x10000 + i))) []) ∧
      s1.streamFull (streamKey (s.entryParty 64 e).job false 3) = false) ∧
    (let k := streamKey (s.entryParty 64 e).job false 3
     let f := s.setStream k { Stream.init with kept := List.replicate 4096 ⟨aFrame 0 0, 0, none⟩ }
     f.streamFull k = true ∧ e.sent = false) ∧
    (let d := s.setCtx 64 { s.ctx 64 with side := [{ e with sent := true }] }
     d.remotes.any (fun (r : Remote) => r.uid == (d.ctx 64).uid.getD 0) = false ∧
       { d with remotes := [⟨1, false, 0, 1, none, none⟩] }.remotes.any (fun (r : Remote) => r.uid == (d.ctx 64).uid.getD 0) = true) := by
  refine ⟨ex_pair2 ?_ ?_, ?_⟩ <;> decide +kernel

/-- A halted unit of launch 0, of which one more or two more contributions are outstanding. -/
theorem witness_UnitEvents_ends :
    let x := { Unit.init with ending := some Ending.halted }
    let s (target : Nat) := withRegs ({ (unitAs x).setCounter 0 { Counter.init with
      kind := 2, state := 1, target := target, parent := 0x1FFF } with launches := [(0, aLaunch 0)] }) [(0x20008, 8191)]
    let s1 := (s 1).setCounter 8191 { Counter.init with kind := 5, parent := 0x1FFF }
    (unitAs { x with cls := .head }).unitDrained 1 = true ∧ x.cls ≠ .head ∧
    ((s 2).unit? 1 = some x ∧ (s 2).unitDrained 1 = true ∧ (s 2).counter x.lctr = { Counter.init with
      kind := 2, state := 1, target := 2, parent := 0x1FFF }) ∧
    (s1.unit? 1 = some x ∧ s1.unitDrained 1 = true ∧ (s1.counter 0).value + 1 = (s1.counter 0).target ∧ s1.cancelDue 0 = false ∧
      (s1.counter 0).parent = 0x1FFF ∧ s1.jobCtr (s1.ctrJob 0) = 8191 ∧ (s1.counter 8191).kind = 5 ∧ (s1.counter 8191).parent = 0x1FFF) ∧
    (unitAs { Unit.init with ending := some .faulted, lastCore := 79 }).freezeDue 79 = true ∧
    (let y := (unitAs Unit.init).setCore 79 { Core.init with owner := some 0, outgoing := some 1, spill := [63], written := [63] }
     (63 : Nat) ∈ (y.core 79).spill ∧ (y.core 79).outgoing = some 1 ∧ (63 : Nat) ∈ (y.core 79).written ∧ (79 : Nat) < 80) := by
  decide +kernel

/-! ### Events of jobs, the hub, power and the host -/

/-- The device reads a discarded page as zeros. -/
theorem devRead_discarded (s : State) (dom j : Nat) : ∀ n a : Nat, (∀ i, i < n → (s.runOf dom j (a + i)).state = .discarded) →
    s.devRead dom j n a = .bytes (List.replicate n 0)
  | 0, _, _ => rfl
  | n + 1, a, h => by
    have h0 := h 0 (Nat.succ_pos n)
    have hs := devRead_discarded s dom j n (a + 1) (fun i hi => by
      have := h (i + 1) (Nat.succ_lt_succ hi)
      rwa [Nat.add_assoc, Nat.add_comm 1 i])
    simp [State.devRead, State.devByte, show (s.runOf dom j a).state = .discarded from h0, hs, List.replicate_succ]

/-- Whether a read gave certain bytes. -/
def tryDev (r : DevRead) (bs : List Byte) : Bool := match r with | .bytes b => b == bs | _ => false

/-- The device is ready and its firmware verified, with registers and launches. -/
def device (regs : SMap Word) (ls : SMap Launch) : State :=
  { State.reset with ready := BitVec.allOnes 64, regs := regs, launches := ls, boot := { State.reset.boot with code := 2 } }

theorem witness_JobEvents_dispatch :
    let l := aLaunch (2 ^ 31 * 256 ^ 64); let s := device [] [(8191, l)]
    let ll := { l with queue := 63 }; let lot := device [(0x407E0, 0x4000FFFF00000000)] [(8191, ll)]
    State.reset.boot.code ≠ 2 ∧ (s.boot.code = 2 ∧ s.pickD .stack = some (8191, l) ∧ (s.belowFloor .stack && !(s.waitingOf .stack true).isEmpty) = false ∧
      s.placement 8191 l .stack = [62] ∧ l.unbound = [0] ∧ SMap.find s.launches 8191 = some l ∧ (8191 : Nat) < 8192 ∧
      (62 : Nat) < 162 ∧ (s.ctx 62).st = .idle ∧ (s.ctx 62).uid = none) ∧
    (lot.boot.code = 2 ∧ lot.pickD .stack = none ∧ (lot.headsL .stack).any (fun h => lot.tickets h.1 ≠ 0) = true) ∧
    (l.cls ≠ 2 ∧ s.waiting 8191 l = true ∧ s.classL l.queue = false ∧ l.overdue = false ∧
      l.deadline < { s with time := 1 }.time.toNat) := by decide +kernel

/-- A phase of launch 8191: its descriptor and its list, or its graph image, begin in page 0 and go on in page 1, which is
discarded. The list's header, at 0xFFF0, names 1,024 graphs; as a graph image's it names 255 nodes and counter 8190. -/
def phases (header : Nat) (l : Launch) : State :=
  { device counters0 [(8191, l)] with
    mem := putBytes (putBytes [] 0 (List.replicate 56 0 ++ bytesOf 8 0xFFF0)) 0xFFF0 (bytesOf 16 header),
    memKey := [(0, 0), (511, 0)],
    runs := [(2 ^ 32 * 8191, ⟨.present 0, false, false, 0⟩), (2 ^ 32 * 8191 + 1, ⟨.discarded, false, false, 0⟩)] }

theorem witness_JobEvents_phases : let l := aLaunch (0x4000 * 256 ^ 112); let s := phases 1024 l
    let none0 := phases 0 (aLaunch (0x4000 * 256 ^ 112 + 0x10000))
    let desc := List.replicate 56 0 ++ bytesOf 8 0xFFF0
    (s.boot.code = 2 ∧ none0.boot.code = 2 ∧ SMap.find s.launches 8191 = some l ∧ l.cls = 2 ∧ s.atHead 8191 l = true ∧ s.statusWalk l = .bytes [] ∧
      none0.statusWalk (aLaunch (0x4000 * 256 ^ 112 + 0x10000)) = .bytes [] ∧
      tryDev (s.devRead 8191 0 64 (l.field 0 8)) desc = true ∧
      chooseVariant desc (s.jobBudget 0).toNat = some 0xFFF0 ∧ tryDev (s.devRead 8191 0 16 0xFFF0) (bytesOf 16 1024) = true ∧
      ofBytes ((bytesOf 16 1024).take 2) = 1024 ∧ (∀ b ∈ (bytesOf 16 1024).drop 2, b = 0)) ∧
    s.devRead 8191 0 (8 * 1024) (0xFFF0 + 16) = .bytes (List.replicate 8192 0) ∧
    none0.devRead 8191 0 64 ((aLaunch (0x4000 * 256 ^ 112 + 0x10000)).field 0 8) = .bytes (List.replicate 64 0) ∧
    chooseVariant (List.replicate 64 0) (none0.jobBudget 0).toNat = none := by
  intro l s none0 desc
  have hp : ∀ n, n ≤ 65536 → ∀ i, i < n → (65536 + i) / 65536 = 1 := by intros; omega
  refine ⟨by decide +kernel, devRead_discarded _ _ _ _ _ (fun i hi => ?_), ?_, by decide +kernel⟩
  · rw [show 65520 + 16 + i = 65536 + i by omega]
    unfold State.runOf
    rw [hp 8192 (by decide) i hi]; rfl
  · rw [show (aLaunch (0x4000 * 256 ^ 112 + 0x10000)).field 0 8 = 65536 by decide +kernel]
    refine devRead_discarded _ _ _ _ _ (fun i hi => ?_)
    unfold State.runOf
    rw [hp 64 (by decide) i hi]; rfl

theorem witness_JobEvents_graphs : let s0 := phases (0x1FFE00FF) (aLaunch (0x4000 * 256 ^ 112))
    let p : Phase := ⟨8191, 0, [0xFFF0], 0⟩; let s := { s0 with phases := [(8191, p)] }
    (SMap.find s.phases 8191 = some p ∧ s.graphs = [] ∧ p.graphs[p.done]? = some 0xFFF0 ∧
      tryDev (s.devRead 8191 0 16 0xFFF0) (bytesOf 16 0x1FFE00FF) = true ∧ ofBytes ((bytesOf 16 0x1FFE00FF).take 2) = 255 ∧
      ofBytes (((bytesOf 16 0x1FFE00FF).drop 2).take 2) = 8190 ∧ (∀ b ∈ (bytesOf 16 0x1FFE00FF).drop 4, b = 0) ∧
      s.ctrOfJob 0 8190 = true ∧ (s.counter 8190).state ≠ 1) ∧
    s.devRead 8191 0 (16 * 255) (0xFFF0 + 16) = .bytes (List.replicate 4080 0) := by
  intro s0 p s
  refine ⟨by decide +kernel, devRead_discarded _ _ _ _ _ (fun i hi => ?_)⟩
  rw [show 65520 + 16 + i = 65536 + i by omega]
  unfold State.runOf
  rw [show (65536 + i) / 65536 = 1 by omega]; rfl

/-- Counters whose work has stopped: of a launch that is gone, and of a job that is cancelled. -/
theorem witness_JobEvents_cancels :
    let s := State.reset.setCounter 8191 { Counter.init with kind := 2, state := 1 }
    let j := (State.reset.setCounter 8191 { Counter.init with job := 255, kind := 5, state := 1 }).setJob 255
      { JobSt.init with active := true, cancelling := true, clearing := true }
    (s.cancelDue 8191 = true ∧ (s.counter 8191).kind ≠ 5 ∧ s.arrived (fun n => n == 8191) = true) ∧
    (j.cancelDue 8191 = true ∧ (j.counter 8191).kind = 5 ∧ (j.job (j.counter 8191).job).cancelling = true ∧
      (j.job 255).clearing = true ∧ j.arrived (fun n => n == 8191 || j.ctrJob n == 255) = true) := by decide +kernel

/-- The last 16 bytes of window 63; queue 63 is enabled, and its packet has PMASK 1, or 0; 63 and 64 launches wait. -/
theorem witness_JobEvents_packets :
    let data : List Byte := List.replicate 16 0
    let on (m : Byte) (ls : SMap Launch) : State := { device [(0x20006, 0x20000000), (0x407E0, 0x8000000000000000)] ls with
      subWin := if m = 0 then [] else [(128 * 63 + 64, m)] }
    let l (s : State) : Launch := { aLaunch (ofBytes (Memory.readN (Memory.writeN s.subWin (128 * 63 + 112) data) (128 * 63) 128)) with
      queue := 63, job := s.queueJob 63, seq := s.seq, translated := false }
    let full (n : Nat) : SMap Launch := (List.range n).map (fun i => (i + 1, { aLaunch 0 with queue := 63 }))
    112 + data.length ≤ 128 ∧ covers 112 data.length = true ∧ covers 111 data.length = false ∧ (on 1 []).fnQueue 17 63 = false ∧
    (on 1 []).fnQueue 0 63 = true ∧ (on 1 []).commitHeld 0 63 = false ∧ State.reset.commitHeld 0 63 = false ∧
    ({ State.reset with heldReq := [(16, ⟨0, true, 1, [0], 0, none, 0, none⟩)] }.commitHeld 16 63 = true) ∧
    ({ State.reset with heldCommit := [(1, 63, 0)] }.commitHeld 16 63 = true) ∧ bitOf ((on 1 []).sqcfg 63) 63 = true ∧ (on 1 (full 63)).used 63 < 64 ∧
    (on 1 (full 63)).packetReason (l (on 1 (full 63))) false = 0 ∧ (on 0 []).packetReason (l (on 0 [])) false = 6 ∧
    bitOf (State.reset.sqcfg 63) 63 = false ∧ State.reset.fnQueue 0 63 = true ∧ 64 ≤ (on 1 (full 64)).used 63 := by decide +kernel

theorem witness_JobEvents_jobs :
    let on := withRegs State.reset [(0x20000 + 32 * 255, 0x8000000000000000)]
    let busy := { on with units := [(1, { Unit.init with job := 255 })] }
    (255 : Nat) < 256 ∧ State.reset.jobValid 255 = false ∧ (0x8000000000000000 : Word).getLsbD 63 = true ∧
    on.jobValid 255 = true ∧ (on.setJob 255 { JobSt.init with cancelling := true }).jobValid 255 = true ∧
    ((on.setJob 255 { JobSt.init with cancelling := true }).job 255).cancelling = true ∧ on.jobBusy 255 = false ∧
    (on.job 255).cancelling = false ∧ busy.jobValid 255 = true ∧ busy.jobBusy 255 = true := by decide +kernel

/-- Requests of the service queue; what a service code names, and what the firmware's events ask for, is not stated, so
either case may hold. A task that runs has an uncorrectable error pending, or fetches from an extent that is not valid. -/
theorem witness_JobEvents_services :
    let s (n : Nat) (b : Bool) : State := { device [] [] with svc := { State.reset.svc with held := List.replicate n 7, running := b } }
    let task (p : List Pend) : State := { (s 1 true).setCtx 161 { Ctx.init with st := .running, uid := some 1, level := .management } with
      units := [(1, { Unit.init with pend := p })] }
    let p : Pend := ⟨8, 0, 0, 0, 0, 0⟩
    (s 15 false).svc.held.length < 16 ∧ 16 ≤ (s 16 false).svc.held.length ∧
    ((s 1 false).boot.code = 2 ∧ (s 1 false).svc.held.head? = some 7 ∧ (s 1 false).svc.running = false ∧
      (s 1 false).svc.own = false ∧ ((s 1 false).ctx 161).st = .idle) ∧ (s 0 false).svc.held = [] ∧
    ((task [p]).svc.running = true ∧ ((task [p]).ctx 161).st = .running ∧ firstPend ((task [p]).unitOf 161).pend = some p ∧
      (task [p]).svc.own = false) ∧
    (firstPend ((task []).unitOf 161).pend = none ∧ (task []).fetchTrap 161 ≠ none) := by decide +kernel

theorem witness_HubEvents :
    let cmds (n : Nat) : State := { State.reset with xl := { State.reset.xl with cmds := List.replicate n ⟨true, 255, 0, 1⟩ } }
    let ring (h : Nat) : State := { State.reset with xl := { State.reset.xl with
      wait := [(255, 7, 5)], ring := [(0, (255, 6, 5)), (1, (254, 7, 5))], head := h } }
    let z (lim : Word) : State := withRegs { State.reset with fz := true } [(0x100001, 0), (0x100002, lim)]
    ((cmds 15).xl.cmds.length < 16 ∧ 16 ≤ (cmds 16).xl.cmds.length ∧ (cmds 1).xl.cmds = [⟨true, 255, 0, 1⟩] ∧
      bitsOf (0x3000000000000000 : Word).toNat 63 60 ≠ 1 ∧ bitsOf (0x3000000000000000 : Word).toNat 63 60 ≠ 2) ∧
    (∀ h ∈ [2, 255], (ring h).xl.wait = [(255, 7, 5)] ∧ (∀ i ∈ (ring h).prqUsed, ∀ x ∈ SMap.find (ring h).xl.ring i,
      ¬(x.1 = 255 ∧ x.2.1 = 7))) ∧
    (((ring 2).xl.head + 1) % 256 ≠ (ring 2).prqTail ∧ ((ring 255).xl.head + 1) % 256 = (ring 255).prqTail) ∧
    (State.reset.fz = false ∧ (z 0).fz = true ∧ ((z 0x1000).fz && (z 0x1000).fzRange 0x1000) = true ∧
      (z 0).poison = [] ∧ (z 0).heldFrames = [] ∧ ((z 0xFFF).fz && (z 0xFFF).fzRange 0x1000) = false ∧ (z 0xFFF).poison = []) ∧
    (∀ q ∈ [none, some 0, some 0x20, some 0x30], (⟨0x1000, true, 16, List.replicate 16 0, 0, q, 0, none⟩ : SliceReq).op = q) ∧
    (let u : State := { z 0xFFF with mem := putBytes [] 0x1000 (bytesOf 16 (2 ^ 32 + 2 ^ 16)), memKey := [(32, 0)] }
     let old := ofBytes (((List.range 16).map (fun i => Loc.mem (0x1000 + i) 0)).map u.readLoc)
     (u.fz && u.fzRange 0x1000) = false ∧ u.poison = [] ∧ bitsOf old 47 32 = bitsOf old 31 16) ∧ (z 0xFFF).MemWf := by
  intro cmds ring z
  refine ⟨?_, ?_, ?_, ?_, ?_, ?_, wf_of rfl rfl⟩ <;> decide +kernel

/-- Island 7, of the lanes 56 to 63, as given. -/
def islandAs (x : Island) : State := State.reset.setIsland 7 x

theorem witness_PowerEvents_targets :
    let on := Island.init; let busy (n : Nat) := { on with busy := true, step := n, tgt := 1, goal := 1 }
    let at1 (n : Nat) := { on with cur := n, tgt := n }
    (∀ x ∈ [on, busy 1, busy 8, at1 1], (3 : BitVec 2) ≠ 0 ∧ islandPermits 7 (3 : BitVec 2).toNat = true ∧
      (3 : BitVec 2).toNat ≠ ((islandAs x).island 7).tgt) ∧
    (((islandAs on).island 7).cur = 0 ∧ ((islandAs on).island 7).busy = false) ∧ ((islandAs (busy 8)).island 7).busy = true ∧
    (((islandAs (at1 1)).island 7).cur ≠ 0 ∧ ((islandAs (at1 1)).island 7).busy = false ∧
      ((islandAs (at1 1)).island 7).cur < (3 : BitVec 2).toNat) ∧
    ((2 : BitVec 2).toNat ≠ ((islandAs (at1 3)).island 7).tgt ∧ ((islandAs (at1 3)).island 7).busy = false ∧
      islandPermits 7 (2 : BitVec 2).toNat = true ∧ (2 : BitVec 2).toNat < ((islandAs (at1 3)).island 7).cur) ∧
    (((islandAs (busy 3)).island 7).step ≤ 3 ∧ 4 ≤ ((islandAs (busy 4)).island 7).step) ∧
    (((islandAs (busy 1)).island 7).busy = true ∧ ((islandAs (busy 1)).island 7).step = 1 ∧ (islandAs (busy 1)).drained 7 = true ∧
      clusterCores 7 = []) ∧
    (let own (o : Option Nat) := (State.reset.setIsland 104 (busy 1)).setCore 39 { Core.init with owner := o }
     ((own (some 1)).island 104).busy = true ∧ ((own (some 1)).island 104).step = 1 ∧ (own (some 1)).drained 104 = true ∧
      39 ∈ clusterCores 104 ∧ ((own (some 1)).core 39).owner = some 1 ∧ (own none).drained 104 = true ∧
      ∀ c ∈ clusterCores 104, ((own none).core c).owner = none) ∧
    islandPermits 127 1 = true := by decide +kernel

theorem witness_PowerEvents_steps : ∀ x ∈ ([(2, 1, 0), (3, 1, 0), (4, 1, 0), (4, 3, 0), (5, 2, 0), (5, 3, 0), (6, 0, 3), (7, 0, 1),
      (7, 0, 3), (8, 0, 1)] : List (Nat × Nat × Nat)),
    let l := { Island.init with busy := true, step := x.1, goal := x.2.1, cur := x.2.2, latch := [(63, Lane.init)] }
    let y := (islandAs l).island 7
    y.busy = true ∧ y.ends ≤ (islandAs l).islandClk 7 (decide (y.step = 5 ∨ y.step = 6)) ∧ y.step = x.1 ∧ y.next = none ∧
    y.goal = x.2.1 ∧ y.cur = x.2.2 ∧ SMap.find y.latch 63 = some Lane.init ∧ 63 ∈ islandLanes 7 := by decide +kernel

/-- P1 is 1,700 W and P2 is 1,800 W; the ticks are at the bounds of R452. -/
theorem witness_PowerEvents_package :
    let s (p tick p2At : Nat) (low : Option Nat) : State := { State.reset with
      pwrs := BitVec.ofNat 2 p, tick := tick, boot := { State.reset.boot with code := 2 }, power := { State.reset.power with p2At := p2At, lowAt := low } }
    (s 0 0 0 none).boot.code = 2 ∧ State.reset.boot.code ≠ 2 ∧
    (∀ x ∈ ([(0, 140000, 0, none), (1, 140000, 0, some 0), (2, 140000, 126000, none), (3, 140000, 0, some 0)] :
      List (Nat × Nat × Nat × Option Nat)), (s x.1 x.2.1 x.2.2.1 x.2.2.2).tick % 1400 = 0 ∧
        (s x.1 x.2.1 x.2.2.1 x.2.2.2).pwrs = BitVec.ofNat 2 x.1) ∧
    (State.reset.pmcfg 63 48 < min 65535 1701 ∧ min 65535 1700 ≤ State.reset.pmcfg 63 48 ∧
      State.reset.pmcfg 47 32 < min 65535 1801 ∧ min 65535 1800 ≤ State.reset.pmcfg 47 32) ∧
    14000 ≤ (s 2 140000 126000 none).tick - (s 2 140000 126000 none).power.p2At ∧
    ¬ 14000 ≤ (s 2 140000 127400 none).tick - (s 2 140000 127400 none).power.p2At ∧
    140000 ≤ (s 3 140000 0 (some 0)).tick - 0 ∧
    (let f := (List.range 12).foldl (fun a p => a + portCost (State.reset.portWidth p) (([] : List Nat).getD p 0)) 0
     State.reset.tick % 1400 = 0 ∧ f + State.reset.activeEngines.length * bitsOf (State.reset.raw 0xD00010).toNat 47 32 ≤
       bitsOf (State.reset.raw 0xD00010).toNat 63 48) ∧
    (inletOk ⟨40000, 450, 2000⟩ = true ∧ inletOk ⟨60000, 0, 2000⟩ = true ∧ inletOk ⟨39999, 450, 2000⟩ = false ∧
      inletOk ⟨60001, 450, 2000⟩ = false ∧ inletOk ⟨48000, 451, 2000⟩ = false ∧ inletOk ⟨48000, 450, 1999⟩ = false) ∧
    ((islandAs Island.init).island 7).busy = false ∧ (1 : Nat) ≠ 0 := by decide +kernel

/-- Function 16 reaches 0x1000 to 0x1FFF; its last byte is frozen. -/
theorem witness_HostEvents_memory :
    let s (z : Bool) : State := withRegs { State.reset with fz := z }
      [(0x1C0041, 0x1000), (0x1C0042, 0x1FFF), (0x100001, 0x1FFF), (0x100002, 0x1FFF)]
    let data : List Byte := List.replicate 8 7
    (s false).bar4 16 0xFF8 data.length = some 0x1FF8 ∧ (s false).bar4 16 0xFF8 (7 :: data).length = none ∧
    (∀ i, i < data.length → (s false).frozen (0x1FF8 + i) = false) ∧ (s false).MemWf ∧
    (s true).bar4 16 0xFF8 8 = some 0x1FF8 ∧ (∃ i, i < 8 ∧ (s true).frozen (0x1FF8 + i) = true) ∧
    (let off := 63 * 2 ^ 25 + 12287 * 2 ^ 11 + 2040
     off < 2 ^ 31 ∧ bitsOf off 24 11 < 12288 ∧ bitsOf off 10 0 + data.length ≤ 2048 ∧ bitsOf off 30 25 = 63 ∧
     2048 < bitsOf off 10 0 + (7 :: data).length ∧ (State.reset.laneOf State.reset.bfCol).fills = [] ∧
     (State.reset.laneOf State.reset.bfCol).sending = false ∧ (State.reset.laneOf State.reset.bfCol).fillRoom 63 12287 = true ∧
     bitsOf off 10 0 / 16 = (bitsOf off 10 0 + data.length - 1) / 16 ∧
     (State.reset.laneOf State.reset.bfCol).upAt ≤ (State.reset.stackOf (State.reset.bfCol / 64)).cclk.toNat ∧
     (let w := State.reset.setLane State.reset.bfCol { Lane.init with
        later := [(1, .unit 0 0 0 0 [] (aWord 0) 0)] }
      (w.laneOf w.bfCol).sending = true ∧ w.poison = [])) ∧
    12288 ≤ bitsOf (12288 * 2 ^ 11) 24 11 ∧
    (let key := (s false).fncfg 16 3 % 256
     let bad (l : Loc) : State := { s false with poison := [l.ecc] }
     (s false).poison = [] ∧ (bad (.mem 0x1FFF key)).reqBad ⟨0x1FF8, false, 8, [], key, none, 0, none⟩ = true ∧
     (bad (.mem 0x1FFF key)).bar4 16 0xFF8 8 = some 0x1FF8 ∧
     (bad (.bank (s false).bfCol 63 12287 2047)).eccBad .store
       ((List.range 4).map (fun i => Loc.bank (s false).bfCol 63 12287 (2044 + i))) = true) := by
  refine ⟨?_, ?_, ?_, wf_of rfl rfl, ?_, ⟨7, ?_⟩, ?_⟩ <;> decide +kernel

theorem witness_HostEvents_states :
    let b (c : Nat) : State := { State.reset with boot := { State.reset.boot with code := c } }
    (b 4).boot.code = 4 ∧ (b 5).boot.code = 5 ∧ (b 1).boot.code = 1 ∧ (∀ j, j < 256 → State.reset.jobValid j = false) ∧
    (withRegs State.reset [(0x20000 + 32 * 255, 0x8000000000000000)]).jobValid 255 = true ∧
    (State.reset.ready.getLsbD 63 = false ∧ State.reset.ready.getLsbD 28 = false ∧ (b 2).boot.code = 2 ∧
      (let u (v r : Bool) : State := (List.range 64).foldl (fun s i => s.setLane (448 + i) { Lane.init with scrubbing := r })
        (State.reset.setStack 7 { Stack.init with overt := v })
       ((u false false).stackOf 7).overt = false ∧ (∀ i, i < 64 → ((u false false).laneOf (448 + i)).scrubbing = false) ∧
       ((u true false).stackOf 7).overt = true ∧ ((u false true).laneOf 511).scrubbing = true)) ∧ { State.reset with ready := BitVec.allOnes 64 }.ready.getLsbD 28 = true ∧ State.reset.ready.getLsbD 45 = false ∧
    (State.reset.ctx 160).uid = none ∧ (State.reset.ctx 161).uid = none ∧
    ((0xE5 : BitVec 8) = 0xE4 ∨ (0xE5 : BitVec 8) = 0xE5) ∧
    ({ State.reset with hostSession := true, boot := { State.reset.boot with code := 2 } }.hostSession = true ∧ State.reset.hostSession = false) ∧
    (∀ g, g < 64 → State.reset.rgEn g = true → State.reset.rgJob g ≠ 255) ∧
    ((63 : Nat) < 64 ∧ (7 : Nat) < 8 ∧ (11 : Nat) < 12 ∧ (8191 : Nat) < 8192 ∧ (3 : Nat) < 4) ∧
    (let off := 0x700000 + 0x3FC0 + 0x28
     off + (List.replicate 8 (0 : Byte)).length ≤ 0x4000000 ∧ off % 8 = 0 ∧ 0x700000 ≤ off ∧ off < 0x704000 ∧ off % 0x40 < 0x30) ∧
    (let off := 0x100000 + 0x100 * 255 + 8 * 10
     off % 8 = 0 ∧ (255 : Nat) < 256 ∧ 10 ∈ [1, 5, 7, 8, 9, 10]) ∧
    ((0x300000 + 32 * 8191) % 8 = 0 ∧ (State.reset.counter 8191).value < 2 ^ 48) := by decide +kernel

/-! ### Ports, frames and trust -/

/-- Port 11 enabled with a WIDTH, at a present width, or retraining. -/
def portAs (cfg : Word) (x : FPort) (tick : Nat) : State :=
  { (withRegs State.reset [((0xB00000 + 0x100 * 11) / 8, cfg)]).setPort 11 x with tick := tick }

/-- Port 11 enabled and up, with a stream. -/
def streaming (x : Stream) (rs : List Remote) (tick : Nat) : State :=
  { (portAs 0xB000000000000000 { FPort.init with lanes := 1 } tick).setStream aStream x with remotes := rs }

theorem witness_PortEvents_ports : let x (w g : BitVec 2) (r : Bool) : FPort := { FPort.init with lanes := w, goal := g, retrain := r }
    let on : Word := 0xB000000000000000
    (11 : Nat) < 12 ∧ ((0x7000000000000000 : Word).getLsbD 63 = false ∧ on.getLsbD 63 = true) ∧
    ((∀ g, g < 64 → State.reset.rgEn g = false) ∧ State.reset.streams = [] ∧ State.reset.txq = []) ∧
    (((portAs on (x 0 0 false) 0).port 11).lanes.toNat ≠ bitsOf on.toNat 62 61 ∧
      ((portAs on (x 1 0 false) 0).port 11).lanes.toNat = bitsOf on.toNat 62 61) ∧
    (((portAs on (x 1 0 false) 0).fpcfg 11).getLsbD 63 = true ∧ ((portAs on (x 1 0 false) 0).port 11).lanes ≠ 3 ∧
      ((portAs on (x 1 0 false) 0).port 11).retrain = false ∧ ((portAs on (x 1 0 false) 0).fpcfg 11).getLsbD 60 = true) ∧
    (((portAs on (x 3 1 true) 0).port 11).retrain = true ∧ ((portAs on (x 3 1 true) 0).port 11).goal.toNat < 2 ∧
      ((portAs on (x 3 1 true) 0).port 11).goal ≠ 3 ∧ 2 ≤ ((portAs on (x 3 2 true) 0).port 11).goal.toNat ∧
      (∀ g, g < 64 → (portAs on (x 3 1 true) 0).rgEn g = false) ∧ (portAs on (x 3 1 true) 0).streams = [] ∧
      ∀ k, k < 11 → ((portAs on (x 3 1 true) 0).fpcfg k).getLsbD 63 = false) := by decide +kernel

theorem witness_PortEvents_streams :
    let kept : Stream := { Stream.init with
      kept := [⟨aFrame 0 0, 0, none⟩], ackDue := some 0, unackedSince := some 0, port := some 11 }
    let r : Remote := ⟨1, true, aStream, 4096, none, some 0⟩
    let s := streaming kept [r]
    let d (t : Nat) := (s t).setPort 11 { FPort.init with downAt := some 0 }
    ((s 11200).txPort = some 11 ∧ ((s 11200).port 11).retrain = false ∧ (s 11200).blocked aStream = false ∧
      ((s 11200).stream aStream).queue = [] ∧ ((s 11200).stream aStream).kept = [⟨aFrame 0 0, 0, none⟩] ∧
      11200 ≤ (s 11200).tick - 0 ∧ (s 11199).tick - 0 < 11200) ∧
    ((s 1400).portReady = true ∧ r ∈ (s 1400).remotes ∧ 1400 ≤ (s 1400).tick - 0 ∧ (d 1400).portReady = false) ∧
    (((s 2800).stream aStream).ackDue = some 0 ∧ 2800 ≤ (s 2800).tick - 0 ∧ (s 2799).tick - 0 < 2800 ∧
      (s 2800).portReady = true ∧ (d 2800).portReady = false ∧ ((d 2800).stream aStream).ackDue = some 0) ∧
    (((d 14000000).stream aStream).port = some 11 ∧ ((d 14000000).port 11).downAt = some 0 ∧ 14000000 ≤ (d 14000000).tick - 0 ∧
      ((s 70000000).stream aStream).unackedSince = some 0 ∧ 70000000 ≤ (s 70000000).tick - 0 ∧ streamJob aStream < 256) := by
  decide +kernel

/-- Whether a frame is taken; the state, the job and the stream it is taken with. -/
def recvOk (r : Recv) : Bool := match r with | .take _ _ _ => true | _ => false
def recvGet (r : Recv) : State × Nat × Nat := match r with | .take s j k => (s, j, k) | _ => (State.reset, 0, 0)

theorem recv_eq {r : Recv} (h : recvOk r = true) : r = .take (recvGet r).1 (recvGet r).2.1 (recvGet r).2.2 := by
  cases r with
  | take s j k => rfl
  | drop _ => simp [recvOk] at h

/-- Job 255 is valid, and group 63 has three members, this one the second; page 1 of the job is present. -/
def member (st : Stream) : State :=
  { ((withRegs State.reset [(0x20000 + 32 * 255, 0x800000000000FFFF), (0x20000 + 32 * 255 + 2, 0xFF00),
      ((0xA00010 + 0x40 * 63) / 8, 0x80FF000100000002), ((0xB00000 + 0x100 * 11) / 8, 0xB000000000000000)]).setStream
      aStream st).setPort 11 { FPort.init with lanes := 1 } with
    ready := BitVec.allOnes 64, runs := [(2 ^ 32 * 8447 + 1, ⟨.present 0x10000, true, false, 0⟩)] }

theorem witness_FrameEvents_taken : ∀ kind ∈ [0, 1, 2, 3, 4, 5],
    let r := (member Stream.init).receive (aFrame kind 0) kind
    let z := (member { Stream.init with acked := 4096 }).receive (aFrame kind 0) kind
    recvOk r = true ∧ (recvGet r).2 = (255, aStream) ∧ (recvGet r).1.stale aStream 4096 = false ∧
    ((recvGet r).1.stream aStream).notes = [] ∧ (recvGet r).1.portReady = true ∧ (recvGet r).1.rgEn 63 = true ∧
    (recvGet r).1.rgJob 63 = 255 ∧ recvOk z = true ∧ (recvGet z).1.stale aStream 4096 = true ∧ (aFrame kind 0).srcm = 0 ∧
    (member Stream.init).rafts = [] := by decide +kernel

/-- A NOTE in its turn, and one that comes before its turn; frames that are not sound. -/
theorem witness_FrameEvents_notes : let f := aFrame 5 0
    let next := (recvGet ((member { Stream.init with acked := 4095 }).receive f 5)).1
    let early := (recvGet ((member Stream.init).receive f 5)).1
    (recvOk ((member { Stream.init with acked := 4095 }).receive f 5) = true ∧ (next.stream aStream).window = [] ∧
      (next.stream aStream).notes = [] ∧ f.seq = (next.stream aStream).acked + 1 ∧ next.stale aStream f.seq = false ∧ f.paths = []) ∧
    ((early.stream aStream).notes = [] ∧ (early.stream aStream).window = [] ∧ f.seq ≠ (early.stream aStream).acked + 1) ∧
    frameSound { aFrame 0 0 with payload := [] } = false ∧ frameSound { aFrame 0 0 with etype := 0x800 } = false ∧
    frameSound { aFrame 0 0 with ver := 2 } = false ∧ frameSound { aFrame 0 0 with rsv := 1 } = false := by decide +kernel

theorem witness_FrameEvents_data : let s := member Stream.init; let s1 := (recvGet (s.receive (aFrame 0 1) 0)).1
    (aFrame 0 1).tsv = false ∧ (aFrame 0 1).rbar = 0 ∧ s.poison = [] ∧ s.MemWf ∧
    (∃ s2, s1.locate (s1.remoteParty 255) .store 1 0x1FFF0 16 =
      (s2, .ok ((List.range 16).map (fun i => Loc.mem (0x1FFF0 + i) 0)) [])) ∧
    (s1.locate (s1.remoteParty 255) .store 1 0x1FFF0 16).1.mem = s.mem ∧
    (s1.locate (s1.remoteParty 255) .store 1 0x1FFF0 16).1.memKey = s.memKey ∧
    PlainLocs ((List.range 16).map (fun i => Loc.mem (0x1FFF0 + i) 0)) 0 ∧
    (let a := (s1.rg 63).chunk 0 8
     (aFrame 1 1).ep = true ∧ (aFrame 1 1).red = false ∧ a.final = false ∧ (0 : Nat) ∉ a.senders ∧
      a.senders.length + 1 < s1.rgMembers 63 ∧ s1.areaReady (s1.areaLocs 63 0 8 (aFrame 1 1).payload.length) = true) := by
  refine ⟨?_, ?_, ?_, wf_of rfl rfl, ex_pair' ?_, ?_, ?_, plain_of ?_, ?_⟩ <;> decide +kernel

/-- A reduction over bytes of which the last is bad. -/
theorem witness_FrameEvents_bad : let s : State := { member Stream.init with poison := [(Loc.mem 0x1FFFF 0).ecc] }
    let s1 := (recvGet (s.receive (aFrame 0 1) 0)).1
    recvOk (s.receive (aFrame 0 1) 0) = true ∧ s1.stale aStream 4096 = false ∧ (aFrame 0 1).op ≠ 0 ∧
    (aFrame 0 1).rbar = 0 ∧ (aFrame 0 1).payload ≠ [] ∧ (match s1.locate (s1.remoteParty 255) .store 1 0x1FFF0 16 with
      | (_, .ok ls _) => ls.any s.poisoned
      | _ => false) = true ∧ (s1.locate (s1.remoteParty 255) .store 1 0x1FFF0 16).1.portReady = true ∧
    (let z := { withRegs s (s.regs ++ [(0x100001, 0x1FFFF), (0x100002, 0x1FFFF)]) with fz := true }
     let z1 := (recvGet (z.receive (aFrame 0 1) 0)).1
     z.fz = true ∧ recvOk (z.receive (aFrame 0 1) 0) = true ∧ z1.stale aStream 4096 = false ∧
     (match z1.locate (z1.remoteParty 255) .store 1 0x1FFF0 16 with
      | (_, .held b _) => b
      | _ => false) = true) := by decide +kernel

/-- The same with a shared extent map at 0x10000, whose extent 0 is all of the job's addresses; a frame that names a barrier. -/
def sharing : State :=
  let s := member Stream.init
  { s with regs := s.regs ++ [(0x20000 + 32 * 255 + 10, 0x10000)], memKey := [(512, 0), (513, 0)],
           mem := putBytes [] 0x10000 (bytesOf 16 0xC0010000000000000000000000000000 ++ List.replicate 240 0) }
def barFrame (bar : Nat) : Frame := { aFrame 0 0 with rbar := bar }

theorem witness_FrameEvents_barrier : let s1 := (recvGet (sharing.receive (barFrame 0x1FFE0) 0)).1
    let p := { s1.remoteParty 255 with xtab := s1.sharedMap 255 }
    recvOk (sharing.receive (barFrame 0x1FFE0) 0) = true ∧ s1.stale aStream 4096 = false ∧ (barFrame 0x1FFE0).rbar ≠ 0 ∧
    (barFrame 0x1FFE0).payload ≠ [] ∧
    (match s1.locate (s1.remoteParty 255) .store 1 0x1FFF0 16 with
      | (s2, .ok _ _) => (match s2.barCheck p 0x1FFE0 with | .ok s3 _ => decide (s3 = s2) | _ => false) &&
          s2.portReady && (match s2.mapReady 255 with | .ok s3 _ => decide (s3 = s2) | _ => false) &&
          (match s2.barCheck p 0x1FFE8 with | .fault _ c _ => c == 9 | _ => false)
      | _ => false) = true ∧
    (match execDataFrame (barFrame 0) sharing with | .next _ => true | _ => false) = true := by decide +kernel

theorem witness_FrameEvents_atomics : let f := aFrame 2 0
    let s := member Stream.init; let s1 := (recvGet (s.receive f 2)).1
    let c := (recvGet ((member { Stream.init with replies := [(4096, 7)] }).receive f 2)).1
    (c.stream aStream).replies.find? (fun r => r.1 == f.seq) = some (4096, 7) ∧
    (∀ r ∈ (s1.stream aStream).replies, r.1 ≠ f.seq) ∧ (s1.stream aStream).freed < f.seq ∧
    s1.cachedReplies aStream < 256 ∧ s1.stale aStream f.seq = false ∧ s.poison = [] ∧
    ((s1.locate (s1.remoteParty 255) .atomic 8 0x1FFF0 8).1.mem = s.mem ∧
      (s1.locate (s1.remoteParty 255) .atomic 8 0x1FFF0 8).1.memKey = s.memKey) ∧
    (∃ s2, s1.locate (s1.remoteParty 255) .atomic 8 0x1FFF0 8 =
      (s2, .ok ((List.range 8).map (fun i => Loc.mem (0x1FFF0 + i) 0)) [])) ∧
    PlainLocs ((List.range 8).map (fun i => Loc.mem (0x1FFF0 + i) 0)) 0 ∧
    (let t := { member Stream.init with remotes := [⟨1, true, aStream, 4096, none, none⟩] }
     recvOk (t.receive (aFrame 3 1) 3) = true ∧ recvOk (t.receive (aFrame 3 0) 3) = true ∧
      (⟨1, true, aStream, 4096, none, none⟩ : Remote) ∈ t.remotes ∧ (aFrame 3 1).op = 1 ∧ (aFrame 3 0).op ≠ 1) := by
  refine ⟨?_, ?_, ?_, ?_, ?_, ?_, ?_, ex_pair' ?_, plain_of ?_, ?_⟩ <;> decide +kernel

theorem witness_FrameEvents_acks :
    let r := { aRecord (BitVec.ofNat 128 (0x10 * 2 ^ 122)) with waits := [(aStream, 4096)] }
    let s := (member Stream.init).setEngq 644 { EngQ.init with run := [r] }
    let s1 := (recvGet (s.receive { aFrame 4 0 with nack := some (6, 0) } 4)).1
    let n : Frame := { aFrame 4 0 with nack := some (6, 0) }
    recvOk (s.receive (aFrame 4 0) 4) = true ∧ (aFrame 4 0).nack = none ∧ (s.stream aStream).queue = [] ∧ recvOk (s.receive n 4) = true ∧
    n.nack = some (6, 0) ∧ s1.engqs = [(644, { EngQ.init with run := [r] })] ∧ n.seq ≤ 4096 := by decide +kernel

/-- Group 63 of job 255 in a state of trust: its path, at 0x100, has eight switches; its job's descriptor lists one digest,
that of 32 and 32 zeros. -/
def trusting (r : RGroup) (xs : List Exchange) : State :=
  let s := member Stream.init
  { s.setRg 63 r with
    regs := s.regs ++ [((0xA00018 + 0x40 * 63) / 8, 0x100), (0x20000 + 32 * 255 + 9, 0xFFF0)], exchanges := xs, tick := 280000000,
    mem := putBytes (putBytes (putBytes [] 0x100 (8 :: List.replicate 143 0)) 0xFFF0 (1 :: List.replicate 15 0)) 0x10000
      (sm3 (List.replicate 64 0)),
    memKey := [(2, 0), (3, 0), (511, 0), (512, 0)], boot := { State.reset.boot with code := 2 },
    runs := [(2 ^ 32 * 8447, ⟨.present 0, false, false, 0⟩), (2 ^ 32 * 8447 + 1, ⟨.present 0x10000, false, false, 0⟩)] }

theorem witness_TrustEvents :
    let r (p : PathState) (k : List Nat) : RGroup := { RGroup.init with path := p, accepted := k, keyed := k }
    let a := trusting (r .pending []) []
    let at1 (n : Nat) : Exchange := ⟨63, 7, false, n, List.replicate 32 0, 0, 0⟩
    let x (n : Nat) := trusting (r .pending []) [at1 n]
    let y (p : PathState) (k : List Nat) := trusting (r p k) [⟨63, 7, true, 8, [], 0, 0⟩]
    let bad (s : State) := { s with regs := (0x20000 + 32 * 255 + 9, 0xFFF8) :: s.regs }
    let off := { a with runs := [(2 ^ 32 * 8447, ⟨.present 0, false, false, 0⟩), (2 ^ 32 * 8447 + 1, ⟨.absent, false, false, 0⟩)] }
    (State.reset.boot.code ≠ 2 ∧ a.boot.code = 2 ∧ a.rgEn 63 = true ∧ (a.rg 63).path = .pending ∧ a.pathSwitches 63 = some 8 ∧
      a.trustOk (a.rgJob 63) = true ∧ (7 : Nat) < 8 ∧ 7 ∉ (a.rg 63).accepted ∧ a.exchanges = []) ∧
    ((bad a).rgEn 63 = true ∧ ((bad a).rg 63).path = .pending ∧
      (match (bad a).readTrust ((bad a).rgJob 63) with | .bad => true | _ => false) = true ∧
      (match (bad (x 6)).readTrust ((bad (x 6)).rgJob 63) with | .bad => true | _ => false) = true) ∧
    (∀ n, n < 9 → (x n).exchange 63 7 false = some (at1 n)) ∧
    (spdmCodes.getD 0 0 = 0x84 ∧ spdmCodes.getD 3 0 = 0x81 ∧ spdmCodes.getD 6 0 = 0xE0 ∧ spdmCodes.getD 8 0 = 0xE5) ∧
    ((x 6).digestOk ((x 6).rgJob 63) (sm3 ((at1 6).record ++ List.replicate 32 0)) = true ∧
      (match (x 6).readTrust ((x 6).rgJob 63) with
        | .digests ds => !ds.contains (sm3 ((at1 6).record ++ List.replicate 32 1))
        | _ => false) = true ∧
      (x 0).exchanges.find? (fun e => e.group == 63 && e.sw == 7 && !((x 0).rg 63).keyed.contains 7) = some (at1 0) ∧
      280000000 ≤ (x 0).tick - 0) ∧
    (((y .pending []).exchange 63 7 true).isSome = true ∧ (y .pending []).pathSwitches 63 = some 8 ∧
      ((0 : Nat) < 8 ∧ (0 : Nat) ≠ 7 ∧ 0 ∉ ((y .pending []).rg 63).keyed)) ∧
    (((y .pending [0, 1, 2, 3, 4, 5, 6]).exchange 63 7 true).isSome = true ∧
      (∀ i, i < 8 → i = 7 ∨ i ∈ ((y .pending [0, 1, 2, 3, 4, 5, 6]).rg 63).keyed) ∧
      ((y .pending [0, 1, 2, 3, 4, 5, 6]).rg 63).path = .pending) ∧
    (((y .attested []).exchange 63 7 true).isSome = true ∧ ((y .attested []).rg 63).path = .attested ∧
      ((y .refused []).rg 63).path ≠ .attested ∧ ((y .refused []).exchange 63 7 true).isSome = true) ∧
    off.pathSwitches 63 = some 8 ∧ (match off.readTrust (off.rgJob 63) with | .wait (some _) => true | _ => false) = true := by
  decide +kernel

/-! ### Ciphers, with the examples of GB/T 32905, GB/T 32907 and RFC 8998 -/

def cipherKey : List Byte := beBytes 16 0x0123456789ABCDEFFEDCBA9876543210
theorem test_sm3 : beNat (sm3 [0x61, 0x62, 0x63]) = 0x66C7F0F462EEEDD9D1F2D46BDC10E4E24167C4875CF2F7A2297DA02B8F4BA8E0 := by
  decide +kernel
theorem test_sm4 : beNat (sm4Block (sm4Keys cipherKey) cipherKey) = 0x681EDF34D206965E86B3E94F536E4246 := by decide +kernel
/-- A block of XTS deciphers to itself; doubling a tweak carries into its low byte (IEEE 1619). -/
theorem test_xts : let ks := sm4Keys cipherKey
    beNat (xtsBlocks (sm4Block ks.reverse) 1 5 (xtsBlocks (sm4Block ks) 1 5 cipherKey)) = 0x0123456789ABCDEFFEDCBA9876543210 ∧
    xtsNext (2 ^ 127 + 1) = 0x85 := by decide +kernel
/-- RFC 8998, A.1: the tag. -/
theorem test_gcm_tag : beNat (sm4Gcm cipherKey (beBytes 12 0x00001234567800000000ABCD)
    (beBytes 20 0xFEEDFACEDEADBEEFFEEDFACEDEADBEEFABADDAD2)
    (beBytes 32 0xAAAAAAAAAAAAAAAABBBBBBBBBBBBBBBBCCCCCCCCCCCCCCCCDDDDDDDDDDDDDDDD ++
      beBytes 32 0xEEEEEEEEEEEEEEEEFFFFFFFFFFFFFFFFEEEEEEEEEEEEEEEEAAAAAAAAAAAAAAAA)).2 = 0x83DE3541E4C2B58177E065A9BF7B62EC := by
  decide +kernel

/-! ### Single steps, with results worked out from the spec -/

/-- g(d) after a core instruction with g2 and g3 as given. -/
def result (i : Instr) (a b : Word) : Word := (after (exec i (onTile [(2, a), (3, b)] .unit))).rd 1

/-- R101. -/
theorem test_add_wraps : result (.add 1 2 3) 0xFFFFFFFFFFFFFFFF 2 = 1 := by decide +kernel
/-- R102. -/
theorem test_div_overflow : result (.div 1 2 3) 0x8000000000000000 0xFFFFFFFFFFFFFFFF = 0x8000000000000000 := by decide +kernel
/-- R102. -/
theorem test_rem_by_zero : result (.rem 1 2 3) 0xFFFFFFFFFFFFFFF9 0 = 0xFFFFFFFFFFFFFFF9 := by decide +kernel
/-- R102: the remainder has the sign of A. -/
theorem test_rem_sign : result (.rem 1 2 3) 0xFFFFFFFFFFFFFFF9 2 = 0xFFFFFFFFFFFFFFFF := by decide +kernel
/-- R103: ADDI sign-extends, ANDI does not. -/
theorem test_addi_extends : result (.addi 1 2 0xFFFF) 0 0 = 0xFFFFFFFFFFFFFFFF := by decide +kernel
theorem test_andi_zero_extends : result (.andi 1 2 0xFFFF) 0xFFFFFFFFFFFFFFFF 0 = 0xFFFF := by decide +kernel
/-- R105: bits 31:16, sign-extended. -/
theorem test_lui_extends : result (.lui 1 0x8000) 0 0 = 0xFFFFFFFF80000000 := by decide +kernel
/-- R106: PC is 0x100. -/
theorem test_addpc : result (.addpc 1 0xFFFF) 0 0 = 0xFF := by decide +kernel
/-- R28: writes of g0 are discarded, and the instruction retires. -/
theorem test_g0_discards : (after (exec (.add 0 2 3) (onTile [(2, 1), (3, 2)] .unit))).rd 0 = 0 ∧
    (after (exec (.add 0 2 3) (onTile [(2, 1), (3, 2)] .unit))).pc = 0x104 := by decide +kernel
/-- R370: a unit whose job has no handler ends with the trap; one with a handler goes to it at supervisor level. -/
theorem test_trap_without_handler : (after (exec (.trap 3) (onTile [] .unit))).uid = none := by decide +kernel
theorem test_trap_with_handler :
    (after (exec (.trap 3) (trapping 0x10000000003FFE00))).level = .supervisor ∧
    (after (exec (.trap 3) (trapping 0x10000000003FFE00))).pc = 0x0E00000000000000 := by decide +kernel
/-- R277: a unit that halts leaves its context. -/
theorem test_halt_frees : (after (exec .halt (onTile [] .unit))).st = .idle := by decide +kernel
/-- R162: an atomic add gives back the old value; the scratchpad's byte was 7. -/
theorem test_amo_old :
    (after (exec (.amoAdd 1 2 3 0 0 1) { onTile [(2, 0x1000000000000000), (3, 5)] .unit with spad := [(32 * 0x400000, 7)] })).rd 1 = 7 := by
  decide +kernel


end Sys2Proof.Tests
end

/-! ## Decoders and encoders

A word that decodes is the encoding of what it decodes to (R3, R35, R50, R241): a decoder's fields are the bits of its
word, the codes it matches and the reserved fields it checks among them, so packing them gives the word back. -/

namespace Sys2Proof

/-! ### Words and the fields that they are packed from (R35, R50, R241) -/

/-- The fields of a list, most significant first, are the bits of `k` that they stand for. -/
@[simp] def Slices (k : Nat) : List (Nat × Nat) → Prop
  | [] => True
  | (n, v) :: fs => v = k / 2 ^ (fs.map (·.1)).sum % 2 ^ n ∧ Slices k fs

/-- Fields that are the bits of `k` pack to the low bits of `k`. -/
theorem pack_of_slices {k : Nat} {fs : List (Nat × Nat)} (h : Slices k fs) : pack fs = k % 2 ^ (fs.map (·.1)).sum := by
  induction fs with
  | nil => simp [pack, Nat.mod_one]
  | cons f fs ih =>
    obtain ⟨n, v⟩ := f
    obtain ⟨hv, hfs⟩ := h
    rw [pack, ih hfs, hv, List.map_cons, List.sum_cons, Nat.add_comm n, Nat.pow_add, Nat.mod_mul, Nat.add_comm]

/-- A word is packed from the fields that are its bits. -/
theorem ofNat_pack_of_slices {W : Nat} {w : BitVec W} {fs : List (Nat × Nat)} (hs : (fs.map (·.1)).sum = W)
    (h : Slices w.toNat fs) : BitVec.ofNat W (pack fs) = w := by
  rw [pack_of_slices h, hs, Nat.mod_eq_of_lt w.isLt, BitVec.ofNat_toNat, BitVec.setWidth_eq]

theorem toNat_field {W : Nat} (w : BitVec W) (s n : Nat) : (w.extractLsb' s n).toNat = w.toNat / 2 ^ s % 2 ^ n := by
  rw [BitVec.extractLsb'_toNat, Nat.shiftRight_eq_div_pow]

theorem field_eq_iff {W : Nat} (w : BitVec W) (s n : Nat) (v : BitVec n) :
    w.extractLsb' s n = v ↔ w.toNat / 2 ^ s % 2 ^ n = v.toNat := by
  rw [← BitVec.toNat_inj, toNat_field]

/-- A flag packs to the bit that it is read from. -/
@[simp] theorem toNat_flag {W : Nat} (w : BitVec W) (s : Nat) :
    (w.extractLsb' s 1 == 1#1).toNat = w.toNat / 2 ^ s % 2 := by
  rw [← Nat.pow_one 2, ← Nat.pow_mul, Nat.one_mul, ← toNat_field]
  generalize w.extractLsb' s 1 = b
  revert b; decide

/-- What a decoder reads, if anything, has the property `P`. -/
def WhenOk {ε : Type} (P : Instr → Prop) (r : Except ε Instr) : Prop := ∀ i, r = .ok i → P i

@[simp] theorem whenOk_ok {ε : Type} {P : Instr → Prop} {i : Instr} : WhenOk P (.ok i : Except ε Instr) ↔ P i := by
  simp [WhenOk]

@[simp] theorem whenOk_error {ε : Type} {P : Instr → Prop} {e : ε} : WhenOk P (.error e) ↔ True := by
  simp [WhenOk]

/-! ### Core words -/

/-- A core word is packed from the fields that are its bits. -/
theorem word32_of_slices {w : BitVec 32} {fs : List (Nat × Nat)} (hs : (fs.map (·.1)).sum = 32)
    (h : Slices w.toNat fs) : word32 fs = some w :=
  congrArg some (ofNat_pack_of_slices hs h)

@[simp] theorem toNat_fD (w : BitVec 32) : (fD w).toNat = w.toNat / 2 ^ 21 % 2 ^ 5 := toNat_field w 21 5
@[simp] theorem toNat_fA (w : BitVec 32) : (fA w).toNat = w.toNat / 2 ^ 16 % 2 ^ 5 := toNat_field w 16 5
@[simp] theorem toNat_fB (w : BitVec 32) : (fB w).toNat = w.toNat / 2 ^ 11 % 2 ^ 5 := toNat_field w 11 5
@[simp] theorem toNat_fImm (w : BitVec 32) : (fImm w).toNat = w.toNat / 2 ^ 0 % 2 ^ 16 := toNat_field w 0 16
@[simp] theorem toNat_fSize (w : BitVec 32) : (fSize w).toNat = w.toNat / 2 ^ 13 % 2 ^ 3 := toNat_field w 13 3
@[simp] theorem toNat_fOff (w : BitVec 32) : (fOff w).toNat = w.toNat / 2 ^ 0 % 2 ^ 13 := toNat_field w 0 13
@[simp] theorem toNat_fMk (w : BitVec 32) : (fMk w).toNat = w.toNat / 2 ^ 8 % 2 ^ 3 := toNat_field w 8 3
@[simp] theorem toNat_fTy (w : BitVec 32) : (fTy w).toNat = w.toNat / 2 ^ 0 % 2 ^ 3 := toNat_field w 0 3
@[simp] theorem toNat_fOrd (w : BitVec 32) : (fOrd w).toNat = w.toNat / 2 ^ 5 % 2 ^ 2 := toNat_field w 5 2
@[simp] theorem toNat_fScope (w : BitVec 32) : (fScope w).toNat = w.toNat / 2 ^ 2 % 2 ^ 3 := toNat_field w 2 3
@[simp] theorem toNat_fLow (w : BitVec 32) : (fLow w).toNat = w.toNat / 2 ^ 0 % 2 ^ 1 := toNat_field w 0 1

/-- The words of R41. -/
theorem decodeAluR_reads {w : BitVec 32} (hm : w.extractLsb' 26 6 = 1#6) :
    WhenOk (encodeWord · = some w) (decodeAluR w) := by
  unfold decodeAluR
  repeat' split
  all_goals simp only [whenOk_ok, whenOk_error]
  all_goals
    refine word32_of_slices rfl ?_
    simp [field_eq_iff] at *
    omega

/-- The words of R42 and R43. -/
theorem decodeBranchAtomic_reads (w : BitVec 32) :
    (w.extractLsb' 26 6 = 16#6 → WhenOk (encodeWord · = some w) (decodeBranch w)) ∧
    (w.extractLsb' 26 6 = 26#6 → WhenOk (encodeWord · = some w) (decodePref w)) ∧
    (w.extractLsb' 26 6 = 27#6 → WhenOk (encodeWord · = some w) (decodeAmo w)) ∧
    (w.extractLsb' 26 6 = 28#6 → WhenOk (encodeWord · = some w) (decodeCas w)) ∧
    (w.extractLsb' 26 6 = 29#6 → WhenOk (encodeWord · = some w) (decodeRed w)) := by
  unfold decodeBranch decodePref decodeAmo decodeCas decodeRed
  refine ⟨fun hm => ?_, fun hm => ?_, fun hm => ?_, fun hm => ?_, fun hm => ?_⟩
  all_goals repeat' split
  all_goals simp only [whenOk_ok, whenOk_error]
  all_goals
    refine word32_of_slices rfl ?_
    simp [field_eq_iff] at *
    omega

/-- The words of R44. -/
theorem decodeVArith_reads {w : BitVec 32} (hm : w.extractLsb' 26 6 = 32#6) :
    WhenOk (encodeWord · = some w) (decodeVArith w) := by
  unfold decodeVArith decodeMop
  repeat' split
  all_goals simp only [whenOk_ok, whenOk_error]
  all_goals
    refine word32_of_slices rfl ?_
    simp [field_eq_iff, fTy] at *
    omega

/-- The words of R45 to R47. -/
theorem decodeVector_reads (w : BitVec 32) :
    (w.extractLsb' 26 6 = 33#6 → WhenOk (encodeWord · = some w) (decodeVMem w)) ∧
    (w.extractLsb' 26 6 = 34#6 → WhenOk (encodeWord · = some w) (decodeVCross w)) ∧
    (w.extractLsb' 26 6 = 35#6 → WhenOk (encodeWord · = some w) (decodeVqst w)) := by
  unfold decodeVMem decodeVCross decodeVqst
  refine ⟨fun hm => ?_, fun hm => ?_, fun hm => ?_⟩
  all_goals repeat' split
  all_goals simp only [whenOk_ok, whenOk_error]
  all_goals
    refine word32_of_slices rfl ?_
    simp [field_eq_iff] at *
    omega

/-- The words of R48. -/
theorem decodeSystem_reads (w : BitVec 32) :
    (w.extractLsb' 26 6 = 40#6 → WhenOk (encodeWord · = some w) (decodeSync w)) ∧
    (w.extractLsb' 26 6 = 41#6 → WhenOk (encodeWord · = some w) (decodeQueue w)) ∧
    (w.extractLsb' 26 6 = 42#6 → WhenOk (encodeWord · = some w) (decodeSys w)) := by
  unfold decodeSync decodeQueue decodeSys
  refine ⟨fun hm => ?_, fun hm => ?_, fun hm => ?_⟩
  all_goals repeat' split
  all_goals simp only [whenOk_ok, whenOk_error]
  all_goals
    refine word32_of_slices rfl ?_
    simp [field_eq_iff] at *
    omega

/-- A core word that decodes is the first word of what it decodes to. -/
theorem decodeWord_reads (w n : BitVec 32) : WhenOk (encodeWord · = some w) (decodeWord w n) := by
  obtain ⟨hBranch, hPref, hAmo, hCas, hRed⟩ := decodeBranchAtomic_reads w
  obtain ⟨hVMem, hVCross, hVqst⟩ := decodeVector_reads w
  obtain ⟨hSync, hQueue, hSys⟩ := decodeSystem_reads w
  unfold decodeWord
  split
  case h_2 hm => exact decodeAluR_reads hm
  case h_14 hm => exact hBranch hm
  case h_21 hm => exact hPref hm
  case h_22 hm => exact hAmo hm
  case h_23 hm => exact hCas hm
  case h_24 hm => exact hRed hm
  case h_25 hm => exact decodeVArith_reads hm
  case h_26 hm => exact hVMem hm
  case h_27 hm => exact hVCross hm
  case h_28 hm => exact hVqst hm
  case h_29 hm => exact hSync hm
  case h_30 hm => exact hQueue hm
  case h_31 hm => exact hSys hm
  all_goals clear hBranch hPref hAmo hCas hRed hVMem hVCross hVqst hSync hQueue hSys
  all_goals (try split) <;> simp only [whenOk_ok, whenOk_error]
  all_goals
    refine word32_of_slices rfl ?_
    simp [field_eq_iff] at *
    omega

/-! ### Lane words -/

theorem whenOk_laneIf {P : Instr → Prop} {c : Prop} [Decidable c] {i : Instr} :
    WhenOk P (laneIf c i) ↔ (c → P i) := by
  by_cases h : c <;> simp [laneIf, h]

theorem whenOk_laneRowIf {P : Instr → Prop} {c : Prop} [Decidable c] {row : BitVec 14} {i : Instr} :
    WhenOk P (laneRowIf c row i) ↔ (c → row.toNat < 12288 → P i) := by
  by_cases h : c <;> by_cases hr : row.toNat < 12288 <;> simp [laneRowIf, h, hr]

/-- A lane word that decodes is the word of what it decodes to, which is well formed. -/
theorem decodeLane_reads (w : BitVec 48) :
    WhenOk (fun i => encodeLane i = some w ∧ i.wf = true) (decodeLane w) := by
  unfold decodeLane
  dsimp only
  repeat' split
  all_goals simp only [whenOk_ok, whenOk_error, whenOk_laneIf, whenOk_laneRowIf]
  all_goals
    intros
    refine ⟨congrArg some (ofNat_pack_of_slices rfl ?_), ?_⟩
    · simp [laneHdr, laneAddr, field_eq_iff] at *
      omega
    · simp_all [Instr.wf, laneHdr, laneAddr, LaneHdr.plain, LaneAddr.rowOk, ← Decidable.imp_iff_not_or]

/-! ### Records -/

theorem whenOk_recIf {P : Instr → Prop} {h : RecHdr} {resv lim : Prop} [Decidable resv] [Decidable lim] {i : Instr} :
    WhenOk P (recIf h resv lim i) ↔ (resv → h.wf = true → lim → P i) := by
  have hwf : h.wf = true ↔ (h.cen = false → h.ctr = 0) ∧ h.scope.toNat < 6 := by
    simp [RecHdr.wf, Decidable.or_iff_not_imp_left]
  rw [hwf, recIf]
  split
  · split <;> simp_all
  · simp_all

/-- A record is packed from the fields that are its bits. -/
theorem recWord_of_slices {r : BitVec 128} {ty w0 : Nat} {p : List (Nat × Nat)} (hp : (p.map (·.1)).sum = 33)
    (hty : ty = r.toNat / 2 ^ 122 % 2 ^ 6) (h : Slices r.toNat (p ++ [(64, w0)])) : recWord ty (recHdr r) p w0 = r := by
  refine ofNat_pack_of_slices ?_ ?_
  · simp [hp]
  · simp [recHdr, hp, h, hty, Nat.shiftRight_eq_div_pow]

/-- A record of R241: the encoding of `i`, which is well formed (R249). -/
def IsRecord (r : BitVec 128) (i : Instr) : Prop := encodeRecord i = some r ∧ i.wf = true

theorem decodeCopy_reads {r : BitVec 128} (ht : r.extractLsb' 122 6 = 1#6) : WhenOk (IsRecord r) (decodeCopy r) := by
  unfold decodeCopy
  dsimp only
  repeat' split
  all_goals simp only [whenOk_error, whenOk_recIf]
  all_goals
    intro hresv hwf hpin
    refine ⟨congrArg some (recWord_of_slices rfl ?_ ?_), by simp [Instr.wf, hwf, hpin]⟩
    iterate 2
      simp [field_eq_iff] at *
      omega

theorem decodeRaftx_reads {r : BitVec 128} (ht : r.extractLsb' 122 6 = 20#6) : WhenOk (IsRecord r) (decodeRaftx r) := by
  unfold decodeRaftx
  dsimp only
  repeat' split
  all_goals simp only [whenOk_error, whenOk_recIf]
  all_goals
    intro hresv hwf _
    refine ⟨congrArg some (recWord_of_slices rfl ?_ ?_), by simp [Instr.wf, hwf]⟩
    iterate 2
      simp [field_eq_iff] at *
      omega

/-- The ROP codes of a QPWR that are within limits are those below 6 (R253, R269). -/
theorem ropInLimits_iff (v : BitVec 3) : v.toNat < 6 ↔ v ∉ [6#3, 7#3] := by
  revert v; decide

theorem decodeRecordBody_reads {r : BitVec 128} : WhenOk (IsRecord r) (decodeRecordBody r) := by
  unfold decodeRecordBody
  dsimp only
  split
  case h_1 ht => exact decodeCopy_reads ht
  case h_10 ht => exact decodeRaftx_reads ht
  all_goals simp only [whenOk_error, whenOk_recIf, ← ropInLimits_iff]
  all_goals
    intro hresv hwf hlim
    refine ⟨congrArg some (recWord_of_slices rfl ?_ ?_), ?_⟩
    iterate 2
      simp [field_eq_iff] at *
      omega
    simp_all [Instr.wf, RecHdr.bare]

/-- Settles O5, by the decoder's cases: every field of what is read, and every fixed one, is a slice of the word. -/
theorem decodedWordsAreEncodings : Obligations.DecodedWordsAreEncodings := by
  unfold Obligations.DecodedWordsAreEncodings
  refine ⟨fun w n => decodeWord_reads w n, decodeLane_reads, fun q r i h => ?_⟩
  unfold decodeRecord at h
  split at h
  · cases h
  · split at h
    · exact decodeRecordBody_reads i h
    · cases h

end Sys2Proof

/-! ## Dispatch, submission, jobs and services

What each of the firmware's and the host's steps does to the state, and what it leaves alone. A frame is stated through a projection
that blanks the fields which a step may change (`butNext`, `butData`, `butStatus`): two states that it maps to the same one differ in
those fields at most. -/

namespace Sys2Proof.Machine

/-! ### Lists and maps -/

theorem mem_insertBy {α : Type} (le : α → α → Bool) (x y : α) (l : List α) : y ∈ insertBy le x l ↔ y = x ∨ y ∈ l := by
  induction l with
  | nil => simp [insertBy]
  | cons z zs ih =>
    rw [insertBy]
    split
    · simp
    · simp only [List.mem_cons, ih]
      exact or_left_comm

/-- Putting a list in an order keeps its elements. -/
theorem mem_sortBy {α : Type} (le : α → α → Bool) (y : α) (l : List α) : y ∈ sortBy le l ↔ y ∈ l := by
  induction l with
  | nil => simp [sortBy]
  | cons x xs ih => rw [List.mem_cons, ← ih]; exact mem_insertBy le x y _

theorem mem_of_find {α : Type} {m : SMap α} {k : Nat} {v : α} (h : SMap.find m k = some v) : (k, v) ∈ m := by
  induction m with
  | nil => cases h
  | cons x m ih =>
    rw [SMap.find] at h
    split at h
    next hk => cases h; rw [← hk]; exact List.mem_cons_self
    · exact List.mem_cons_of_mem _ (ih h)

/-- A key that is not set keeps its value, under any reader's default. -/
theorem get_set_ne_of_default {α : Type} [DecidableEq α] (m : SMap α) (d d' v : α) {k j : Nat} (h : j ≠ k) :
    SMap.get (SMap.set m d k v) d' j = SMap.get m d' j := by
  unfold SMap.set
  split
  · exact SMap.get_erase_ne m d' h
  · rw [SMap.get_insert_ne _ _ _ h, SMap.get_erase_ne m d' h]

/-- What every step of a fold keeps, the fold keeps. -/
theorem foldl_keeps {α β : Type} {f : State → α → State} {p : State → β} (hf : ∀ s a, p (f s a) = p s) (s : State) (l : List α) :
    p (l.foldl f s) = p s := by
  induction l generalizing s with
  | nil => rfl
  | cons a l ih => rw [List.foldl_cons, ih, hf]

/-! ### What NEXT records change (R294, R295) -/

/-- A state without its NEXT records, launches, contexts and raw registers: what agrees here differs in those at most. -/
def State.butNext (s : State) : State := { s with next := [], nextLater := [], launches := [], ctxs := [], regs := [] }

theorem eq_of_butNext {s t : State} (h : t.butNext = s.butNext) :
    t = { s with next := t.next, nextLater := t.nextLater, launches := t.launches, ctxs := t.ctxs, regs := t.regs } :=
  calc t = { t.butNext with next := t.next, nextLater := t.nextLater, launches := t.launches, ctxs := t.ctxs, regs := t.regs } := rfl
    _ = _ := by rw [h]; rfl

theorem setCtx_butNext (s : State) (i : Nat) (c : Ctx) : (s.setCtx i c).butNext = s.butNext := rfl

theorem setRaw_butNext (s : State) (off : Nat) (v : Word) : (s.setRaw off v).butNext = s.butNext := rfl

theorem writeNext_butNext (s : State) (slot op : Nat) (r : NextRec) : (s.writeNext slot op r).butNext = s.butNext := by
  unfold State.writeNext
  rw [setRaw_butNext, setRaw_butNext, setRaw_butNext]

theorem noteBound_butNext (s : State) (n i : Nat) : (s.noteBound n i).butNext = s.butNext := by
  unfold State.noteBound
  split
  · split <;> rfl
  · rfl

theorem unbindNext_butNext (s : State) (slot : Nat) : (s.unbindNext slot).butNext = s.butNext := by
  unfold State.unbindNext
  split
  · split
    · split <;> rfl
    · rfl
  · rfl

theorem raisePreq_butNext (s : State) (slot : Nat) : (s.raisePreq slot).butNext = s.butNext := rfl

theorem lowerPreq_butNext (s : State) (slot : Nat) : (s.lowerPreq slot).butNext = s.butNext := by
  unfold State.lowerPreq
  extract_lets ys n begun other
  split
  · rfl
  · refine foldl_keeps (p := State.butNext) (fun s y => ?_) s ys
    extract_lets c
    split <;> rfl

theorem takeNextRec_butNext (s : State) (slot op : Nat) (r : NextRec) : (s.takeNextRec slot op r).butNext = s.butNext := by
  unfold State.takeNextRec
  extract_lets c s0 s1 s2
  have h1 : s1.butNext = s.butNext := unbindNext_butNext s slot
  have h2 : s2.butNext = s.butNext := by
    rw [← h1]
    unfold s2
    split
    · exact noteBound_butNext s1 _ _
    · rfl
  clear_value s2
  rw [← h2]
  split
  · rfl
  · split
    · rfl
    · exact lowerPreq_butNext s2 slot
  · split
    · rfl
    · exact lowerPreq_butNext s2 slot
  · rfl

theorem putNext_butNext (s : State) (slot op : Nat) (r : NextRec) : (s.putNext slot op r).butNext = s.butNext := by
  unfold State.putNext
  split
  · rfl
  · extract_lets s1 s2
    have h1 : s1.butNext = s.butNext := writeNext_butNext s slot op r
    have h2 : s2.butNext = s1.butNext := rfl
    clear_value s1 s2
    rw [← h1]
    split
    · rw [← h2]
      split
      · exact noteBound_butNext s2 _ _
      · rfl
    · exact takeNextRec_butNext s1 slot op r

theorem writeNexts_butNext (s : State) (nexts : List (Nat × Nat × NextRec)) : (s.writeNexts nexts).butNext = s.butNext := by
  unfold State.writeNexts
  exact (foldl_keeps (p := State.butNext) raisePreq_butNext _ _).trans
    (foldl_keeps (p := State.butNext) (f := fun s (x : Nat × Nat × NextRec) => s.putNext x.1 x.2.1 x.2.2) (fun s x => putNext_butNext s _ _ _) s nexts)

theorem resumeOne_butNext (s : State) (cls : UnitClass) : (s.resumeOne cls).butNext = s.butNext := by
  unfold State.resumeOne
  extract_lets marked saved
  split
  · exact writeNexts_butNext s _
  · rfl

/-! ### Placement -/

/-- A slot that a decision gives a launch is one that the firmware may place it on (R464). -/
theorem allowed_of_mem_placement {s : State} {n slot : Nat} {l : Launch} {cls : UnitClass}
    (h : slot ∈ s.placement n l cls) : s.allowed n l slot = true := by
  have hfree : ∀ x ∈ s.freeSlots n l cls, s.allowed n l x = true := by
    intro x hx
    have := (List.mem_filter.mp hx).2
    simp_all
  have hvictim : ∀ x ∈ s.victims n l cls, s.allowed n l x = true := by
    intro x hx
    have := (List.mem_filter.mp ((mem_sortBy _ _ _).mp hx)).2
    simp_all
  unfold State.placement at h
  dsimp only at h
  split at h
  · split at h
    · cases h
    · rcases List.mem_append.mp (List.mem_of_mem_take h) with h | h
      · exact hfree _ h
      · exact hvictim _ h
  · split at h
    · exact hvictim _ (List.mem_of_mem_take h)
    · exact hfree _ (List.mem_of_mem_take h)

theorem next_of_mem_placement {s : State} {n slot : Nat} {l : Launch} {cls : UnitClass}
    (h : slot ∈ s.placement n l cls) : SMap.find s.next slot = none := by
  have := allowed_of_mem_placement h
  simp only [State.allowed, Bool.and_eq_true, Option.isNone_iff_eq_none] at this
  obtain ⟨⟨⟨-, hn⟩, -⟩, -⟩ := this
  exact hn

theorem noteBound_new {s : State} {n i : Nat} {l : Launch} (hl : SMap.find s.launches n = some l) (hi : i ∉ l.bound) :
    s.noteBound n i = { s with launches := SMap.put s.launches n { l with bound := i :: l.bound } } := by
  unfold State.noteBound
  rw [hl]
  exact if_neg (by simpa using hi)

theorem unbindNext_none {s : State} {slot : Nat} (h : SMap.find s.next slot = none) : s.unbindNext slot = s := by
  unfold State.unbindNext
  rw [h]

theorem putNext_settled {s : State} {slot : Nat} (op : Nat) (r : NextRec) (hslot : slot < 162)
    (hst : (s.ctx slot).st = .idle) : s.putNext slot op r = (s.writeNext slot op r).takeNextRec slot op r := by
  unfold State.putNext
  rw [if_neg (by omega)]
  exact if_neg (by simp [hst])

/-- A bind record that takes effect on an idle slot without a NEXT (R295). -/
theorem takeNextRec_bind_idle {s : State} {slot : Nat} {r : NextRec} {l : Launch}
    (hst : (s.ctx slot).st = .idle) (hnext : SMap.find s.next slot = none)
    (hl : SMap.find s.launches r.lctr.toNat = some l) (hb : r.unit.toNat ∉ l.bound) :
    (s.takeNextRec slot 1 r).next = SMap.put s.next slot (1, r) ∧ (s.takeNextRec slot 1 r).nextLater = s.nextLater ∧
    (s.takeNextRec slot 1 r).launches = SMap.put s.launches r.lctr.toNat { l with bound := r.unit.toNat :: l.bound } ∧
    (s.takeNextRec slot 1 r).ctxs = SMap.set s.ctxs Ctx.init slot { s.ctx slot with st := .loading } := by
  unfold State.takeNextRec
  rw [unbindNext_none hnext]
  extract_lets c s0 s1 s2
  have hs2 : s2 = { s1 with launches := SMap.put s1.launches r.lctr.toNat { l with bound := r.unit.toNat :: l.bound } } :=
    (if_pos rfl).trans (noteBound_new (s := s1) hl hb)
  rw [show c.st = .idle from hst, hs2]
  exact ⟨rfl, rfl, rfl, rfl⟩

/-- A bind record written for such a slot (R294, R295). -/
theorem putNext_bind_idle {s : State} {slot : Nat} {r : NextRec} {l : Launch} (hslot : slot < 162)
    (hst : (s.ctx slot).st = .idle) (hnext : SMap.find s.next slot = none)
    (hl : SMap.find s.launches r.lctr.toNat = some l) (hb : r.unit.toNat ∉ l.bound) :
    (s.putNext slot 1 r).next = SMap.put s.next slot (1, r) ∧ (s.putNext slot 1 r).nextLater = s.nextLater ∧
    (s.putNext slot 1 r).launches = SMap.put s.launches r.lctr.toNat { l with bound := r.unit.toNat :: l.bound } ∧
    (s.putNext slot 1 r).ctxs = SMap.set s.ctxs Ctx.init slot { s.ctx slot with st := .loading } := by
  have hw : (s.writeNext slot 1 r).next = s.next ∧ (s.writeNext slot 1 r).nextLater = s.nextLater ∧
      (s.writeNext slot 1 r).launches = s.launches ∧ (s.writeNext slot 1 r).ctxs = s.ctxs := by
    simp [State.writeNext]
  rw [putNext_settled 1 r hslot hst]
  generalize s.writeNext slot 1 r = w at *
  obtain ⟨hn, hnl, hla, hc⟩ := hw
  have hctx : w.ctx slot = s.ctx slot := congrArg (SMap.get · Ctx.init slot) hc
  rw [← hn, ← hnl, ← hla, ← hc, ← hctx]
  exact takeNextRec_bind_idle (by rw [hctx, hst]) (by rw [hn, hnext]) (by rw [hla, hl]) hb

/-- A decision for a class D launch that places one unit on a free context (R296). -/
theorem dispatchDecision_classD {s : State} {cls : UnitClass} {n i sl : Nat} {is : List Nat} {l : Launch}
    (hboot : s.boot.code = 2) (hpick : s.pickD cls = some (n, l))
    (hfloor : (s.belowFloor cls && !(s.waitingOf cls true).isEmpty) = false) (hplace : s.placement n l cls = [sl])
    (hun : l.unbound = i :: is) (hl : SMap.find s.launches n = some l) (hn : n < 8192) (hi : i < 2048) (hsl : sl < 162)
    (hst : (s.ctx sl).st = .idle) (huid : (s.ctx sl).uid = none) :
    Completes (exec (.dispatchDecision cls) s) (fun t => SMap.find t.next sl = some (1, bindRec l n i l.prio false 0) ∧
        t.ctx sl = { s.ctx sl with st := .loading } ∧ (∀ k, k ≠ sl → t.ctx k = s.ctx k) ∧
        SMap.find t.launches n = some { l with bound := i :: l.bound } ∧ t.lseed = s.lseed ∧
        t = { s with next := t.next, launches := t.launches, ctxs := t.ctxs, regs := t.regs }) := by
  have hbound : i ∉ l.bound := by
    have : i ∈ l.unbound := by rw [hun]; exact List.mem_cons_self
    simpa using (List.mem_filter.mp this).2
  have hlctr : (bindRec l n i l.prio false 0).lctr.toNat = n := Nat.mod_eq_of_lt hn
  have hunit : (bindRec l n i l.prio false 0).unit.toNat = i := Nat.mod_eq_of_lt hi
  have hnext : SMap.find s.next sl = none := next_of_mem_placement (n := n) (l := l) (cls := cls) (by simp [hplace])
  have hserve : s.serve n l [sl] = s.putNext sl 1 (bindRec l n i l.prio false 0) := by
    have hmates : s.gangMates [sl] = [] := by
      simp [State.gangMates, State.gangSlots, huid, hst]
    simp [State.serve, State.writeNexts, State.outgoing, hun, hst, huid, hmates]
  have hexec : exec (.dispatchDecision cls) s = .next (s.serve n l (s.placement n l cls)) := by
    simp [execDispatchDecision, hboot, hpick, hfloor]
  obtain ⟨hnx, hnl, hla, hc⟩ := putNext_bind_idle hsl hst hnext (by rw [hlctr]; exact hl) (by rw [hunit]; exact hbound)
  rw [hlctr, hunit] at hla
  have hframe := eq_of_butNext (putNext_butNext s sl 1 (bindRec l n i l.prio false 0))
  rw [hnl] at hframe
  rw [hexec, hplace, hserve]
  generalize s.putNext sl 1 (bindRec l n i l.prio false 0) = t at *
  refine ⟨t, rfl, ?_, ?_, fun k hk => ?_, ?_, ?_, hframe⟩
  · rw [hnx]; exact SMap.find_put_self _ _ _
  · rw [State.ctx, hc]; exact SMap.get_set_self _ _ _ _
  · rw [State.ctx, hc]; exact SMap.get_set_ne _ _ _ hk
  · rw [hla]; exact SMap.find_put_self _ _ _
  · rw [hframe]

/-- With no class D launch to place, a lottery moves LSEED on (R297). -/
theorem dispatchDecision_lottery {s : State} {cls : UnitClass} (hboot : s.boot.code = 2) (hpick : s.pickD cls = none)
    (helig : (s.headsL cls).any (fun h => s.tickets h.1 ≠ 0) = true) :
    Completes (exec (.dispatchDecision cls) s) (fun t => t.lseed = lotteryStep s.lseed ∧
        t = { s with lseed := t.lseed, next := t.next, launches := t.launches, ctxs := t.ctxs, regs := t.regs,
                     nextLater := t.nextLater }) := by
  have hL : (s.pickL cls).1 = { s with lseed := lotteryStep s.lseed } := by
    have hne : ((s.headsL cls).filter (fun h => s.tickets h.1 ≠ 0)).isEmpty = false := by
      obtain ⟨h, hmem, ht⟩ := List.any_eq_true.mp helig
      exact List.isEmpty_eq_false_iff_exists_mem.mpr ⟨h, List.mem_filter.mpr ⟨hmem, ht⟩⟩
    unfold State.pickL
    extract_lets heads elig x t th s1
    rw [if_neg (by rw [show elig.isEmpty = false from hne]; decide)]
    split <;> rfl
  have hexec : ∃ t : State, exec (.dispatchDecision cls) s = .next t ∧ t.butNext = (s.pickL cls).1.butNext := by
    rw [exec_dispatchDecision]
    unfold execDispatchDecision
    rw [if_neg (by simp [hboot]), hpick]
    simp only [Option.isNone_none, Bool.true_or, if_true]
    rcases hp : s.pickL cls with ⟨s1, _ | ⟨n, l⟩⟩
    · exact ⟨_, rfl, resumeOne_butNext s1 cls⟩
    · exact ⟨_, rfl, writeNexts_butNext s1 _⟩
  obtain ⟨t, ht, hframe⟩ := hexec
  rw [hL] at hframe
  have := eq_of_butNext hframe
  have hseed : t.lseed = lotteryStep s.lseed := by rw [this]
  refine ⟨t, ht, hseed, ?_⟩
  rw [hseed]
  exact this

/-! ### Launches, phases and graphs (R14, R289, R290, R296) -/

/-- Without verified firmware nothing is decided, entered or started (R14). -/
theorem firmware_idle {s : State} (h : s.boot.code ≠ 2) (ctr : Nat) (cls : UnitClass) :
    exec (.dispatchDecision cls) s = .next s ∧ exec (.phaseEntry ctr) s = .next s ∧ exec .serviceTaskStart s = .next s := by
  refine ⟨?_, ?_, ?_⟩
  · exact if_pos h
  · rw [exec_phaseEntry, execPhaseEntry]
    split
    · rfl
    · exact if_pos (.inr (.inr h))
  · exact if_pos (.inl h)

/-- A waiting launch of class D whose deadline TIME has passed is counted (R296). -/
theorem launchOverdue_counts {s : State} {ctr : Nat} {l : Launch} (hl : SMap.find s.launches ctr = some l) (hc : l.cls ≠ 2)
    (hw : s.waiting ctr l = true) (hq : s.classL l.queue = false) (ho : l.overdue = false) (hd : l.deadline < s.time.toNat) :
    Completes (exec (.launchOverdue ctr) s) (fun t =>
      SMap.find t.launches ctr = some { l with overdue := true } ∧
      t.sub l.queue = { s.sub l.queue with overdue := (s.sub l.queue).overdue + 1 } ∧
      t = { s with launches := t.launches, subs := t.subs }) := by
  rw [exec_launchOverdue, execLaunchOverdue, hl]
  exact ⟨_, if_pos ⟨hc, hw, by simp [hq], by simp [ho], hd⟩, SMap.find_put_self _ _ _, SMap.get_set_self _ _ _ _, rfl⟩

/-- A phase at the head of its queue whose descriptor has been read (R290). -/
theorem phaseEntry_chooses {s : State} {ctr : Nat} {l : Launch} {desc h gs : List Byte} {gl : Nat} (hboot : s.boot.code = 2)
    (hl : SMap.find s.launches ctr = some l) (hc : l.cls = 2) (hh : s.atHead ctr l = true) (hs : s.statusWalk l = .bytes [])
    (hd : s.devRead ctr l.job 64 (l.field 0 8) = .bytes desc) :
    (chooseVariant desc (s.jobBudget l.job).toNat = none → exec (.phaseEntry ctr) s = .next s) ∧
    (chooseVariant desc (s.jobBudget l.job).toNat = some gl → s.devRead ctr l.job 16 gl = .bytes h → ofBytes (h.take 2) ≠ 0 →
      ofBytes (h.take 2) ≤ 1024 → (∀ b ∈ h.drop 2, b = 0) → s.devRead ctr l.job (8 * ofBytes (h.take 2)) (gl + 16) = .bytes gs →
      Completes (exec (.phaseEntry ctr) s) (fun t => t = { s with counters := t.counters, phases := t.phases } ∧
        t.counter ctr = { s.counter ctr with target := ofBytes (h.take 2) } ∧ SMap.find t.phases ctr = some
          ⟨ctr, l.job, (List.range (ofBytes (h.take 2))).map (fun i => bytesWord ((gs.drop (8 * i)).take 8)), 0⟩)) := by
  rw [exec_phaseEntry, execPhaseEntry, hl]
  dsimp only
  rw [if_neg (by simp [hc, hh, hboot]), hs, hd]
  dsimp only
  constructor
  · intro hv
    rw [hv]
  · intro hv hr h0 h1 hz hg
    rw [hv]
    dsimp only
    rw [hr]
    dsimp only
    rw [if_neg (by simpa [h0] using ⟨by omega, hz⟩), hg]
    exact ⟨_, rfl, rfl, SMap.get_set_self _ _ _ _, SMap.find_put_self _ _ _⟩

/-- The next graph of a phase starts (R289, R290). -/
theorem graphStart_starts {s : State} {ctr : Nat} {p : Phase} {a : Word} {h rs : List Byte}
    (hp : SMap.find s.phases ctr = some p) (hg : ∀ g ∈ s.graphs, g.2.phase.map (·.1) ≠ some ctr)
    (ha : p.graphs[p.done]? = some a) (hh : s.devRead ctr p.job 16 a.toNat = .bytes h)
    (h0 : ofBytes (h.take 2) ≠ 0) (h1 : ofBytes (h.take 2) ≤ 255) (hgc : ofBytes ((h.drop 2).take 2) < 8192)
    (hz : ∀ b ∈ h.drop 4, b = 0) (hj : s.ctrOfJob p.job (ofBytes ((h.drop 2).take 2)) = true)
    (hs : (s.counter (ofBytes ((h.drop 2).take 2))).state ≠ 1)
    (hr : s.devRead ctr p.job (16 * ofBytes (h.take 2)) (a.toNat + 16) = .bytes rs) :
    Completes (exec (.graphStart ctr) s) (fun t =>
      t = { s with counters := t.counters, graphs := t.graphs, seq := s.seq + ofBytes (h.take 2) } ∧
      t.counter (ofBytes ((h.drop 2).take 2)) = { s.counter (ofBytes ((h.drop 2).take 2)) with
        kind := 3, state := 1, value := 0, target := ofBytes (h.take 2), parent := ctr } ∧
      ∃ g : Graph, SMap.find t.graphs (ofBytes ((h.drop 2).take 2)) = some g ∧ g.job = p.job ∧ g.phase = some (ctr, p.done)) := by
  rw [exec_graphStart, execGraphStart, hp]
  dsimp only
  rw [if_neg (by simpa using fun n x hx => hg (n, x) hx), ha]
  dsimp only
  rw [hh]
  dsimp only
  rw [if_neg (by simpa [h0, hj, hs] using ⟨by omega, by omega, hz⟩), hr]
  exact ⟨_, rfl, rfl, SMap.get_set_self _ _ _ _, _, SMap.find_put_self _ _ _, rfl, rfl⟩

/-! ### What a write by the device changes (R250, R278) -/

/-- A state without its bytes, caches, tags, errors, growth counters, cores and lanes. -/
def State.butData (s : State) : State :=
  { s with mem := [], memKey := [], lines := [], tags := [], tagLast := [], growth := [], poison := [], spad := [], cores := [],
           scratch := [], scratchWas := [], lanes := [], bank := [], fwMem := [] }

/-- Replacing what `butData` leaves out changes nothing that it keeps. -/
theorem butData_data (s : State) (mem : List Host.Cell) (memKey : SMap Nat) (lines : List Line) (tags : SMap (BitVec 24))
    (tagLast : SMap Nat) :
    { s with mem := mem, memKey := memKey, lines := lines, tags := tags, tagLast := tagLast }.butData = s.butData := rfl

theorem memPut_butData (s : State) (key pa : Nat) (b : Byte) : (s.memPut key pa b).butData = s.butData := by
  unfold State.memPut
  extract_lets sec
  split
  · exact butData_data s _ _ _ _ _
  · split
    · exact butData_data s _ _ _ _ _
    · exact butData_data s _ _ _ _ _

theorem memPuts_butData (s : State) (key a : Nat) (bs : List Byte) : (s.memPuts key a bs).butData = s.butData := by
  induction bs generalizing s a with
  | nil => rfl
  | cons b bs ih => rw [State.memPuts, ih, memPut_butData]

theorem loadTags_butData (s : State) (k : Nat) : (s.loadTags k).butData = s.butData := by
  unfold State.loadTags
  split <;> rfl

theorem setTag_butData (s : State) (k : Nat) (t : BitVec 24) : (s.setTag k t).butData = s.butData := loadTags_butData s k

theorem clearTags_butData (s : State) (ts : List Nat) : (s.clearTags ts).butData = s.butData :=
  foldl_keeps (p := State.butData) (fun s t => setTag_butData s t _) s ts

theorem spillTags_butData (s : State) (line : Nat) : (s.spillTags line).butData = s.butData := by
  unfold State.spillTags
  split
  · rfl
  · extract_lets +onlyGivenNames k
    split
    · rfl
    · exact (butData_data _ _ _ _ _ _).trans (memPuts_butData s _ _ _)

theorem fillTags_butData (s : State) (line : Nat) : (s.fillTags line).butData = s.butData := by
  unfold State.fillTags
  split
  · exact loadTags_butData s _
  · rfl

theorem touch_butData (s : State) (key pa : Nat) (write : Bool) : (s.touch key pa write).butData = s.butData := by
  unfold State.touch
  extract_lets line slice sec bit old rest behind fresh inSet src
  clear_value old rest fresh
  split
  · exact butData_data s _ _ _ _ _
  · split
    · exact (butData_data _ _ _ _ _ _).trans (fillTags_butData s line)
    · split
      · rfl
      · exact (butData_data _ _ _ _ _ _).trans ((fillTags_butData _ line).trans (spillTags_butData s _))

theorem touchWrites_butData (s : State) (ls : List Loc) : (s.touchWrites ls).butData = s.butData := by
  refine foldl_keeps (p := State.butData) (fun s l => ?_) s ls
  split
  · split
    · exact touch_butData s _ _ _
    · rfl
  · rfl

theorem fillArrive_butData (s : State) (lane : Nat) (x : Lane) (bank row byte : Nat) (b : Byte) :
    (s.fillArrive lane x bank row byte b).butData = s.butData := by
  unfold State.fillArrive
  extract_lets y
  split <;> rfl

theorem writeLoc_butData (s : State) (l : Loc) (b : Byte) : (s.writeLoc l b).butData = s.butData := by
  unfold State.writeLoc
  split
  · exact memPut_butData s _ _ b
  · rfl
  · rfl
  · extract_lets x
    split
    · exact fillArrive_butData s _ _ _ _ _ b
    · rfl
  · rfl
  · rfl

theorem writeLocs_butData (s : State) (ls : List Loc) (bs : List Byte) : (s.writeLocs ls bs).butData = s.butData := by
  induction ls generalizing s bs with
  | nil => rfl
  | cons l ls ih =>
    cases bs with
    | nil => rfl
    | cons b bs => rw [State.writeLocs, ih, writeLoc_butData]

theorem eccClear_butData (s : State) (ls : List Loc) : (s.eccClear ls).butData = s.butData := by
  unfold State.eccClear
  split <;> rfl

theorem perform_butData (s : State) (ls : List Loc) (bs : List Byte) : (s.perform ls bs).butData = s.butData := by
  unfold State.perform
  rw [eccClear_butData, writeLocs_butData, touchWrites_butData]

theorem jobWrite_butData (s : State) (dom j a : Nat) (bs : List Byte) : (s.jobWrite dom j a bs).butData = s.butData := by
  unfold State.jobWrite
  split
  · rw [perform_butData, clearTags_butData]
  · rfl

/-! ### What a status update changes (R250) -/

/-- A state without what a status update may change: data, launches, submission queues, held updates, jobs condemned. -/
def State.butStatus (s : State) : State := { s.butData with launches := [], subs := [], heldStats := [], condemned := [] }

theorem butStatus_of_butData {s t : State} (h : t.butData = s.butData) : t.butStatus = s.butStatus := by
  unfold State.butStatus
  rw [h]

theorem jobWrite_butStatus (s : State) (dom j a : Nat) (bs : List Byte) : (s.jobWrite dom j a bs).butStatus = s.butStatus :=
  butStatus_of_butData (jobWrite_butData s dom j a bs)

theorem jobWrite_launches (s : State) (dom j a : Nat) (bs : List Byte) : (s.jobWrite dom j a bs).launches = s.launches :=
  (congrArg State.launches (jobWrite_butData s dom j a bs) :)

theorem statNow_butStatus (s : State) (n : Nat) (l : Launch) (u : StatUpd) : (s.statNow n l u).butStatus = s.butStatus := by
  unfold State.statNow
  split
  · rfl
  · split
    · rfl
    · exact jobWrite_butStatus s _ _ _ _
  · exact jobWrite_butStatus s _ _ _ _
  · rfl

theorem statNow_launches (s : State) (n : Nat) (l : Launch) (u : StatUpd) : (s.statNow n l u).launches = s.launches := by
  unfold State.statNow
  split
  · rfl
  · split
    · rfl
    · exact jobWrite_launches s _ _ _ _
  · exact jobWrite_launches s _ _ _ _
  · rfl

theorem launchStat_butStatus (s : State) (n : Nat) (u : StatUpd) : (s.launchStat n u).butStatus = s.butStatus := by
  unfold State.launchStat
  split
  · rfl
  · split
    · extract_lets s1
      have h1 : s1.butStatus = s.butStatus := statNow_butStatus s n _ u
      clear_value s1
      rw [← h1]
      split <;> rfl
    · split
      · split <;> rfl
      · rfl

/-- The job of a launch, if there is one. -/
def State.launchJob (s : State) (n : Nat) : Option Nat := (SMap.find s.launches n).map (·.job)

/-- A status update leaves every launch with its job. -/
theorem launchStat_launchJob (s : State) (n : Nat) (u : StatUpd) (k : Nat) :
    (s.launchStat n u).launchJob k = s.launchJob k := by
  unfold State.launchStat
  split
  · rfl
  next l hl =>
    split
    · extract_lets s1
      have h1 : s1.launches = s.launches := statNow_launches s n l u
      clear_value s1
      unfold State.launchJob
      split
      · rw [h1]
      · change (SMap.find (SMap.put s1.launches n { l with translated := true }) k).map (·.job) = _
        rw [SMap.find_put, h1]
        split
        next hk => rw [hk, hl]; rfl
        · rfl
    · split
      · split <;> rfl
      · rfl

theorem ctrJob_eq (s : State) (n : Nat) :
    s.ctrJob n = (s.launchJob n).getD (((SMap.find s.graphs n).map (·.job)).getD (s.counter n).job) := by
  unfold State.ctrJob State.launchJob
  cases SMap.find s.launches n <;> cases SMap.find s.graphs n <;> rfl

/-! ### How cancelled work settles (R292, R293) -/

theorem jobIrq_keeps {β : Type} {p : State → β} (hp : ∀ (s : State) q, p { s with irqs := q } = p s) (s : State) (j vec : Nat) :
    p (s.jobIrq j vec) = p s := by
  refine foldl_keeps (p := p) (fun s f => ?_) s _
  split
  · exact hp s _
  · rfl

theorem jobIrq_if_keeps {β : Type} {p : State → β} (hp : ∀ (s : State) q, p { s with irqs := q } = p s) (b : Bool) (s : State)
    (j vec : Nat) : p (if b then s.jobIrq j vec else s) = p s := by
  split
  · exact jobIrq_keeps hp s j vec
  · rfl

/-- One counter of a job that settles as CANCELLED. -/
def State.cancelCounter (j : Nat) (s : State) (c : Nat × Counter) : State :=
  let s := s.setCounter c.1 { c.2 with state := 3 }
  if c.2.ien then s.jobIrq j 0 else s

theorem cancelCounter_counters (j : Nat) (s : State) (c : Nat × Counter) :
    (s.cancelCounter j c).counters = (s.setCounter c.1 { c.2 with state := 3 }).counters :=
  jobIrq_if_keeps (p := State.counters) (fun _ _ => rfl) _ _ j 0

theorem cancelCounter_counter (j : Nat) (s : State) (c : Nat × Counter) (n : Nat) :
    (s.cancelCounter j c).counter n = (s.setCounter c.1 { c.2 with state := 3 }).counter n :=
  congrArg (SMap.get · Counter.init n) (cancelCounter_counters j s c)

/-- What only counters and interrupts could change stands through the settling of one. -/
theorem cancelCounter_keeps {β : Type} {p : State → β} (hp : ∀ (s : State) m q, p { s with counters := m, irqs := q } = p s) (j : Nat)
    (s : State) (c : Nat × Counter) : p (s.cancelCounter j c) = p s :=
  (jobIrq_if_keeps (fun s q => hp s s.counters q) _ _ j 0).trans (hp s _ s.irqs)

theorem cancelCounters_keeps {β : Type} {p : State → β} (hp : ∀ (s : State) m q, p { s with counters := m, irqs := q } = p s)
    (s : State) (j : Nat) : p (s.cancelCounters j) = p s :=
  foldl_keeps (cancelCounter_keeps hp j) s _

/-- A counter that has settled, or is among those that settle, ends as CANCELLED. -/
theorem cancelCounter_foldl_state {j n : Nat} (cs : List (Nat × Counter)) (s : State)
    (h : (s.counter n).state = 3 ∨ ∃ c, (n, c) ∈ cs) : ((cs.foldl (State.cancelCounter j) s).counter n).state = 3 := by
  induction cs generalizing s with
  | nil => simpa using h
  | cons a cs ih =>
    refine ih _ ?_
    rw [cancelCounter_counter]
    by_cases hn : n = a.1
    · left
      rw [hn, State.setCounter_self]
    · rw [State.setCounter_ne _ _ _ hn]
      refine h.imp_right fun ⟨c, hc⟩ => ⟨c, (List.mem_cons.mp hc).resolve_left fun he => hn (by rw [← he])⟩

theorem cancelCounters_state {s : State} {j n : Nat} {c : Counter} (hc : SMap.find s.counters n = some c) (hj : s.ctrJob n = j)
    (hs : c.state = 1) (hk : c.kind ≠ 1) : ((s.cancelCounters j).counter n).state = 3 :=
  cancelCounter_foldl_state _ s (.inr ⟨c, List.mem_filter.mpr ⟨mem_of_find hc, by simp [hj, hs, hk]⟩⟩)

theorem endJob_jobValid (s : State) (j : Nat) : (s.endJob j).jobValid j = false := by
  have hraw : (s.endJob j).jobWord j 0 = s.jobWord j 0 &&& 0x3FFFFFFFFFFFFFFF := SMap.get_set_self _ _ _ _
  rw [State.jobValid, hraw]
  simp

theorem endJob_job (s : State) (j : Nat) :
    (s.endJob j).job j = { s.job j with active := false, clearing := false, cancelling := false } := SMap.get_set_self _ _ _ _

/-- The cancel of a launch, phase or graph settles at its counter (R293). -/
theorem cancelComplete_work {s : State} {ctr : Nat} (hdue : s.cancelDue ctr = true) (hk : (s.counter ctr).kind ≠ 5)
    (ha : s.arrived (fun n => n == ctr) = true) : Completes (exec (.cancelComplete ctr) s) (fun t =>
      t.counter ctr = { s.counter ctr with state := 3 } ∧ SMap.find t.launches ctr = none ∧ t.ctxs = s.ctxs) := by
  have hrest := launchStat_butStatus s ctr (StatUpd.flag stCancelled)
  rw [exec_cancelComplete, execCancelComplete]
  simp only [hk, false_and, decide_false, Bool.false_and, Bool.or_false, hdue, ha, Bool.not_true, Bool.false_eq_true, if_false]
  generalize s.launchStat ctr (StatUpd.flag stCancelled) = s1 at *
  have hctx : s1.ctxs = s.ctxs := (congrArg State.ctxs hrest :)
  refine ⟨_, rfl, ?_, SMap.find_erase_self _ _, ?_⟩
  · exact (jobIrq_if_keeps (p := (·.counter ctr)) (fun _ _ => rfl) _ _ _ 0).trans (State.setCounter_self _ _ _)
  · exact (jobIrq_if_keeps (p := State.ctxs) (fun _ _ => rfl) _ _ _ 0).trans hctx

/-- The cancel of a job settles at its JCTR (R293). -/
theorem cancelComplete_job {s : State} {ctr : Nat} (hdue : s.cancelDue ctr = true) (hk : (s.counter ctr).kind = 5)
    (hc : (s.job (s.counter ctr).job).cancelling = true)
    (ha : s.arrived (fun n => n == ctr || s.ctrJob n == (s.counter ctr).job) = true) :
    Completes (exec (.cancelComplete ctr) s) (fun t => (t.job (s.counter ctr).job).cancelling = false ∧
      (∀ (n : Nat) (c : Counter), SMap.find s.counters n = some c → s.ctrJob n = (s.counter ctr).job → c.state = 1 → c.kind ≠ 1 →
        (t.counter n).state = 3) ∧
      ((s.job (s.counter ctr).job).clearing = true → t.jobValid (s.counter ctr).job = false) ∧ t.ctxs = s.ctxs) := by
  have hstat : ∀ (s : State) (l : Nat × Launch), (s.launchStat l.1 (StatUpd.flag stCancelled)).butStatus = s.butStatus :=
    fun s l => launchStat_butStatus s l.1 _
  have hjob := fun n => foldl_keeps (f := fun (s : State) (l : Nat × Launch) => s.launchStat l.1 (StatUpd.flag stCancelled))
    (p := (·.launchJob n)) (fun s l => launchStat_launchJob s l.1 _ n) s (s.launches.filter (fun l => l.2.job = (s.counter ctr).job))
  have hrest := foldl_keeps (p := State.butStatus) hstat s (s.launches.filter (fun l => l.2.job = (s.counter ctr).job))
  rw [exec_cancelComplete, execCancelComplete]
  simp only [hk, hc, true_and, decide_true, Bool.true_and, hdue, ha, Bool.not_true, Bool.or_false, Bool.false_eq_true, if_false, if_true]
  generalize (s.counter ctr).job = j at *
  generalize (s.launches.filter (fun l => l.2.job = j)).foldl (fun (s : State) l =>
      s.launchStat l.1 (StatUpd.flag stCancelled)) s = s0 at *
  have hctx : s0.ctxs = s.ctxs := (congrArg State.ctxs hrest :)
  have hctr : s0.counters = s.counters := (congrArg State.counters hrest :)
  have hgr : s0.graphs = s.graphs := (congrArg State.graphs hrest :)
  have hjobs : s0.jobs = s.jobs := (congrArg State.jobs hrest :)
  have hof : ∀ n, s0.ctrJob n = s.ctrJob n := by
    intro n
    rw [ctrJob_eq, ctrJob_eq, hjob, hgr, State.counter, hctr, State.counter]
  have hctx1 : (s0.cancelCounters j).ctxs = s.ctxs := (cancelCounters_keeps (p := State.ctxs) (fun _ _ _ => rfl) s0 j).trans hctx
  have hjobs1 : (s0.cancelCounters j).jobs = s.jobs := (cancelCounters_keeps (p := State.jobs) (fun _ _ _ => rfl) s0 j).trans hjobs
  have hset : ∀ (n : Nat) (c : Counter), SMap.find s.counters n = some c → s.ctrJob n = j → c.state = 1 → c.kind ≠ 1 →
      ((s0.cancelCounters j).counter n).state = 3 := fun n c hf hj hs hk =>
    cancelCounters_state (by rw [hctr]; exact hf) (by rw [hof]; exact hj) hs hk
  generalize s0.cancelCounters j = s1 at *
  refine ⟨_, rfl, ?_⟩
  generalize hs3 : State.setJob _ j _ = s3
  have hjob3 : s3.job j = { s.job j with cancelling := false } := by
    rw [← hs3, State.setJob_self]
    exact congrArg (fun m => { SMap.get m JobSt.init j with cancelling := false }) hjobs1
  have hctx3 : s3.ctxs = s.ctxs := by rw [← hs3]; exact hctx1
  have hctr3 : s3.counters = s1.counters := by rw [← hs3]; rfl
  have hset3 : ∀ n, s3.counter n = s1.counter n := fun n => congrArg (SMap.get · Counter.init n) hctr3
  simp only [← hset3] at hset
  split
  · exact ⟨by rw [endJob_job], hset, fun _ => endJob_jobValid _ _, hctx3⟩
  next hcl => exact ⟨by rw [hjob3], hset, fun h => absurd (by rw [hjob3]; exact h) hcl, hctx3⟩

/-! ### Packets (R280 to R282) -/

/-- The launch that a packet committed to a queue asks for. -/
def State.packetLaunch (s : State) (q packet : Nat) : Launch :=
  { queue := q, job := s.queueJob q, packet := packet, seq := s.seq, translated := false, bound := [], overdue := false,
    cancelling := (s.job (s.queueJob q)).cancelling, node := none, graph := none }

/-- A queue that refuses a packet counts it and keeps the code. -/
def State.refusePacket (s : State) (q e : Nat) : State :=
  s.setSub q { s.sub q with refused := ((s.sub q).refused + 1) % 2 ^ 32, lasterr := e }

theorem commit_full {s : State} {q : Nat} (packet : Nat) (h : bitOf (s.sqcfg q) 63 = false ∨ 64 ≤ s.used q) :
    s.commit q packet = s.refusePacket q 0xFF := by
  have hsub : s.submit q (s.queueJob q) packet false none none = (s, .full) :=
    if_pos (by rcases h with h | h <;> simp [h])
  unfold State.commit
  rw [hsub]
  rfl

theorem commit_refused {s : State} {q packet r : Nat} (hon : bitOf (s.sqcfg q) 63 = true) (hu : s.used q < 64) (hr : r ≠ 0)
    (h : s.packetReason (s.packetLaunch q packet) false = r) : s.commit q packet = s.refusePacket q r := by
  have hsub : s.submit q (s.queueJob q) packet false none none = (s, .refused r) := by
    subst h
    exact (if_neg (by simp [hon, hu])).trans (if_pos hr)
  unfold State.commit
  rw [hsub]
  rfl

theorem commit_accepted {s : State} {q packet : Nat} (hon : bitOf (s.sqcfg q) 63 = true) (hu : s.used q < 64)
    (h : s.packetReason (s.packetLaunch q packet) false = 0) :
    let l := s.packetLaunch q packet
    let n := l.ctl 44 32
    SMap.find (s.commit q packet).launches n = some l ∧ ((s.commit q packet).counter n).state = 1 ∧
      ((s.commit q packet).counter n).value = 0 ∧ ((s.commit q packet).counter n).kind = (if l.cls = 2 then 4 else 2) ∧
      ((s.commit q packet).counter n).target = (if l.cls = 2 then 2 ^ 48 - 1 else l.nunit + 1) ∧
      (s.commit q packet).subs = s.subs ∧ (s.commit q packet).ctxs = s.ctxs := by
  intro l n
  have hsub : ∃ c : Counter, ∃ t : State, s.submit q (s.queueJob q) packet false none none = (t, .accepted n) ∧
      t.launches = SMap.put s.launches n l ∧ t.counter n = c ∧ c.state = 1 ∧ c.value = 0 ∧ c.kind = (if l.cls = 2 then 4 else 2) ∧
      c.target = (if l.cls = 2 then 2 ^ 48 - 1 else l.nunit + 1) ∧ t.subs = s.subs ∧ t.ctxs = s.ctxs := by
    refine ⟨_, _, (if_neg (by simp [hon, hu])).trans (if_neg (not_not_intro h)), rfl, SMap.get_set_self _ _ _ _, rfl, rfl, rfl, rfl,
      rfl, rfl⟩
  obtain ⟨c, t, hsub, hl, hc, h1, h2, h3, h4, h5, h6⟩ := hsub
  have hcommit : s.commit q packet = t := by
    unfold State.commit
    rw [hsub]
  rw [hcommit, hl, hc]
  exact ⟨SMap.find_put_self _ _ _, h1, h2, h3, h4, h5, h6⟩

/-- What a write into a packet window does, the last bytes of a packet included (R280, R282, R324). -/
theorem packet_write (s : State) (fn q off : Nat) (data : List Byte) (hin : off + data.length ≤ 128) :
    let a := 128 * q + off
    let i := if covers off data.length then Instr.submissionCommit fn q off data else .submissionWindowWrite fn q off data
    let packet := ofBytes (Memory.readN (Memory.writeN s.subWin a data) (128 * q) 128)
    let s1 : State := { s with subWin := Memory.writeN s.subWin a data }
    (s.fnQueue fn q = false → exec i s = .next (s.fnError fn)) ∧
    (s.fnQueue fn q = true → covers off data.length = false → exec i s = .next s1) ∧
    (s.fnQueue fn q = true → covers off data.length = true → s.commitHeld fn q = true →
      exec i s = .next { s1 with heldCommit := s.heldCommit ++ [(fn, q, packet)] }) ∧
    (s.fnQueue fn q = true → covers off data.length = true → s.commitHeld fn q = false →
      exec i s = .next (s1.commit q packet)) := by
  intro a i packet s1
  cases hc : covers off data.length
  · have hi : exec i s = execSubmissionWindowWrite fn q off data s := by simp [i, hc]
    rw [hi, execSubmissionWindowWrite, if_pos (by simp [hin, hc])]
    refine ⟨fun hf => ?_, fun hf _ => ?_, fun _ h => ?_, fun _ h => ?_⟩
    · rw [hf]; rfl
    · rw [hf]; rfl
    · cases h
    · cases h
  · have hi : exec i s = execSubmissionCommit fn q off data s := by simp [i, hc]
    rw [hi, execSubmissionCommit, if_pos (by simp [hin, hc])]
    refine ⟨fun hf => ?_, fun _ h => ?_, fun hf _ hh => ?_, fun hf _ hh => ?_⟩
    · rw [hf]; rfl
    · cases h
    · rw [hf, hh]; rfl
    · rw [hf, hh]; rfl

theorem packet_settles (s : State) (fn q off : Nat) (data : List Byte) (hin : off + data.length ≤ 128) :
    let a := 128 * q + off
    let i := if covers off data.length then Instr.submissionCommit fn q off data else .submissionWindowWrite fn q off data
    let packet := ofBytes (Memory.readN (Memory.writeN s.subWin a data) (128 * q) 128)
    let l : Launch := { queue := q, job := s.queueJob q, packet := packet, seq := s.seq, translated := false, bound := [],
                        overdue := false, cancelling := (s.job (s.queueJob q)).cancelling, node := none, graph := none }
    let n := l.ctl 44 32
    (s.fnQueue fn q = false → Completes (exec i s) (fun t => t = { s with fnErr := t.fnErr } ∧
      SMap.get t.fnErr 0 fn = SMap.get s.fnErr 0 fn + 1)) ∧
    (s.fnQueue fn q = true → covers off data.length = false → Completes (exec i s) (fun t => t = { s with subWin := t.subWin } ∧
      (∀ k, k < data.length → Memory.read t.subWin (a + k) = (data[k]?).getD 0) ∧
      (∀ k, (k < a ∨ a + data.length ≤ k) → Memory.read t.subWin k = Memory.read s.subWin k))) ∧
    (s.fnQueue fn q = true → covers off data.length = true → s.commitHeld fn q = true → exec i s =
      .next { s with subWin := Memory.writeN s.subWin a data, heldCommit := s.heldCommit ++ [(fn, q, packet)] }) ∧
    (s.fnQueue fn q = true → covers off data.length = true → s.commitHeld fn q = false → bitOf (s.sqcfg q) 63 = true →
      s.used q < 64 →
      (s.packetReason l false = 0 → Completes (exec i s) (fun t => SMap.find t.launches n = some l ∧ (t.counter n).state = 1 ∧
        (t.counter n).value = 0 ∧ (t.counter n).kind = (if l.cls = 2 then 4 else 2) ∧
        (t.counter n).target = (if l.cls = 2 then 2 ^ 48 - 1 else l.nunit + 1) ∧ t.subs = s.subs ∧ t.ctxs = s.ctxs)) ∧
      (∀ r : Nat, r ≠ 0 → s.packetReason l false = r → Completes (exec i s) (fun t => t.launches = s.launches ∧
        t.counters = s.counters ∧ t.sub q = { s.sub q with refused := ((s.sub q).refused + 1) % 2 ^ 32, lasterr := r }))) ∧
    (s.fnQueue fn q = true → covers off data.length = true → s.commitHeld fn q = false →
      (bitOf (s.sqcfg q) 63 = false ∨ 64 ≤ s.used q) →
      Completes (exec i s) (fun t => t.launches = s.launches ∧ t.counters = s.counters ∧
        t.sub q = { s.sub q with refused := ((s.sub q).refused + 1) % 2 ^ 32, lasterr := 0xFF })) := by
  intro a i packet l n
  obtain ⟨hdrop, hpart, hheld, hcommit⟩ := packet_write s fn q off data hin
  have hrefuse : ∀ (w : List Host.Cell) (e : Nat), Completes (.next (({ s with subWin := w } : State).refusePacket q e))
      (fun t => t.launches = s.launches ∧ t.counters = s.counters ∧
        t.sub q = { s.sub q with refused := ((s.sub q).refused + 1) % 2 ^ 32, lasterr := e }) :=
    fun w e => ⟨_, rfl, rfl, rfl, SMap.get_set_self _ _ _ _⟩
  refine ⟨fun hf => ⟨_, hdrop hf, rfl, SMap.get_set_self s.fnErr 0 (SMap.get s.fnErr 0 fn + 1) fn⟩,
    fun hf hc => ⟨_, hpart hf hc, rfl, fun k hk => ?_, fun k hk => ?_⟩, hheld, fun hf hc hh hon hu => ⟨fun hr => ?_, fun r h0 hr => ?_⟩,
    fun hf hc hh hfull => ?_⟩
  · exact (Memory.read_writeN_in _ _ _ _ hk).trans (by simp [hk])
  · exact Memory.read_writeN_out _ _ _ _ hk
  · exact ⟨_, hcommit hf hc hh, commit_accepted (s := { s with subWin := Memory.writeN s.subWin a data }) hon hu hr⟩
  · rw [hcommit hf hc hh, commit_refused (s := { s with subWin := Memory.writeN s.subWin a data }) hon hu h0 hr]
    exact hrefuse _ r
  · rw [hcommit hf hc hh, commit_full (s := { s with subWin := Memory.writeN s.subWin a data }) packet hfull]
    exact hrefuse _ 0xFF

/-! ### Jobs (R291 to R293) -/

theorem setRaw_jobWord (s : State) (j : Nat) (v : Word) : (s.setRaw (jobOff j) v).jobWord j 0 = v := SMap.get_set_self _ _ _ _

/-- JCTR stands in another word of a job's entry than CTL (R291). -/
theorem setRaw_jobCtr (s : State) (j : Nat) (v : Word) : (s.setRaw (jobOff j) v).jobCtr j = s.jobCtr j := by
  have hne : (0x100000 + 0x100 * j + 8 * 8) / 8 ≠ jobOff j / 8 := by unfold jobOff; omega
  have hraw : (s.setRaw (jobOff j) v).jobWord j 8 = s.jobWord j 8 := get_set_ne_of_default s.regs _ _ v hne
  rw [State.jobCtr, hraw, State.jobCtr]

/-- A job's entry taken VALID, before the job's own state changes (R292, R424). -/
theorem activateJob_eq (s : State) (job : Nat) (v : Word) : ∃ t : State,
    s.activateJob job v = t.setJob job { t.job job with active := true, cancelling := false, clearing := false } ∧
    t.jobWord job 0 = v &&& 0x800000000003FFFF ∧ t.streams = s.streams.filter (fun x => x.1 / 131072 ≠ job) ∧
    t.counter (s.jobCtr job) = { s.counter (s.jobCtr job) with state := 1, value := 0, parent := 0x1FFF } ∧
    t = { s with regs := t.regs, counters := t.counters, jobs := t.jobs, streams := t.streams, txq := t.txq, runs := t.runs } := by
  have hctl : jobCtl v &&& 0xBFFFFFFFFFFFFFFF = v &&& 0x800000000003FFFF := by
    rw [jobCtl, BitVec.and_assoc]
    rfl
  have hctr := setRaw_jobCtr s job (jobCtl v &&& 0xBFFFFFFFFFFFFFFF)
  refine ⟨_, rfl, (setRaw_jobWord s job _).trans hctl, rfl, ?_, rfl⟩
  rw [← hctr]
  exact SMap.get_set_self _ _ _ _

/-- VALID set in an entry that is not valid (R291, R292, R424). -/
theorem jobActivate_valid {s : State} {job : Nat} (hj : job < 256) (hv : s.jobValid job = false) {v : Word}
    (h63 : v.getLsbD 63 = true) : Completes (exec (.jobActivate job v) s) (fun t => t.jobValid job = true ∧
      t.jobWord job 0 = v &&& 0x800000000003FFFF ∧ (t.job job).active = true ∧ (t.job job).cancelling = false ∧
      (t.counter (s.jobCtr job)).state = 1 ∧ (t.counter (s.jobCtr job)).value = 0 ∧ (∀ x ∈ t.streams, x.1 / 131072 ≠ job) ∧
      t = { s with regs := t.regs, counters := t.counters, jobs := t.jobs, streams := t.streams, txq := t.txq, runs := t.runs }) := by
  have hexec : exec (.jobActivate job v) s = .next (s.activateJob job v) := if_pos ⟨hj, h63, by simp [hv]⟩
  obtain ⟨t, ht, hword, hstreams, hcounter, hrest⟩ := activateJob_eq s job v
  rw [ht] at hexec
  refine ⟨_, hexec, ?_, hword, by rw [State.setJob_self], by rw [State.setJob_self], congrArg Counter.state hcounter,
    congrArg Counter.value hcounter, fun x hx => ?_, ?_⟩
  · have hvalid : t.jobValid job = true := by
      rw [State.jobValid, hword]
      simp [h63]
    exact hvalid
  · rw [State.setJob_streams, hstreams] at hx
    simpa using (List.mem_filter.mp hx).2
  · exact congrArg (·.setJob job { t.job job with active := true, cancelling := false, clearing := false }) hrest

/-- With no accepted work of a job, its cancel has nothing to stop (R293). -/
theorem cancelJobN_of_not_busy {s : State} {job : Nat} (hb : s.jobBusy job = false) (hc : (s.job job).cancelling = false) :
    s.cancelJobN job = ((s.setJob job { s.job job with cancelling := true }).jobIrq job 1).irq 0 2 := by
  simp only [State.jobBusy, Bool.or_eq_false_iff] at hb
  obtain ⟨⟨⟨hl, hu⟩, hg⟩, hp⟩ := hb
  have hstop : ∀ {α : Type} {f : α → Nat} {m : SMap α} (g : State → Nat → State) (t : State),
      m.any (fun x => f x.2 == job) = false → ((m.filter (fun x => f x.2 = job)).map (·.1)).foldl g t = t := by
    intro α f m g t h
    rw [List.filter_eq_nil_iff.mpr fun x hx => by simpa using List.any_eq_false.mp h x hx]
    rfl
  unfold State.cancelJobN
  rw [if_neg (by simp [hc])]
  extract_lets c s1 s2 s3 s4 s5
  have h2 : s2 = s1 := hstop State.phaseDown s1 hp
  have h3 : s3 = s1 := (hstop State.graphDown s2 (by rw [h2]; exact hg)).trans h2
  have h4 : s4 = s1 := (hstop State.launchDown s3 (by rw [h3]; exact hl)).trans h3
  have h5 : s5 = s1 := (hstop State.cancelUnit s4 (by rw [h4]; exact hu)).trans h4
  rw [h5]

/-- CANCEL and VALID of a job that is VALID (R293). -/
theorem job_cancel_invalidate {s : State} {job : Nat} (hj : job < 256) (hv : s.jobValid job = true) :
    ((s.job job).cancelling = true → exec (.jobCancelWrite job) s = .next s) ∧
    (s.jobBusy job = false → (s.job job).cancelling = false → exec (.jobCancelWrite job) s =
      .next (((s.setJob job { s.job job with cancelling := true }).jobIrq job 1).irq 0 2)) ∧
    (s.jobBusy job = false → (s.job job).cancelling = false → Completes (exec (.jobInvalidate job) s) (fun t => t.jobValid job = false ∧
      (t.job job).active = false ∧ (∀ x ∈ t.streams, x.1 / 131072 ≠ job) ∧
      t = { s with regs := t.regs, jobs := t.jobs, failing := t.failing, checked := t.checked, streams := t.streams, txq := t.txq })) ∧
    (s.jobBusy job = true ∨ (s.job job).cancelling = true →
      Completes (exec (.jobInvalidate job) s) (fun t => (t.job job).clearing = true)) := by
  have hcancel : exec (.jobCancelWrite job) s = .next (s.cancelJobN job) := if_pos ⟨hj, hv⟩
  have hinvalid : exec (.jobInvalidate job) s = .next (s.invalidateJob job) := if_pos ⟨hj, hv⟩
  refine ⟨fun hc => ?_, fun hb hc => ?_, fun hb hc => ⟨_, hinvalid, ?_⟩, fun h => ⟨_, hinvalid, ?_⟩⟩
  · rw [hcancel, State.cancelJobN, if_pos hc]
  · rw [hcancel, cancelJobN_of_not_busy hb hc]
  · rw [State.invalidateJob, if_neg (by simp [hb, hc])]
    refine ⟨endJob_jobValid s job, by rw [endJob_job], fun x hx => ?_, rfl⟩
    have : x ∈ s.streams.filter (fun x => x.1 / 131072 ≠ job) := hx
    simpa using (List.mem_filter.mp this).2
  · rw [State.invalidateJob, if_pos (by simpa using h)]
    exact congrArg JobSt.clearing (State.setJob_self _ _ _)

/-! ### Service tasks (R281) -/

theorem svcreq_holds (s : State) (v : Word) :
    (s.svc.held.length < 16 → exec (.svcreq v) s = .next { s with svc := { s.svc with held := s.svc.held ++ [v] } }) ∧
    (16 ≤ s.svc.held.length → exec (.svcreq v) s =
      .next { s with svc := { s.svc with done := (s.svc.done + 1) % 2 ^ 32, last := 0xFE } }) :=
  ⟨fun h => if_neg (by omega), fun h => if_pos h⟩

theorem taskEnded_request {s : State} (h : s.svc.own = false) (last : Nat) : s.taskEnded last = { s with svc :=
    { held := s.svc.held.drop 1, running := false, own := false, done := (s.svc.done + 1) % 2 ^ 32, last := last } } := by
  have hsvc : ({ s.svc with held := s.svc.held.drop 1, running := false, done := (s.svc.done + 1) % 2 ^ 32, last := last } : Svc) =
      { held := s.svc.held.drop 1, running := false, own := false, done := (s.svc.done + 1) % 2 ^ 32, last := last } := by simp only [h]
  exact (if_neg (by simp [h])).trans (congrArg (fun v => { s with svc := v }) hsvc)

theorem serviceTaskStart_runs {s : State} {r : Word} {own : Bool} (hboot : s.boot.code = 2) (hrun : s.svc.running = false)
    (hown : s.svc.own = false) (hst : (s.ctx 161).st = .idle)
    (hreq : s.svc.held.head? = some r ∧ own = false ∨
      s.svc.held = [] ∧ Config.firmwareTask s.boot.bytes s.tick = some r ∧ own = true) :
    (Config.service s.boot.bytes (bitsOf r.toNat 63 48) = none → exec .serviceTaskStart s = .next (if own then s else
      { s with svc := { held := s.svc.held.drop 1, running := false, own := false, done := (s.svc.done + 1) % 2 ^ 32, last := 0xFF } })) ∧
    (∀ (entry : Word) (img : List Byte), Config.service s.boot.bytes (bitsOf r.toNat 63 48) = some (entry, img) →
      Completes (exec .serviceTaskStart s) (fun t => let c := t.ctx 161
        t = { s with svc := t.svc, ctxs := t.ctxs, units := t.units, nextUid := s.nextUid + 1 } ∧
        t.svc = { s.svc with running := true, own := own } ∧
        c.pc = pcOf entry ∧ c.level = .management ∧ c.st = .running ∧ c.uid = some s.nextUid ∧ c.xtab = xtabOf img ∧
        (∀ k, c.rd k = if k = 1 then r &&& 0xFFFFFFFFFFFF else 0) ∧ ∀ k, k ≠ 161 → t.ctx k = s.ctx k)) := by
  have hexec : exec .serviceTaskStart s = .next (s.startTask r own) := by
    rw [exec_serviceTaskStart, execServiceTaskStart, if_neg (by simp [hboot, hrun, hst])]
    rcases hreq with ⟨hh, rfl⟩ | ⟨hh, hf, rfl⟩
    · obtain ⟨rs, hrs⟩ := List.head?_eq_some_iff.mp hh
      rw [hrs]
    · rw [hh, hf]
  rw [hexec, State.startTask]
  refine ⟨fun hnone => ?_, fun entry img hsome => ?_⟩
  · rw [hnone]
    dsimp only
    cases own
    · exact congrArg Host.Outcome.next (taskEnded_request hown 0xFF)
    · rfl
  · rw [hsome]
    dsimp only
    generalize hc : ({ Ctx.init with
      g := SMap.set [] 0 1 (r &&& 0xFFFFFFFFFFFF), pc := pcOf entry, level := .management, xtab := xtabOf img,
      uid := some s.nextUid, st := .running, popBase := s.popBases 80 } : Ctx) = c
    refine ⟨_, rfl, ?_⟩
    dsimp only
    rw [State.setCtx_self]
    refine ⟨rfl, rfl, ?_⟩
    subst hc
    refine ⟨rfl, rfl, rfl, rfl, rfl, fun k => ?_, fun k hk => ?_⟩
    · rw [Ctx.rd]
      by_cases h1 : k = 1
      · subst h1
        exact SMap.get_set_self _ _ _ _
      · rw [if_neg h1, SMap.get_set_ne _ _ _ h1]
        split <;> rfl
    · exact State.setCtx_ne _ _ _ hk

theorem stopWork_svc (s : State) (u : Nat) : (s.stopWork u).svc = s.svc := by
  have hstat : (s.launchStat (s.unitAt u).lctr (StatUpd.flag stCancelled)).svc = s.svc :=
    (congrArg State.svc (launchStat_butStatus s _ _) :)
  unfold State.stopWork
  extract_lets +onlyGivenNames mine s1
  have h1 : s1.svc = s.svc := by
    unfold s1
    split
    · exact hstat
    · rfl
  exact h1

theorem stopWork_ctxs (s : State) (u : Nat) : (s.stopWork u).ctxs = s.ctxs := by
  have hstat : (s.launchStat (s.unitAt u).lctr (StatUpd.flag stCancelled)).ctxs = s.ctxs :=
    (congrArg State.ctxs (launchStat_butStatus s _ _) :)
  unfold State.stopWork
  extract_lets +onlyGivenNames mine s1
  have h1 : s1.ctxs = s.ctxs := by
    unfold s1
    split
    · exact hstat
    · rfl
  exact h1

/-- A service task that ends: its request is done with, and its context is free (R281). -/
theorem endTask_request {s : State} (h : s.svc.own = false) (slot last : Nat) :
    (s.endTask slot last).svc =
      { s.svc with held := s.svc.held.drop 1, running := false, done := (s.svc.done + 1) % 2 ^ 32, last := last } ∧
    ((s.endTask slot last).ctx slot).uid = none ∧ ∀ k, k ≠ slot → (s.endTask slot last).ctx k = s.ctx k := by
  unfold State.endTask
  extract_lets c s1
  have h1 : s1.svc = s.svc ∧ s1.ctxs = s.ctxs := by
    unfold s1
    split
    · exact ⟨stopWork_svc s _, stopWork_ctxs s _⟩
    · exact ⟨rfl, rfl⟩
  obtain ⟨hsvc, hctx⟩ := h1
  have hfree : (s1.freeCtx slot).svc = s.svc := hsvc
  have hown : (s1.freeCtx slot).svc.own = false := by rw [hfree, h]
  rw [taskEnded_request hown]
  refine ⟨?_, ?_, fun k hk => ?_⟩
  · dsimp only
    rw [hfree, ← h]
  · exact congrArg Ctx.uid (State.setCtx_self s1 slot _)
  · exact (State.setCtx_ne s1 slot _ hk).trans (congrArg (SMap.get · Ctx.init k) hctx)

theorem eq_nil_of_firstPend {ps : List Pend} (h : firstPend ps = none) : ps = [] := by
  cases ps with
  | nil => rfl
  | cons p ps =>
    rw [firstPend] at h
    split at h
    · split at h <;> cases h
    · cases h

/-- A trap in a service task ends the task, whatever is trapped (R281). -/
theorem takeTrap_endTask (s : State) (t : TrapInfo) (w : Nat) (a : Bool) (pc : Word) (rs : List Replay) :
    ∃ m : List Host.Cell, s.takeTrap s 161 t w a pc rs = { s with fwMem := m }.endTask 161 1 :=
  ⟨_, (takeTrap_task rfl).trans (if_pos rfl)⟩

theorem serviceTaskTrap_takes {s : State} (hrun : s.svc.running = true) (hst : (s.ctx 161).st = .running) :
    (∀ p : Pend, firstPend (s.unitOf 161).pend = some p → exec .serviceTaskTrap s =
      .next (s.takeTrap s 161 ⟨p.cause, p.info, p.addr, p.extra⟩ 0 true (s.ctx 161).pc (s.ctx 161).replay)) ∧
    (∀ (x : TrapInfo) (w : Nat), firstPend (s.unitOf 161).pend = none → s.fetchTrap 161 = some (x, w) →
      exec .serviceTaskTrap s = .next (s.takeTrap s 161 x w false (s.ctx 161).pc (s.ctx 161).replay)) ∧
    (firstPend (s.unitOf 161).pend = none → s.fetchTrap 161 = none → exec .serviceTaskTrap s = .next s) := by
  rw [exec_serviceTaskTrap, execServiceTaskTrap, if_neg (by simp [hrun, hst])]
  refine ⟨fun p hp => ?_, fun x w hp hf => ?_, fun hp hf => ?_⟩
  · rw [hp]
  · rw [hp, hf]
  · rw [hp, hf]

theorem serviceTaskTrap_ends {s : State} (hrun : s.svc.running = true) (hst : (s.ctx 161).st = .running)
    (hown : s.svc.own = false) (h : (s.unitOf 161).pend ≠ [] ∨ s.fetchTrap 161 ≠ none) :
    Completes (exec .serviceTaskTrap s) (fun t => t.svc = { s.svc with
        held := s.svc.held.drop 1, running := false, done := (s.svc.done + 1) % 2 ^ 32, last := 1 } ∧
      (t.ctx 161).uid = none ∧ ∀ k, k ≠ 161 → t.ctx k = s.ctx k) := by
  obtain ⟨hpend, hfetch, -⟩ := serviceTaskTrap_takes hrun hst
  have htrap : ∃ (t : TrapInfo) (w : Nat) (a : Bool), exec .serviceTaskTrap s =
      .next (s.takeTrap s 161 t w a (s.ctx 161).pc (s.ctx 161).replay) := by
    cases hp : firstPend (s.unitOf 161).pend with
    | some p => exact ⟨_, _, _, hpend p hp⟩
    | none =>
      cases hf : s.fetchTrap 161 with
      | none => exact absurd hf (h.resolve_left (not_not_intro (eq_nil_of_firstPend hp)))
      | some x => exact ⟨_, _, _, hfetch x.1 x.2 hp hf⟩
  obtain ⟨t, w, a, hexec⟩ := htrap
  obtain ⟨m, hm⟩ := takeTrap_endTask s t w a (s.ctx 161).pc (s.ctx 161).replay
  rw [hm] at hexec
  exact ⟨_, hexec, endTask_request (s := { s with fwMem := m }) hown 161 1⟩

/-! ### The obligation -/

/-- Settles O55, clause by clause: a decision, a phase, a packet, a cancel, a job's entry and a service task, each by what its step
does to the state. -/
theorem jobEvents : Obligations.JobEvents := by
  unfold Obligations.JobEvents
  intro s job ctr
  refine ⟨fun hboot cls => firmware_idle hboot ctr cls, ?_, fun cls => dispatchDecision_lottery, fun l => launchOverdue_counts,
    fun l desc h gs gl => phaseEntry_chooses, fun p a h rs => graphStart_starts, cancelComplete_work, cancelComplete_job,
    packet_settles s, fun hj hv v => jobActivate_valid hj hv, fun hj hv => job_cancel_invalidate hj hv, svcreq_holds s,
    fun r own => serviceTaskStart_runs, fun hrun hst => ?_⟩
  · exact fun cls n i sl is l => dispatchDecision_classD
  · obtain ⟨hpend, hfetch, hidle⟩ := serviceTaskTrap_takes hrun hst
    exact ⟨hpend, hfetch, hidle, serviceTaskTrap_ends hrun hst⟩

end Sys2Proof.Machine

/-! ## The bank-fill aperture

A counterexample to the host's events: rows of a bank stand one after another, so an offset beyond a row's 2,048 bytes shows the next
row's. -/

namespace Sys2Proof.Machine

/-- The byte of a bank row in the state that a step leads to. -/
def Out.bankByte (o : Out) (lane b row y : Nat) : Byte :=
  match o with
  | .next t => t.bankByte lane b row y
  | _ => 0

/-- A write through the aperture to the first byte of row 1, at reset: the byte that `bankByte` gives for offset 2048 of row 0
of the same bank has the same address, and is the byte written. -/
theorem fillOfRowOne_shows_beyond_rowZero :
    Out.bankByte (exec (.bankFillApertureWrite 2048 [1]) State.reset) 0 0 0 2048 = 1 := by decide +kernel

/-- Refutes O58: the clause that the bank-fill aperture leaves every other byte alone speaks of offsets beyond the 2,048 bytes
of a row as well, and there one row's bytes are the next row's. -/
theorem not_hostEvents : ¬ Obligations.HostEvents := by
  unfold Obligations.HostEvents
  intro h
  obtain ⟨-, -, -, -, -, -, -, -, -, haperture, -⟩ := h State.reset
  obtain ⟨-, -, hfill, -⟩ := haperture 2048 0 [1]
  obtain ⟨t, ht, -, hkeep, -⟩ := hfill (by decide) (by decide) (by decide) (by decide) (by decide) (by decide) (by decide)
    (by decide) (by decide)
  have hsame : t.bankByte 0 0 0 2048 = State.reset.bankByte 0 0 0 2048 := hkeep 0 0 0 2048 (.inr (.inr (.inl (by decide))))
  have hput := fillOfRowOne_shows_beyond_rowZero
  rw [ht, Out.bankByte, hsame] at hput
  exact absurd hput (by decide)

end Sys2Proof.Machine
